-- ==== Sys2Proof/Word.lean ====
section
/-!
DEFINITION. The word types of Dravhal: a register or address of 64 bits, a byte, and the pieces of an
instruction word (00 R9, 20 R313).
-/
namespace Sys2Proof

/-- A 64-bit general register, state register, virtual address or instruction word (R9, R45, R313). -/
abbrev Word := BitVec 64

/-- The smallest addressable unit of memory (R9). -/
abbrev Byte := BitVec 8

/-- The payload of a token register: 16 lanes of 32 bits, lane 0 lowest (R45, R46). -/
abbrev Payload := BitVec 512

/-- One lane of a token, or one element of an accumulator. -/
abbrev Lane := BitVec 32

end Sys2Proof
end

