-- ==== Sys2Proof/Config.lean ====
section
/-!
DEFINITION. What is fixed for one device and what the spec leaves open. Every opaque constant below is a free
value: nothing is known of it but its type, so a theorem that mentions it holds whatever it is (log entry 5).
The natural number they take is State.tick, which each use advances, so two uses are two free values.
-/
namespace Sys2Proof

/-- Rows and columns of the logical tile mesh, 64 by 64 (R4). -/
def Config.side : Nat := 64
/-- Number of tiles (R4). -/
def Config.tiles : Nat := 4096
/-- Number of service cores, four per I/O die (00, Physical organisation); core k is 4096 + k here. -/
def Config.serviceCores : Nat := 8
/-- Number of virtual devices (R234). -/
def Config.vds : Nat := 32
/-- First address of the local window (R58). -/
def Config.localBase : Nat := 0x7FFFFF000000
/-- Size of a tile window, 16 MiB (R187). -/
def Config.windowSize : Nat := 0x1000000
/-- Size of tile store, 1 MiB (R187). -/
def Config.tileStore : Nat := 0x100000
/-- First device physical address of the tile windows (R182). -/
def Config.tileBase : Nat := 0x800000000000
/-- First device physical address of the felt stores (R182). -/
def Config.feltBase : Nat := 0x400000000000
/-- Bytes of usable HBM (R182). -/
def Config.hbmSize : Nat := 0x01C0C0000000
/-- First device physical address of the host aperture (R182). -/
def Config.hostBase : Nat := 0xC00000000000
/-- First device physical address of the I/O die resources (R281). -/
def Config.ioBase : Nat := 0xE00000000000
/-- HBM channel nodes on the SC ring (R204). -/
def Config.ringNodes : Nat := 1024

/-- Free value: a key drawn by the root of trust (R264). -/
opaque Config.key : Nat → BitVec 256
/-- Free value: a byte of host memory as a completion returns it (R279). -/
opaque Config.hostByte : Nat → Nat → Byte
/-- Free value: whether the completion of a load from host memory carries an error (R376). -/
opaque Config.hostFails : Nat → Bool
/-- Free value: what H-mode address translation maps an address of a service core to; none is a translation
fault. The spec gives H its mappings but not their form (R53, R247; log entry 6). -/
opaque Config.hMap : Nat → Word → Option (BitVec 48)
/-- Free value: bytes of the fabric section of a tile slot, whose layout is the device's own (R250). -/
opaque Config.fabricByte : Nat → Nat → Byte
/-- Free value: the reply to a PCI Express configuration request (R276, R286). -/
opaque Config.configReply : Nat → List Byte → List Byte
/-- Free value: a measurement, SHA-384, of the firmware or of its configuration (R276, R286). -/
opaque Config.measure : Nat → BitVec 384
/-- Free value: the element that SELECT samples when the largest logit is infinite, where the weights have no value
(R163); counted over the row's elements. -/
opaque Config.sampleIndex : Nat → Nat
/-- Free value: a lane that an exact REDUCE emits where R88 gives its term no value (R161). -/
opaque Config.openLane : Nat → Nat → BitVec 32

/-- Free value: the fault EPC that an RCB records for a fault that no instruction raised (R29, R32, R150, R239). -/
opaque Config.openEpc : Nat → Word
/-- Free value: the address at which the firmware of a service core begins (R53, R286). -/
opaque Config.firmwarePc : Nat → Word

end Sys2Proof
end

