-- ==== Sys2Proof/Syntax.lean ====
section
/-!
DEFINITION. The instructions and the device's own steps, one constructor for each row of the opcode table.
The first part is what a word of memory can say (chapters 20 to 23); the second is what the table lists as
events: steps that the device takes by itself, each with the operands that pick which one is taken.
-/
namespace Sys2Proof

/-- General register number, g0 to g31 (R45). -/
abbrev GReg := Fin 32
/-- Token register number, v0 to v15 (R45). -/
abbrev VReg := Fin 16
/-- Predicate register number, p0 to p7 (R45). -/
abbrev PReg := Fin 8
/-- Accumulator number, a0 to a7 (R45). -/
abbrev AReg := Fin 8

/-- The guard of an instruction: it executes when p[pg] differs from pn read as a bit (R313, R55). -/
structure Guard where
  pg : PReg
  pn : Bool
  deriving DecidableEq, Repr

/-- A register field that accepts a g or a p register (R326, CMP). -/
inductive GP where
  | g (r : GReg)
  | p (r : PReg)
  deriving DecidableEq, Repr

/-- A register field that is a v register, or a g register with G set (R336). -/
inductive VG where
  | v (r : VReg)
  | g (r : GReg)
  deriving DecidableEq, Repr

/-- Comparison conditions of CMP and CBR (R320, R327). -/
inductive Cond where
  | eq | ne | lt | ge | ltu | geu
  deriving DecidableEq, Repr

/-- Comparison conditions of VCMP (R334). -/
inductive VCond where
  | eq | ne | lt | ge | le | gt
  deriving DecidableEq, Repr

/-- Conditions of WAITA (R437). -/
inductive WCond where
  | eq | ne | geu | ltu
  deriving DecidableEq, Repr

/-- Operations of PLOG (R327). -/
inductive PlogOp where
  | and | or | xor | andn
  deriving DecidableEq, Repr

/-- The rounding field: the mode of FMODE, or a mode of its own (R78). -/
inductive Rm where
  | dyn | rne | rtz | rdn | rup
  deriving DecidableEq, Repr

/-- The ORD field of format F2 (R211, R319). -/
inductive Ord where
  | plain | acq | rel | sc | strm | ar
  deriving DecidableEq, Repr

/-- Scopes of ordering (R212). -/
inductive Scope where
  | tile | rgn | vd | sys
  deriving DecidableEq, Repr

/-- Scalar size codes (R331, R332). -/
inductive Sz where
  | b | bu | h | hu | w | wu | d | du
  deriving DecidableEq, Repr

/-- The format tags of R69, without the untyped tag. -/
inductive Fmt where
  | fp32 | bf16 | fp16 | fp8e4 | fp8e5 | fp6e3 | fp6e2 | fp4 | e8m0
  | int32 | int16 | int8 | uint8 | int4 | int3 | int2 | cb4 | cb3 | idx32 | bits
  deriving DecidableEq, Repr

/-- The reductions of VSCAN and VRED (R434). -/
inductive RedOp where
  | sum | max | min
  deriving DecidableEq, Repr

/-- Sparsity of DDOT (R102). -/
inductive Sparsity where
  | dense | sp24 | sp48
  deriving DecidableEq, Repr

/-- The two ways a word fails to be an instruction (R315 steps 1 to 3). -/
inductive DecErr where
  | illegalEncoding
  | illegalOperand
  deriving DecidableEq, Repr

/-- The descriptor of a COLL as the ranks of its group exchange it: what must agree, and its place among the COLLs of its
VD with the same FIRST and RANKS (R360). -/
structure CollDesc where
  op : Nat
  fmt : BitVec 5
  exact : Bool
  count : Nat
  ranks : Nat
  ordinal : Nat
  deriving DecidableEq, Repr

/-- What the peers of a COLL or XWR answer (R285, R360, R442). -/
inductive PeerReply where
  | done                              -- every byte performed at the peer
  | refused                           -- the peer's window is not LIVE, or the peer may not store to it
  | descs (xs : List CollDesc)        -- the descriptors of all ranks, in rank order
  | ranks (xs : List (List Byte))     -- the contributions of all ranks, in rank order
  deriving DecidableEq, Repr

/-- One placement chosen by the milliner: region, origin column and origin row (R34, R236). -/
structure Place where
  region : Nat
  col : Nat
  row : Nat
  deriving DecidableEq, Repr

/-- The kinds of element that take part in marker handling (R123, R124). -/
inductive Elem where
  | slot (i : Nat)
  | mu (i : Nat)
  | ag (i : Nat)
  | track (i : Nat)
  deriving DecidableEq, Repr

/-- PCI Express atomic operations into HBM (R276). -/
inductive PcieAtomic where
  | fetchAdd | swap | cas
  deriving DecidableEq, Repr

/--
Every row of the opcode table. Operands of an instruction are its fields; operands of an event say which of
the device's own moves is taken, and carry what comes from outside the device.
-/
inductive Instr where
  -- ALU and ALUI (R326, R328)
  | add (c : Guard) (w : Bool) (d a b : GReg)
  | addImm (c : Guard) (w : Bool) (d a : GReg) (imm : BitVec 32)
  | nop
  | sub (c : Guard) (w : Bool) (d a b : GReg)
  | mul (c : Guard) (w : Bool) (d a b : GReg)
  | mulh (c : Guard) (u : Bool) (d a b : GReg)
  | div (c : Guard) (u : Bool) (d a b : GReg)
  | rem (c : Guard) (u : Bool) (d a b : GReg)
  | and (c : Guard) (d a b : GReg)
  | andImm (c : Guard) (d a : GReg) (imm : BitVec 32)
  | andn (c : Guard) (d a b : GReg)
  | or (c : Guard) (d a b : GReg)
  | orImm (c : Guard) (d a : GReg) (imm : BitVec 32)
  | xor (c : Guard) (d a b : GReg)
  | xorImm (c : Guard) (d a : GReg) (imm : BitVec 32)
  | shl (c : Guard) (w : Bool) (d a b : GReg)
  | shlImm (c : Guard) (w : Bool) (d a : GReg) (n : BitVec 6)
  | shr (c : Guard) (w : Bool) (d a b : GReg)
  | shrImm (c : Guard) (w : Bool) (d a : GReg) (n : BitVec 6)
  | sar (c : Guard) (w : Bool) (d a b : GReg)
  | sarImm (c : Guard) (w : Bool) (d a : GReg) (n : BitVec 6)
  | min (c : Guard) (u : Bool) (d a b : GReg)
  | minImm (c : Guard) (u : Bool) (d a : GReg) (imm : BitVec 32)
  | max (c : Guard) (u : Bool) (d a b : GReg)
  | maxImm (c : Guard) (u : Bool) (d a : GReg) (imm : BitVec 32)
  | cmp (c : Guard) (k : Cond) (d : GP) (a b : GReg)
  | cmpImm (c : Guard) (k : Cond) (d : GP) (a : GReg) (imm : BitVec 32)
  | sel (c : Guard) (d a b : GReg) (p : PReg)
  | clz (c : Guard) (d a : GReg)
  | popc (c : Guard) (d a : GReg)
  | bext (c : Guard) (sx : Bool) (d a : GReg) (lsb wm1 : BitVec 6)
  | bins (c : Guard) (d a : GReg) (lsb wm1 : BitVec 6)
  | plog (c : Guard) (op : PlogOp) (d a b : PReg)
  | movi (c : Guard) (d : GReg) (imm : BitVec 32)
  | movhi (c : Guard) (d : GReg) (imm : BitVec 32)
  -- BR and LOOP (R329, R330)
  | br (c : Guard) (hint : Bool) (disp : BitVec 32)
  | cbr (c : Guard) (k : Cond) (hint : Bool) (a b : GReg) (disp : BitVec 32)
  | call (c : Guard) (hint : Bool) (a : GReg) (disp : BitVec 32)
  | jmp (c : Guard) (hint : Bool) (a : GReg) (disp : BitVec 32)
  | ret (c : Guard) (hint : Bool) (a : GReg)
  | loop (c : Guard) (cnt : GReg) (count : BitVec 16) (len : BitVec 16)
  | rep (c : Guard) (n : BitVec 6) (sd sa sb sc : BitVec 4)
  -- LD, ST and ATOM (R331, R332)
  | ld (c : Guard) (sz : Sz) (o : Ord) (sp : Scope) (t base idx : GReg) (off : BitVec 22)
  | st (c : Guard) (sz : Sz) (o : Ord) (sp : Scope) (t base idx : GReg) (off : BitVec 22)
  | aadd (c : Guard) (sz : Sz) (o : Ord) (sp : Scope) (t base i : GReg) (off : BitVec 22)
  | aand (c : Guard) (sz : Sz) (o : Ord) (sp : Scope) (t base i : GReg) (off : BitVec 22)
  | aor (c : Guard) (sz : Sz) (o : Ord) (sp : Scope) (t base i : GReg) (off : BitVec 22)
  | axor (c : Guard) (sz : Sz) (o : Ord) (sp : Scope) (t base i : GReg) (off : BitVec 22)
  | amin (c : Guard) (sz : Sz) (o : Ord) (sp : Scope) (t base i : GReg) (off : BitVec 22)
  | amax (c : Guard) (sz : Sz) (o : Ord) (sp : Scope) (t base i : GReg) (off : BitVec 22)
  | aswap (c : Guard) (sz : Sz) (o : Ord) (sp : Scope) (t base i : GReg) (off : BitVec 22)
  | acas (c : Guard) (sz : Sz) (o : Ord) (sp : Scope) (t base i : GReg) (off : BitVec 22)
  | afmax (c : Guard) (sz : Sz) (o : Ord) (sp : Scope) (t base i : GReg) (off : BitVec 22)
  | afadd (c : Guard) (sz : Sz) (o : Ord) (sp : Scope) (t base i : GReg) (off : BitVec 22)
  -- SYNC (R221, R437, R349)
  | fenceFull (c : Guard) (sp : Scope)
  | fenceRel (c : Guard) (sp : Scope)
  | fenceAcq (c : Guard) (sp : Scope)
  | fenceFetch (c : Guard) (sp : Scope)
  | waita (c : Guard) (k : WCond) (dword : Bool) (d a : GReg)
  | waitaWake (t : Nat)
  | bar (c : Guard) (n : BitVec 4)
  | barEpisodeClose (t : Nat) (n : BitVec 4)
  -- VALU (R334)
  | vadd (c : Guard) (f : Fmt) (rm : Rm) (d a b : VReg)
  | vsub (c : Guard) (f : Fmt) (rm : Rm) (d a b : VReg)
  | vmul (c : Guard) (f : Fmt) (rm : Rm) (d a b : VReg)
  | vfma (c : Guard) (f : Fmt) (rm : Rm) (d a b e : VReg)
  | vmax (c : Guard) (f : Fmt) (d a b : VReg)
  | vmin (c : Guard) (f : Fmt) (d a b : VReg)
  | vabs (c : Guard) (f : Fmt) (d a : VReg)
  | vneg (c : Guard) (f : Fmt) (d a : VReg)
  | vand (c : Guard) (f : Fmt) (d a b : VReg)
  | vor (c : Guard) (f : Fmt) (d a b : VReg)
  | vxor (c : Guard) (f : Fmt) (d a b : VReg)
  | vcmp (c : Guard) (f : Fmt) (k : VCond) (d a b : VReg)
  | vsel (c : Guard) (f : Fmt) (d a b m : VReg)
  | vmov (c : Guard) (d a : VReg)
  | vbcast (c : Guard) (f : Fmt) (d : VReg) (a : GReg)
  | vext (c : Guard) (d : GReg) (a : VReg) (lane : BitVec 4)
  | vmask (c : Guard) (f : Fmt) (d a : VReg) (b : GReg)
  -- VSFU and VCVT (R86, R81)
  | vexp2 (c : Guard) (f : Fmt) (d a : VReg)
  | vlog2 (c : Guard) (f : Fmt) (d a : VReg)
  | vrcp (c : Guard) (f : Fmt) (d a : VReg)
  | vrsq (c : Guard) (f : Fmt) (d a : VReg)
  | vcvt (c : Guard) (f : Fmt) (sat as : Bool) (rm : Rm) (d a : VReg)
  | vqnt (c : Guard) (f : Fmt) (rm : Rm) (d a b : VReg)
  | vdq (c : Guard) (f : Fmt) (sat : Bool) (rm : Rm) (d a b : VReg)
  | vscl (c : Guard) (f : Fmt) (fp32 : Bool) (d a : VReg)
  -- VMEM (R333)
  | vld (c : Guard) (f : Fmt) (o : Ord) (sp : Scope) (t : VReg) (base idx : GReg) (off : BitVec 22)
  | vst (c : Guard) (f : Fmt) (o : Ord) (sp : Scope) (t : VReg) (base idx : GReg) (off : BitVec 22)
  | vldx (c : Guard) (f : Fmt) (o : Ord) (sp : Scope) (t : VReg) (base : GReg) (idx : VReg) (off : BitVec 22)
  | vstx (c : Guard) (f : Fmt) (o : Ord) (sp : Scope) (t : VReg) (base : GReg) (idx : VReg) (off : BitVec 22)
  | vldz (c : Guard) (f : Fmt) (o : Ord) (sp : Scope) (t : VReg) (base idx : GReg) (off : BitVec 22)
  | vstz (c : Guard) (f : Fmt) (o : Ord) (sp : Scope) (t : VReg) (base idx : GReg) (off : BitVec 22)
  -- VLANE (R335)
  | vperm (c : Guard) (d a b : VReg)
  | vscan (c : Guard) (f : Fmt) (op : RedOp) (excl : Bool) (rm : Rm) (d a : VReg)
  | vred (c : Guard) (f : Fmt) (op : RedOp) (rm : Rm) (d a : VReg)
  | vcomp (c : Guard) (d a : VReg)
  | vxpnd (c : Guard) (d a b : VReg)
  | vunpk (c : Guard) (f : Fmt) (part : BitVec 3) (d a : VReg)
  | vpack (c : Guard) (f : Fmt) (part : BitVec 3) (d a : VReg)
  | vrank (c : Guard) (f : Fmt) (desc : Bool) (d a : VReg)
  | vtab (c : Guard) (tb : Bool) (d a : VReg)
  | vcnt (c : Guard) (d : GReg) (a : VReg)
  -- PORT and FAB (R336); an output port is given less 8
  | vpop (c : Guard) (d : VG) (port : Fin 8)
  | vpush (c : Guard) (s : VG) (lr ls : Bool) (port : Fin 8)
  | parw (c : Guard) (d a : GReg)
  | parwDef (c : Guard) (d a : GReg)
  | parr (c : Guard) (d a : GReg)
  | cfg (c : Guard) (a : GReg)
  | cfgInstall (r : Nat)
  | qwait (c : Guard) (d : GReg)
  | qwaitW (c : Guard) (d : GReg)
  | drain (c : Guard) (d : GReg) (port : Fin 8)
  | mark (c : Guard) (port : Fin 8)
  | kill (c : Guard) (d a : GReg)
  | thrd (c : Guard) (d : GReg)
  | thrdK (c : Guard) (d : GReg)
  -- TILE (R91)
  | rdot (c : Guard) (act wt : Fmt) (acc i32 pt : Bool) (ad : AReg) (a b s e : GReg)
  | ddot (c : Guard) (fa fb : Fmt) (acc : Bool) (sp : Sparsity) (mx : Bool) (ad : AReg) (a b s e : GReg)
  | macroStepResult (t : Nat)
  | rank (c : Guard) (wt : Fmt) (b e : GReg)
  | aclr (c : Guard) (ad : AReg)
  | ald (c : Guard) (ad : AReg) (a e : GReg)
  | ast (c : Guard) (ad : AReg) (a e : GReg)
  | tpred (c : Guard) (f : Fmt) (pd : PReg) (a e : GReg)
  -- ENG (R337)
  | cpy (c : Guard) (sp : Scope) (cls : BitVec 2) (z : Bool) (a b n e : GReg)
  | gth (c : Guard) (sp : Scope) (cls : BitVec 2) (a e : GReg)
  | coll (c : Guard) (sp : Scope) (cls : BitVec 2) (a e : GReg)
  | xwr (c : Guard) (sp : Scope) (cls : BitVec 2) (a e : GReg)
  | engineCompletion (id : Nat) (r : PeerReply)
  | peerWriteReceive (win : Nat) (off : Nat) (xs : List Byte) (flag : Option (Nat × BitVec 32))
  | peerLost (entry : Nat)
  -- TASK (R40, R412)
  | spawn (c : Guard) (d a : GReg)
  | run (c : Guard) (d a : GReg)
  | exit (c : Guard) (a : GReg)
  | workerExitComplete (t : Nat)
  | regionExitComplete (r : Nat)
  | yield (c : Guard)
  | trap (c : Guard) (code : BitVec 24)
  -- PRIV (R338)
  | bkpt (c : Guard) (code : BitVec 24)
  | srd (c : Guard) (d : GReg) (n : BitVec 12)
  | swr (c : Guard) (n : BitVec 12) (a : GReg)
  | eret (c : Guard)
  | tlbiVa (c : Guard) (a : GReg)
  | tlbiAll (c : Guard)
  | tlbiS2 (c : Guard) (d a : GReg)
  | tlbiS2all (c : Guard) (d : GReg)
  | tlbiAck (t : Nat)
  | dirty (c : Guard) (d a : GReg)
  | scrub (c : Guard) (d a : GReg)
  | frz (c : Guard) (d a : GReg)
  | frzVd (c : Guard) (d a : GReg)
  | frzVdThaw (vd : Fin 32)
  | wkeyOffer (c : Guard) (d a : GReg)
  | wkeyAccept (c : Guard) (d a : GReg)
  | wkeyInstall (c : Guard) (d a : GReg)
  | wkeyClose (c : Guard) (d a : GReg)
  | wkeyFree (c : Guard) (d a : GReg)
  -- commands and register writes that take effect at the device (R234, R235, R242, R194, R50, R287, R177, R59)
  | vdCreate (vd : Fin 32)
  | vdGrant (vd : Fin 32)
  | vdRevoke (vd : Fin 32)
  | vdStart (vd : Fin 32)
  | vdDestroy (vd : Fin 32)
  | vds2rootWrite (vd : Fin 32) (x : Word)
  | whdataWrite (x : Word)
  | c0limWrite (x : Word)
  | s1rootWrite (vd : Fin 32) (x : Word)
  | barcntWrite (t : Nat) (x : Word)
  | timebaseWrite (x : Word)
  | throtClear (x : Word)
  | boundaryTableWrite (t : Nat) (off : Nat) (x : Word)
  | registerWrite (t : Nat) (off : Nat) (x : Word) (lvl : BitVec 2)
  | accSlotWriteRelease (t : Nat)
  -- the ordering machine (R206, R207, R217, R241, R268, R191)
  -- orderLeave: the access that leaves, then the stores that merge into it (R210)
  | orderLeave (ids : List Nat)
  | queueArrive (id : Nat)
  | nodePerform (id : Nat)
  | reencryptComplete (stack leaf : Nat)
  | accessReply (id : Nat)
  | ringPass
  | walkComplete (t : Nat) (va : Word) (store : Bool)
  | wheelSlot (ty ix : Nat) (id : Nat)
  -- the milliner (R32, R237 to R256, R29, R262)
  | regionPlace (ps : List Place)
  | quantumExpiry (r : Nat)
  | watchdogExpiry (r : Nat)
  | markerPreemptStart (r : Nat)
  | elementMarkerSave (t : Nat) (e : Elem)
  | corePreemptStop (t : Nat)
  | regionSave (r : Nat)
  | preemptTimeout (r : Nat)
  | freezeWave (r : Nat)
  | regionRestore (ps : List Place)
  | faultDomainAction (r : Nat)
  | killNotifyWrite (r : Nat)
  | requestTimeout (id : Nat)
  | softErrorCorrected
  | softErrorUncorrectable (owner : Option (Fin 32))
  -- the stream fabric (R115 to R130, R139, R152 to R163, R379)
  | quiescenceReport (r : Nat)
  | trackHop (t src : Nat)
  | threshArrive (i : Nat)
  | killArrive (i : Nat)
  | agPoint (t a : Nat)
  | agParamArrive (t a : Nat)
  | muAccess (t u : Nat)
  | muDone (t u : Nat)
  | mapFire (t sl : Nat)
  | prefixFire (t sl : Nat)
  | scoreFire (t sl : Nat)
  | boundHeader (t sl : Nat)
  | boundThreshRise (t sl : Nat)
  | topkFire (t sl : Nat)
  | mergeFire (t sl : Nat)
  | joinBuild (t sl : Nat)
  | joinProbe (t sl : Nat)
  | filterFire (t sl : Nat)
  | gatherRequest (t sl : Nat)
  | gatherReply (t sl : Nat) (k : Nat)
  | reduceFire (t sl : Nat)
  | quantFire (t sl : Nat)
  | selectFire (t sl : Nat)
  | flushMarkerAlign (t : Nat) (e : Elem)
  -- the host port, start-up and power (R276 to R287)
  | inboundPostedWrite (f : Nat) (off : Nat) (xs : List Byte) (relaxed : Bool)
  | routeAck (f : Nat) (id : Nat)
  | inboundRead (f : Nat) (off n : Nat)
  | inboundAtomic (f : Nat) (off : Nat) (op : PcieAtomic) (dword : Bool) (x y : Word)
  | perstRelease
  | rotFirmwareVerify (err : BitVec 8)
  | firmwareInit (err : BitVec 8)
  | millinerInit (err : BitVec 8)
  | deviceReady
  | powerThrottle (cls : Fin 4) (mw : BitVec 32) (temp : BitVec 16)
  | overtempShutdown
  | configurationRequest (req : List Byte)
  | perstAssert
  | frameRetransmit (n : Nat)
  -- a word that is no instruction, and a fetch that cannot be made (R339, R61)
  | wordNotAnInstruction (e : DecErr) (w : Word)
  | instructionFetchFault (cause : BitVec 8) (eval : Word)
  deriving DecidableEq, Repr

end Sys2Proof
end

