-- ==== Sys2Proof/WellFormed.lean ====
section
/-!
DEFINITION. Which instructions a word can say: the operand limits of chapter 20 that the types of Instr do not
already carry. An event is well formed when its operands name parts the device has.
-/
namespace Sys2Proof

/-- FP32, BF16, FP16, INT32, INT16, INT8: "fmt" of R334. -/
def Fmt.isLaneFmt : Fmt → Bool
  | .fp32 | .bf16 | .fp16 | .int32 | .int16 | .int8 => true
  | _ => false

/-- INT32, INT16, INT8: "int" of R334. -/
def Fmt.isLaneInt : Fmt → Bool
  | .int32 | .int16 | .int8 => true
  | _ => false

/-- The formats of VSFU (R86) and the sources of VQNT (R81). -/
def Fmt.isWideFloat : Fmt → Bool
  | .fp32 | .bf16 | .fp16 => true
  | _ => false

/-- Targets of VCVT without AS: 0x01 to 0x10 except E8M0 (R81). -/
def Fmt.isCvtTarget : Fmt → Bool
  | .e8m0 | .cb4 | .cb3 | .idx32 | .bits => false
  | _ => true

/-- Narrow tags 0x04 to 0x08 and 0x0C to 0x10 (R81). -/
def Fmt.isNarrow : Fmt → Bool
  | .fp8e4 | .fp8e5 | .fp6e3 | .fp6e2 | .fp4 | .int8 | .uint8 | .int4 | .int3 | .int2 => true
  | _ => false

/-- Tags of 8 bits or more: 0x01 to 0x05, 0x09 to 0x0D, 0x13, 0x14 (R333). -/
def Fmt.isByteWide : Fmt → Bool
  | .fp32 | .bf16 | .fp16 | .fp8e4 | .fp8e5 | .e8m0 | .int32 | .int16 | .int8 | .uint8 | .idx32 | .bits => true
  | _ => false

/-- Tags of a sparse buffer (R292). -/
def Fmt.isSparse : Fmt → Bool
  | .fp32 | .bf16 | .fp16 | .fp8e4 | .fp8e5 | .int32 | .int16 | .int8 | .uint8 | .idx32 | .bits => true
  | _ => false

/-- Narrow tags of VUNPK and VPACK (R335). -/
def Fmt.isPackable : Fmt → Bool
  | .bf16 | .fp16 | .fp8e4 | .fp8e5 | .fp4 | .e8m0 | .int16 | .int8 | .uint8 | .int4 | .cb4 => true
  | _ => false

/-- Tags that TPRED accepts (R108, R411). -/
def Fmt.isPredTag : Fmt → Bool
  | .e8m0 | .cb4 | .cb3 => false
  | _ => true

/-- Element width in bits (R69). -/
def Fmt.width : Fmt → Nat
  | .fp32 | .int32 | .idx32 | .bits => 32
  | .bf16 | .fp16 | .int16 => 16
  | .fp8e4 | .fp8e5 | .e8m0 | .int8 | .uint8 => 8
  | .fp6e3 | .fp6e2 => 6
  | .fp4 | .int4 | .cb4 => 4
  | .int3 | .cb3 => 3
  | .int2 => 2

/-- A rounding field beside a format: 000 for integers (R334). -/
def Rm.okFor (rm : Rm) (f : Fmt) : Bool := !f.isLaneInt || rm == .dyn

/-- SCOPE beside ORD (R211). -/
def scopeOk : Ord → Scope → Bool
  | .plain, sp | .strm, sp => sp == .tile
  | .sc, sp => sp == .sys
  | _, _ => true

def Ord.loadOk : Ord → Bool
  | .plain | .acq | .sc => true
  | _ => false
def Ord.storeOk : Ord → Bool
  | .plain | .rel | .sc | .strm => true
  | _ => false
def Ord.atomOk : Ord → Bool
  | .strm => false
  | _ => true
def Ord.vloadOk : Ord → Bool
  | .plain | .acq => true
  | _ => false
def Ord.vstoreOk : Ord → Bool
  | .plain | .rel | .strm => true
  | _ => false

def Sz.wordOrDword : Sz → Bool
  | .w | .d => true
  | _ => false
def Sz.minmaxOk : Sz → Bool
  | .w | .wu | .d | .du => true
  | _ => false
def Sz.floatOk : Sz → Bool
  | .w | .h => true
  | _ => false
def Sz.storeOk : Sz → Bool
  | .b | .h | .w | .d => true
  | _ => false

/-- Formats of RDOT activations and weights (R94). -/
def Fmt.isRdotAct : Fmt → Bool
  | .fp32 | .bf16 | .fp16 | .fp8e4 | .fp8e5 | .int8 => true
  | _ => false
def Fmt.isRdotWt : Fmt → Bool
  | .int4 | .int3 | .int2 => true
  | _ => false
/-- Formats of DDOT operands (R102). -/
def Fmt.isDdotA : Fmt → Bool
  | .bf16 | .fp16 | .fp8e4 | .fp8e5 | .int8 | .fp6e3 | .fp6e2 | .fp4 => true
  | _ => false
def Fmt.isDdotB : Fmt → Bool
  | .cb4 => true
  | f => f.isDdotA

/-- The state register numbers of R49, R242, R287, R234 and R275. -/
def srnListed : List (BitVec 12) :=
  [0x000, 0x001, 0x002, 0x003, 0x004, 0x010, 0x011, 0x020, 0x021, 0x030, 0x031, 0x040, 0x041, 0x042, 0x043,
   0x044, 0x050, 0x051, 0x060, 0x070, 0x071, 0x080] ++
  [0x100, 0x101, 0x102, 0x110, 0x111, 0x112, 0x113, 0x114, 0x115, 0x120, 0x121, 0x122, 0x123, 0x124, 0x125,
   0x126, 0x127, 0x128, 0x129, 0x130, 0x131, 0x132, 0x133]

/-- Operand limits of an instruction or event. -/
def Instr.wf : Instr → Bool
  | .add c w d a b => !(c == ⟨0, false⟩ && !w && d == 0 && a == 0 && b == 0)   -- that word is NOP (R313)
  | .shlImm _ w _ _ n | .shrImm _ w _ _ n | .sarImm _ w _ _ n => !w || n.toNat < 32
  | .bext _ _ _ _ l w | .bins _ _ _ l w => l.toNat + w.toNat < 64
  | .br _ _ disp | .cbr _ _ _ _ _ disp | .call _ _ _ disp | .jmp _ _ _ disp => disp.toNat % 8 == 0
  | .loop _ cnt count len => len != 0 && (cnt == 0 || count == 0)
  | .ld _ sz o sp _ _ _ _ => sz != .du && o.loadOk && scopeOk o sp
  | .st _ sz o sp _ _ _ _ => sz.storeOk && o.storeOk && scopeOk o sp
  | .aadd _ sz o sp _ _ _ _ | .aand _ sz o sp _ _ _ _ | .aor _ sz o sp _ _ _ _ | .axor _ sz o sp _ _ _ _
  | .aswap _ sz o sp _ _ _ _ | .acas _ sz o sp _ _ _ _ => sz.wordOrDword && o.atomOk && scopeOk o sp
  | .amin _ sz o sp _ _ _ _ | .amax _ sz o sp _ _ _ _ => sz.minmaxOk && o.atomOk && scopeOk o sp
  | .afmax _ sz o sp _ _ _ _ | .afadd _ sz o sp _ _ _ _ => sz.floatOk && o.atomOk && scopeOk o sp
  | .vadd _ f rm _ _ _ | .vsub _ f rm _ _ _ | .vmul _ f rm _ _ _ => f.isLaneFmt && rm.okFor f
  | .vfma _ f rm _ _ _ _ => f.isLaneFmt && rm.okFor f
  | .vmax _ f _ _ _ | .vmin _ f _ _ _ | .vabs _ f _ _ | .vneg _ f _ _ | .vcmp _ f _ _ _ _ | .vsel _ f _ _ _ _
  | .vbcast _ f _ _ | .vmask _ f _ _ _ | .vrank _ f _ _ _ => f.isLaneFmt
  | .vand _ f _ _ _ | .vor _ f _ _ _ | .vxor _ f _ _ _ => f.isLaneInt
  | .vexp2 _ f _ _ | .vlog2 _ f _ _ | .vrcp _ f _ _ | .vrsq _ f _ _ => f.isWideFloat
  | .vcvt _ f sat as rm _ _ => if as then !sat && rm == .dyn else f.isCvtTarget
  | .vqnt _ f _ _ _ _ | .vscl _ f _ _ _ => f.isNarrow
  | .vdq _ f _ _ _ _ _ => f.isWideFloat
  | .vld _ _ o sp _ _ _ _ => o.vloadOk && scopeOk o sp
  | .vst _ _ o sp _ _ _ _ => o.vstoreOk && scopeOk o sp
  | .vldx _ f o sp _ _ _ _ => f.isByteWide && o.vloadOk && scopeOk o sp
  | .vstx _ f o sp _ _ _ _ => f.isByteWide && o.vstoreOk && scopeOk o sp
  | .vldz _ f o sp _ _ idx _ => f.isSparse && o.vloadOk && scopeOk o sp && idx != 0
  | .vstz _ f o sp _ _ _ _ => f.isSparse && o.vstoreOk && scopeOk o sp
  | .vscan _ f op _ rm _ _ | .vred _ f op rm _ _ => f.isLaneFmt && rm.okFor f && (op == .sum || rm == .dyn)
  | .vunpk _ f part _ _ | .vpack _ f part _ _ => f.isPackable && part.toNat < 32 / f.width
  | .rdot _ act wt _ i32 _ _ _ _ _ _ => act.isRdotAct && wt.isRdotWt && (!i32 || act == .int8)
  | .ddot _ fa fb _ _ mx _ _ _ _ _ => fa.isDdotA && fb.isDdotB && !(mx && fa == .int8 && fb == .int8)
  | .rank _ wt _ _ => wt.isRdotWt
  | .tpred _ f _ _ _ => f.isPredTag
  | .srd _ _ n | .swr _ n _ => srnListed.contains n
  | .waitaWake t | .barEpisodeClose t _ | .macroStepResult t | .workerExitComplete t | .tlbiAck t
  | .barcntWrite t _ | .boundaryTableWrite t _ _ | .registerWrite t _ _ _ | .accSlotWriteRelease t
  | .walkComplete t _ _ | .elementMarkerSave t _ | .corePreemptStop t | .flushMarkerAlign t _ =>
    t < Config.tiles + Config.serviceCores
  | .trackHop t src => t < Config.tiles && 1 ≤ src && src ≤ 42
  | .agPoint t a | .agParamArrive t a => t < Config.tiles && a < 2
  | .muAccess t u | .muDone t u => t < Config.tiles && u < 4
  | .mapFire t i | .prefixFire t i | .scoreFire t i | .boundHeader t i | .boundThreshRise t i | .topkFire t i
  | .mergeFire t i | .joinBuild t i | .joinProbe t i | .filterFire t i | .gatherRequest t i | .gatherReply t i _
  | .reduceFire t i | .quantFire t i | .selectFire t i => t < Config.tiles && i < 4
  | .inboundPostedWrite f _ _ _ | .routeAck f _ | .inboundRead f _ _ | .inboundAtomic f _ _ _ _ _ => f ≤ 32
  | _ => true

/-- A well-formed instruction, as a proposition. -/
abbrev Instr.WellFormed (i : Instr) : Prop := i.wf = true

end Sys2Proof
end

