-- ==== Sys2Proof/Decode.lean ====
section
/-!
DEFINITION. The decoder, total on every 64-bit word, and the encoder, both written from chapter 20 and the rules
it cites. A word that is no instruction is rejected as ILLEGAL_ENCODING or ILLEGAL_OPERAND, in the order of R315.
-/
namespace Sys2Proof

/-! ### Codes of the enumerations -/

def Fmt.tag : Fmt → BitVec 5
  | .fp32 => 0x01 | .bf16 => 0x02 | .fp16 => 0x03 | .fp8e4 => 0x04 | .fp8e5 => 0x05 | .fp6e3 => 0x06
  | .fp6e2 => 0x07 | .fp4 => 0x08 | .e8m0 => 0x09 | .int32 => 0x0A | .int16 => 0x0B | .int8 => 0x0C
  | .uint8 => 0x0D | .int4 => 0x0E | .int3 => 0x0F | .int2 => 0x10 | .cb4 => 0x11 | .cb3 => 0x12
  | .idx32 => 0x13 | .bits => 0x14

/-- The format of a tag; none for untyped and the reserved tags (R69). -/
def Fmt.ofTag (t : BitVec 5) : Option Fmt :=
  match t.toNat with
  | 0x01 => some .fp32 | 0x02 => some .bf16 | 0x03 => some .fp16 | 0x04 => some .fp8e4 | 0x05 => some .fp8e5
  | 0x06 => some .fp6e3 | 0x07 => some .fp6e2 | 0x08 => some .fp4 | 0x09 => some .e8m0 | 0x0A => some .int32
  | 0x0B => some .int16 | 0x0C => some .int8 | 0x0D => some .uint8 | 0x0E => some .int4 | 0x0F => some .int3
  | 0x10 => some .int2 | 0x11 => some .cb4 | 0x12 => some .cb3 | 0x13 => some .idx32 | 0x14 => some .bits
  | _ => none

def Cond.code : Cond → BitVec 4
  | .eq => 0 | .ne => 1 | .lt => 2 | .ge => 3 | .ltu => 4 | .geu => 5
def Cond.ofCode : Nat → Option Cond
  | 0 => some .eq | 1 => some .ne | 2 => some .lt | 3 => some .ge | 4 => some .ltu | 5 => some .geu | _ => none

def VCond.code : VCond → BitVec 16
  | .eq => 0 | .ne => 1 | .lt => 2 | .ge => 3 | .le => 4 | .gt => 5
def VCond.ofCode : Nat → Option VCond
  | 0 => some .eq | 1 => some .ne | 2 => some .lt | 3 => some .ge | 4 => some .le | 5 => some .gt | _ => none

def WCond.code : WCond → BitVec 2
  | .eq => 0 | .ne => 1 | .geu => 2 | .ltu => 3
def WCond.ofCode (n : BitVec 2) : WCond :=
  if n = 0 then .eq else if n = 1 then .ne else if n = 2 then .geu else .ltu

def PlogOp.code : PlogOp → BitVec 6
  | .and => 0 | .or => 1 | .xor => 2 | .andn => 3
def PlogOp.ofCode : Nat → Option PlogOp
  | 0 => some .and | 1 => some .or | 2 => some .xor | 3 => some .andn | _ => none

def Rm.code : Rm → BitVec 3
  | .dyn => 0 | .rne => 1 | .rtz => 2 | .rdn => 3 | .rup => 4
def Rm.ofCode : Nat → Option Rm
  | 0 => some .dyn | 1 => some .rne | 2 => some .rtz | 3 => some .rdn | 4 => some .rup | _ => none

def Ord.code : Ord → BitVec 3
  | .plain => 0 | .acq => 1 | .rel => 2 | .sc => 3 | .strm => 4 | .ar => 5
def Ord.ofCode : Nat → Option Ord
  | 0 => some .plain | 1 => some .acq | 2 => some .rel | 3 => some .sc | 4 => some .strm | 5 => some .ar
  | _ => none

def Scope.code : Scope → BitVec 2
  | .tile => 0 | .rgn => 1 | .vd => 2 | .sys => 3
def Scope.ofCode (n : BitVec 2) : Scope :=
  if n = 0 then .tile else if n = 1 then .rgn else if n = 2 then .vd else .sys

def Sz.code : Sz → BitVec 5
  | .b => 0 | .bu => 1 | .h => 2 | .hu => 3 | .w => 4 | .wu => 5 | .d => 6 | .du => 7
def Sz.ofCode : Nat → Option Sz
  | 0 => some .b | 1 => some .bu | 2 => some .h | 3 => some .hu | 4 => some .w | 5 => some .wu | 6 => some .d
  | 7 => some .du | _ => none

def RedOp.code : RedOp → BitVec 2
  | .sum => 0 | .max => 1 | .min => 2
def RedOp.ofCode : Nat → Option RedOp
  | 0 => some .sum | 1 => some .max | 2 => some .min | _ => none

def rdotActCode : Fmt → BitVec 4
  | .bf16 => 1 | .fp16 => 2 | .fp8e4 => 3 | .fp8e5 => 4 | .int8 => 5 | _ => 0
def rdotActOf : Nat → Option Fmt
  | 0 => some .fp32 | 1 => some .bf16 | 2 => some .fp16 | 3 => some .fp8e4 | 4 => some .fp8e5 | 5 => some .int8
  | _ => none
def wtCode : Fmt → BitVec 2
  | .int3 => 1 | .int2 => 2 | _ => 0
def wtOf : Nat → Option Fmt
  | 0 => some .int4 | 1 => some .int3 | 2 => some .int2 | _ => none
def ddotACode : Fmt → BitVec 4
  | .bf16 => 1 | .fp16 => 2 | .fp8e4 => 3 | .fp8e5 => 4 | .int8 => 5 | .fp6e3 => 6 | .fp6e2 => 7 | .fp4 => 8
  | _ => 0
def ddotAOf : Nat → Option Fmt
  | 1 => some .bf16 | 2 => some .fp16 | 3 => some .fp8e4 | 4 => some .fp8e5 | 5 => some .int8 | 6 => some .fp6e3
  | 7 => some .fp6e2 | 8 => some .fp4 | _ => none
def ddotBCode : Fmt → BitVec 4
  | .fp8e4 => 0 | .fp8e5 => 1 | .fp6e3 => 2 | .fp6e2 => 3 | .fp4 => 4 | .bf16 => 5 | .fp16 => 6 | .int8 => 7
  | _ => 8
def ddotBOf : Nat → Option Fmt
  | 0 => some .fp8e4 | 1 => some .fp8e5 | 2 => some .fp6e3 | 3 => some .fp6e2 | 4 => some .fp4 | 5 => some .bf16
  | 6 => some .fp16 | 7 => some .int8 | 8 => some .cb4 | _ => none
def Sparsity.code : Sparsity → BitVec 2
  | .dense => 0 | .sp24 => 1 | .sp48 => 2
def Sparsity.ofCode : Nat → Option Sparsity
  | 0 => some .dense | 1 => some .sp24 | 2 => some .sp48 | _ => none

/-- A Bool as one bit. -/
def bit (b : Bool) : BitVec 1 := BitVec.ofBool b

/-! ### The eight formats (R317 to R324): the body of a word as its fields, and back -/

structure F0 where
  (d a b c : BitVec 6) (fn : BitVec 8) (mod : BitVec 6) (ext : BitVec 16)
  deriving DecidableEq, Repr
structure F1 where
  (d a fn : BitVec 6) (mod : BitVec 4) (imm : BitVec 32)
  deriving DecidableEq, Repr
structure F2 where
  (t base idx : BitVec 6) (szf : BitVec 5) (ord : BitVec 3) (scope : BitVec 2) (minor : BitVec 4) (off : BitVec 22)
  deriving DecidableEq, Repr
structure F3 where
  (a b : BitVec 6) (cond : BitVec 4) (hint fn3 : BitVec 3) (disp : BitVec 32)
  deriving DecidableEq, Repr
/-- LOOP: count register, COUNT16, BODYLEN and the low bits. -/
structure F4L where
  (cnt : BitVec 6) (count len : BitVec 16) (low : BitVec 14)
  deriving DecidableEq, Repr
/-- REP: RCOUNT, the four steps and the low bits. -/
structure F4R where
  (n : BitVec 6) (sd sa sb sc : BitVec 4) (low : BitVec 30)
  deriving DecidableEq, Repr
structure F5 where
  (ad a b c e : BitVec 6) (fn : BitVec 8) (flags : BitVec 16)
  deriving DecidableEq, Repr
structure F6 where
  (d a fn : BitVec 6) (srn : BitVec 12) (imm : BitVec 24)
  deriving DecidableEq, Repr
structure F7 where
  (d a port fn mod : BitVec 6) (imm : BitVec 24)
  deriving DecidableEq, Repr

def F0.pack (f : F0) : BitVec 54 := f.d ++ f.a ++ f.b ++ f.c ++ f.fn ++ f.mod ++ f.ext
def F0.of (w : BitVec 54) : F0 :=
  ⟨w.extractLsb' 48 6, w.extractLsb' 42 6, w.extractLsb' 36 6, w.extractLsb' 30 6, w.extractLsb' 22 8,
   w.extractLsb' 16 6, w.extractLsb' 0 16⟩
def F1.pack (f : F1) : BitVec 54 := f.d ++ f.a ++ f.fn ++ f.mod ++ f.imm
def F1.of (w : BitVec 54) : F1 :=
  ⟨w.extractLsb' 48 6, w.extractLsb' 42 6, w.extractLsb' 36 6, w.extractLsb' 32 4, w.extractLsb' 0 32⟩
def F2.pack (f : F2) : BitVec 54 := f.t ++ f.base ++ f.idx ++ f.szf ++ f.ord ++ f.scope ++ f.minor ++ f.off
def F2.of (w : BitVec 54) : F2 :=
  ⟨w.extractLsb' 48 6, w.extractLsb' 42 6, w.extractLsb' 36 6, w.extractLsb' 31 5, w.extractLsb' 28 3,
   w.extractLsb' 26 2, w.extractLsb' 22 4, w.extractLsb' 0 22⟩
def F3.pack (f : F3) : BitVec 54 := f.a ++ f.b ++ f.cond ++ f.hint ++ f.fn3 ++ f.disp
def F3.of (w : BitVec 54) : F3 :=
  ⟨w.extractLsb' 48 6, w.extractLsb' 42 6, w.extractLsb' 38 4, w.extractLsb' 35 3, w.extractLsb' 32 3,
   w.extractLsb' 0 32⟩
def F4L.pack (f : F4L) : BitVec 54 := (0#2) ++ f.cnt ++ f.count ++ f.len ++ f.low
def F4L.of (w : BitVec 54) : F4L :=
  ⟨w.extractLsb' 46 6, w.extractLsb' 30 16, w.extractLsb' 14 16, w.extractLsb' 0 14⟩
def F4R.pack (f : F4R) : BitVec 54 := (1#2) ++ f.n ++ f.sd ++ f.sa ++ f.sb ++ f.sc ++ f.low
def F4R.of (w : BitVec 54) : F4R :=
  ⟨w.extractLsb' 46 6, w.extractLsb' 42 4, w.extractLsb' 38 4, w.extractLsb' 34 4, w.extractLsb' 30 4,
   w.extractLsb' 0 30⟩
def F5.pack (f : F5) : BitVec 54 := f.ad ++ f.a ++ f.b ++ f.c ++ f.e ++ f.fn ++ f.flags
def F5.of (w : BitVec 54) : F5 :=
  ⟨w.extractLsb' 48 6, w.extractLsb' 42 6, w.extractLsb' 36 6, w.extractLsb' 30 6, w.extractLsb' 24 6,
   w.extractLsb' 16 8, w.extractLsb' 0 16⟩
def F6.pack (f : F6) : BitVec 54 := f.d ++ f.a ++ f.fn ++ f.srn ++ f.imm
def F6.of (w : BitVec 54) : F6 :=
  ⟨w.extractLsb' 48 6, w.extractLsb' 42 6, w.extractLsb' 36 6, w.extractLsb' 24 12, w.extractLsb' 0 24⟩
def F7.pack (f : F7) : BitVec 54 := f.d ++ f.a ++ f.port ++ f.fn ++ f.mod ++ f.imm
def F7.of (w : BitVec 54) : F7 :=
  ⟨w.extractLsb' 48 6, w.extractLsb' 42 6, w.extractLsb' 36 6, w.extractLsb' 30 6, w.extractLsb' 24 6,
   w.extractLsb' 0 24⟩

/-! ### Register fields (R314) and the checks of R315 -/

def gCode (r : GReg) : BitVec 6 := BitVec.ofNat 6 r.val
def vCode (r : VReg) : BitVec 6 := BitVec.ofNat 6 (32 + r.val)
def pCode (r : PReg) : BitVec 6 := BitVec.ofNat 6 (48 + r.val)
def aCode (r : AReg) : BitVec 6 := BitVec.ofNat 6 (56 + r.val)
def GP.code : GP → BitVec 6
  | .g r => gCode r
  | .p r => pCode r
def VG.code : VG → BitVec 6
  | .v r => vCode r
  | .g r => gCode r

def gOf (f : BitVec 6) : Option GReg := if h : f.toNat < 32 then some ⟨f.toNat, h⟩ else none
def vOf (f : BitVec 6) : Option VReg :=
  if 32 ≤ f.toNat then (if h : f.toNat - 32 < 16 then some ⟨f.toNat - 32, h⟩ else none) else none
def pOf (f : BitVec 6) : Option PReg :=
  if 48 ≤ f.toNat then (if h : f.toNat - 48 < 8 then some ⟨f.toNat - 48, h⟩ else none) else none
def aOf (f : BitVec 6) : Option AReg :=
  if 56 ≤ f.toNat then (if h : f.toNat - 56 < 8 then some ⟨f.toNat - 56, h⟩ else none) else none
def gpOf (f : BitVec 6) : Option GP :=
  match gOf f with
  | some r => some (.g r)
  | none => (pOf f).map .p

abbrev Dec := Except DecErr Instr

/-- Step 2 of R315: a value that the group's table does not list. -/
def enc (ok : Bool) (k : Dec) : Dec := if ok then k else .error .illegalEncoding
/-- Step 2 of R315 for a field with a table of its own. -/
def encOf {α : Type} (x : Option α) (k : α → Dec) : Dec :=
  match x with
  | some a => k a
  | none => .error .illegalEncoding
/-- Step 3 of R315: a register class that the field does not accept. -/
def opr {α : Type} (x : Option α) (k : α → Dec) : Dec :=
  match x with
  | some a => k a
  | none => .error .illegalOperand
def bad : Dec := .error .illegalEncoding

def opr2 {α β : Type} (x : Option α) (y : Option β) (k : α → β → Dec) : Dec := opr x fun a => opr y fun b => k a b
def opr3 {α β γ : Type} (x : Option α) (y : Option β) (z : Option γ) (k : α → β → γ → Dec) : Dec :=
  opr x fun a => opr y fun b => opr z fun c => k a b c

/-! ### The groups (R325) -/

/-- ALU, MAJ 0x00 (R326, R327). -/
def decAlu (g : Guard) (f : F0) : Dec :=
  let w := f.mod == 0 || f.mod == 0x20
  let wb := f.mod == 0x20
  let u := f.mod == 0 || f.mod == 1
  let ub := f.mod == 1
  let z := f.c == 0 && f.ext == 0
  let ggg (k : GReg → GReg → GReg → Instr) := opr3 (gOf f.d) (gOf f.a) (gOf f.b) fun d a b => .ok (k d a b)
  match f.fn.toNat with
  | 0x00 => enc (w && z) (ggg (.add g wb))
  | 0x01 => enc (w && z) (ggg (.sub g wb))
  | 0x02 => enc (w && z) (ggg (.mul g wb))
  | 0x03 => enc (u && z) (ggg (.mulh g ub))
  | 0x04 => enc (u && z) (ggg (.div g ub))
  | 0x05 => enc (u && z) (ggg (.rem g ub))
  | 0x06 => enc (f.mod == 0 && z) (ggg (.and g))
  | 0x07 => enc (f.mod == 0 && z) (ggg (.or g))
  | 0x08 => enc (f.mod == 0 && z) (ggg (.xor g))
  | 0x09 => enc (f.mod == 0 && z) (ggg (.andn g))
  | 0x0A => enc (w && z) (ggg (.shl g wb))
  | 0x0B => enc (w && z) (ggg (.shr g wb))
  | 0x0C => enc (w && z) (ggg (.sar g wb))
  | 0x0D => enc (u && z) (ggg (.min g ub))
  | 0x0E => enc (u && z) (ggg (.max g ub))
  | 0x0F => enc z <| encOf (Cond.ofCode f.mod.toNat) fun k =>
      opr3 (gpOf f.d) (gOf f.a) (gOf f.b) fun d a b => .ok (.cmp g k d a b)
  | 0x10 => enc (f.mod == 0 && f.ext == 0) <|
      opr3 (gOf f.d) (gOf f.a) (gOf f.b) fun d a b => opr (pOf f.c) fun p => .ok (.sel g d a b p)
  | 0x11 => enc (f.mod == 0 && f.b == 0 && z) (opr2 (gOf f.d) (gOf f.a) fun d a => .ok (.clz g d a))
  | 0x12 => enc (f.mod == 0 && f.b == 0 && z) (opr2 (gOf f.d) (gOf f.a) fun d a => .ok (.popc g d a))
  | 0x13 =>
      let l := f.ext.extractLsb' 0 6
      let n := f.ext.extractLsb' 6 6
      enc (u && f.b == 0 && f.c == 0 && f.ext.extractLsb' 12 4 == 0 && l.toNat + n.toNat < 64)
        (opr2 (gOf f.d) (gOf f.a) fun d a => .ok (.bext g ub d a l n))
  | 0x14 =>
      let l := f.ext.extractLsb' 0 6
      let n := f.ext.extractLsb' 6 6
      enc (f.mod == 0 && f.b == 0 && f.c == 0 && f.ext.extractLsb' 12 4 == 0 && l.toNat + n.toNat < 64)
        (opr2 (gOf f.d) (gOf f.a) fun d a => .ok (.bins g d a l n))
  | 0x15 => enc z <| encOf (PlogOp.ofCode f.mod.toNat) fun op =>
      opr3 (pOf f.d) (pOf f.a) (pOf f.b) fun d a b => .ok (.plog g op d a b)
  | _ => bad

/-- ALUI, MAJ 0x01 (R328). -/
def decAlui (g : Guard) (f : F1) : Dec :=
  let w := f.mod == 0 || f.mod == 8
  let wb := f.mod == 8
  let u := f.mod == 0 || f.mod == 1
  let ub := f.mod == 1
  let gg (k : GReg → GReg → Instr) := opr2 (gOf f.d) (gOf f.a) fun d a => .ok (k d a)
  let n := f.imm.extractLsb' 0 6
  let shOk := w && f.imm.extractLsb' 6 26 == 0 && (!wb || n.toNat < 32)
  match f.fn.toNat with
  | 0x00 => enc w (gg fun d a => .addImm g wb d a f.imm)
  | 0x06 => enc (f.mod == 0) (gg fun d a => .andImm g d a f.imm)
  | 0x07 => enc (f.mod == 0) (gg fun d a => .orImm g d a f.imm)
  | 0x08 => enc (f.mod == 0) (gg fun d a => .xorImm g d a f.imm)
  | 0x0A => enc shOk (gg fun d a => .shlImm g wb d a n)
  | 0x0B => enc shOk (gg fun d a => .shrImm g wb d a n)
  | 0x0C => enc shOk (gg fun d a => .sarImm g wb d a n)
  | 0x0D => enc u (gg fun d a => .minImm g ub d a f.imm)
  | 0x0E => enc u (gg fun d a => .maxImm g ub d a f.imm)
  | 0x0F => encOf (Cond.ofCode f.mod.toNat) fun k =>
      opr2 (gpOf f.d) (gOf f.a) fun d a => .ok (.cmpImm g k d a f.imm)
  | 0x20 => enc (f.mod == 0 && f.a == 0) (opr (gOf f.d) fun d => .ok (.movi g d f.imm))
  | 0x21 => enc (f.mod == 0 && f.a == 0) (opr (gOf f.d) fun d => .ok (.movhi g d f.imm))
  | _ => bad

/-- BR, MAJ 0x02 (R320, R329). -/
def decBr (g : Guard) (f : F3) : Dec :=
  let t := f.hint == 1
  let z := f.hint.toNat < 2 && f.disp.toNat % 8 == 0
  match f.fn3.toNat with
  | 0 => enc (z && f.a == 0 && f.b == 0 && f.cond == 0) (.ok (.br g t f.disp))
  | 1 => enc z <| encOf (Cond.ofCode f.cond.toNat) fun k =>
      opr2 (gOf f.a) (gOf f.b) fun a b => .ok (.cbr g k t a b f.disp)
  | 2 => enc (z && f.b == 0 && f.cond == 0) (opr (gOf f.a) fun a => .ok (.call g t a f.disp))
  | 3 => enc (z && f.b == 0 && f.cond == 0) (opr (gOf f.a) fun a => .ok (.jmp g t a f.disp))
  | 4 => enc (z && f.b == 0 && f.cond == 0 && f.disp == 0) (opr (gOf f.a) fun a => .ok (.ret g t a))
  | _ => bad

/-- LOOP, MAJ 0x03 (R321, R330). -/
def decLoop (g : Guard) (w : BitVec 54) : Dec :=
  match (w.extractLsb' 52 2).toNat with
  | 0 =>
      let f := F4L.of w
      enc (f.low == 0 && f.len != 0) <|
        match gOf f.cnt with
        | some c => enc (c == 0 || f.count == 0) (.ok (.loop g c f.count f.len))
        | none => enc (f.count == 0) (.error .illegalOperand)
  | 1 =>
      let f := F4R.of w
      enc (f.low == 0) (.ok (.rep g f.n f.sd f.sa f.sb f.sc))
  | _ => bad

/-- ORD and SCOPE of format F2 (R211). -/
def ordOf (f : F2) (ok : Ord → Bool) (k : Ord → Scope → Dec) : Dec :=
  encOf (Ord.ofCode f.ord.toNat) fun o =>
    let sp := Scope.ofCode f.scope
    enc (ok o && scopeOk o sp) (k o sp)

/-- LD and ST, MAJ 0x04 and 0x05 (R331). -/
def decLd (g : Guard) (f : F2) : Dec :=
  enc (f.minor == 0) <| encOf (Sz.ofCode f.szf.toNat) fun sz => enc (sz != .du) <| ordOf f Ord.loadOk fun o sp =>
    opr3 (gOf f.t) (gOf f.base) (gOf f.idx) fun t b i => .ok (.ld g sz o sp t b i f.off)
def decSt (g : Guard) (f : F2) : Dec :=
  enc (f.minor == 0) <| encOf (Sz.ofCode f.szf.toNat) fun sz => enc sz.storeOk <| ordOf f Ord.storeOk fun o sp =>
    opr3 (gOf f.t) (gOf f.base) (gOf f.idx) fun t b i => .ok (.st g sz o sp t b i f.off)

/-- ATOM, MAJ 0x06 (R332). -/
def decAtom (g : Guard) (f : F2) : Dec :=
  let go (ok : Sz → Bool) (k : Sz → Ord → Scope → GReg → GReg → GReg → Instr) : Dec :=
    encOf (Sz.ofCode f.szf.toNat) fun sz => enc (ok sz) <| ordOf f Ord.atomOk fun o sp =>
      opr3 (gOf f.t) (gOf f.base) (gOf f.idx) fun t b i => .ok (k sz o sp t b i)
  match f.minor.toNat with
  | 0 => go Sz.wordOrDword fun sz o sp t b i => .aadd g sz o sp t b i f.off
  | 1 => go Sz.wordOrDword fun sz o sp t b i => .aand g sz o sp t b i f.off
  | 2 => go Sz.wordOrDword fun sz o sp t b i => .aor g sz o sp t b i f.off
  | 3 => go Sz.wordOrDword fun sz o sp t b i => .axor g sz o sp t b i f.off
  | 4 => go Sz.minmaxOk fun sz o sp t b i => .amin g sz o sp t b i f.off
  | 5 => go Sz.minmaxOk fun sz o sp t b i => .amax g sz o sp t b i f.off
  | 6 => go Sz.wordOrDword fun sz o sp t b i => .aswap g sz o sp t b i f.off
  | 7 => go Sz.wordOrDword fun sz o sp t b i => .acas g sz o sp t b i f.off
  | 8 => go Sz.floatOk fun sz o sp t b i => .afmax g sz o sp t b i f.off
  | 9 => go Sz.floatOk fun sz o sp t b i => .afadd g sz o sp t b i f.off
  | _ => bad

/-- SYNC, MAJ 0x07 (R338, R221, R349, R437). -/
def decSync (g : Guard) (f : F6) : Dec :=
  match f.fn.toNat with
  | 0 =>
      let sp := Scope.ofCode (f.imm.extractLsb' 2 2)
      enc (f.d == 0 && f.a == 0 && f.srn == 0 && f.imm.extractLsb' 4 20 == 0) <|
        match (f.imm.extractLsb' 0 2).toNat with
        | 0 => .ok (.fenceFull g sp)
        | 1 => .ok (.fenceRel g sp)
        | 2 => .ok (.fenceAcq g sp)
        | _ => .ok (.fenceFetch g sp)
  | 1 => enc (f.srn == 0 && f.imm.extractLsb' 3 21 == 0) <|
      opr2 (gOf f.d) (gOf f.a) fun d a =>
        .ok (.waita g (WCond.ofCode (f.imm.extractLsb' 0 2)) (f.imm.extractLsb' 2 1 == 1) d a)
  | 2 => enc (f.d == 0 && f.a == 0 && f.srn == 0 && f.imm.extractLsb' 4 20 == 0)
      (.ok (.bar g (f.imm.extractLsb' 0 4)))
  | _ => bad

/-- VALU, MAJ 0x08 (R334). -/
def decValu (g : Guard) (f : F0) : Dec :=
  let ft (ok : Fmt → Bool) (k : Fmt → Dec) : Dec :=
    enc (f.mod.extractLsb' 5 1 == 0) <| encOf (Fmt.ofTag (f.mod.extractLsb' 0 5)) fun t => enc (ok t) (k t)
  let vvv (k : VReg → VReg → VReg → Instr) := opr3 (vOf f.d) (vOf f.a) (vOf f.b) fun d a b => .ok (k d a b)
  let vv (k : VReg → VReg → Instr) := opr2 (vOf f.d) (vOf f.a) fun d a => .ok (k d a)
  let rnd (t : Fmt) (k : Rm → Dec) : Dec := encOf (Rm.ofCode f.ext.toNat) fun rm => enc (rm.okFor t) (k rm)
  let z := f.c == 0 && f.ext == 0
  match f.fn.toNat with
  | 0x00 => enc (f.c == 0) <| ft Fmt.isLaneFmt fun t => rnd t fun rm => vvv (.vadd g t rm)
  | 0x01 => enc (f.c == 0) <| ft Fmt.isLaneFmt fun t => rnd t fun rm => vvv (.vsub g t rm)
  | 0x02 => enc (f.c == 0) <| ft Fmt.isLaneFmt fun t => rnd t fun rm => vvv (.vmul g t rm)
  | 0x03 => ft Fmt.isLaneFmt fun t => rnd t fun rm =>
      opr3 (vOf f.d) (vOf f.a) (vOf f.b) fun d a b => opr (vOf f.c) fun c => .ok (.vfma g t rm d a b c)
  | 0x04 => enc z <| ft Fmt.isLaneFmt fun t => vvv (.vmax g t)
  | 0x05 => enc z <| ft Fmt.isLaneFmt fun t => vvv (.vmin g t)
  | 0x06 => enc (z && f.b == 0) <| ft Fmt.isLaneFmt fun t => vv (.vabs g t)
  | 0x07 => enc (z && f.b == 0) <| ft Fmt.isLaneFmt fun t => vv (.vneg g t)
  | 0x08 => enc z <| ft Fmt.isLaneInt fun t => vvv (.vand g t)
  | 0x09 => enc z <| ft Fmt.isLaneInt fun t => vvv (.vor g t)
  | 0x0A => enc z <| ft Fmt.isLaneInt fun t => vvv (.vxor g t)
  | 0x0B => enc (f.c == 0) <| ft Fmt.isLaneFmt fun t => encOf (VCond.ofCode f.ext.toNat) fun k => vvv (.vcmp g t k)
  | 0x0C => enc (f.ext == 0) <| ft Fmt.isLaneFmt fun t =>
      opr3 (vOf f.d) (vOf f.a) (vOf f.b) fun d a b => opr (vOf f.c) fun c => .ok (.vsel g t d a b c)
  | 0x0D => enc (z && f.b == 0 && f.mod == 0) (vv (.vmov g))
  | 0x0E => enc (z && f.b == 0) <| ft Fmt.isLaneFmt fun t => opr2 (vOf f.d) (gOf f.a) fun d a => .ok (.vbcast g t d a)
  | 0x0F => enc (f.b == 0 && f.c == 0 && f.mod == 0 && f.ext.extractLsb' 4 12 == 0) <|
      opr2 (gOf f.d) (vOf f.a) fun d a => .ok (.vext g d a (f.ext.extractLsb' 0 4))
  | 0x10 => enc z <| ft Fmt.isLaneFmt fun t =>
      opr3 (vOf f.d) (vOf f.a) (gOf f.b) fun d a b => .ok (.vmask g t d a b)
  | _ => bad

/-- VSFU, MAJ 0x09 (R86). -/
def decVsfu (g : Guard) (f : F0) : Dec :=
  let go (k : Fmt → VReg → VReg → Instr) : Dec :=
    enc (f.b == 0 && f.c == 0 && f.ext == 0 && f.mod.extractLsb' 5 1 == 0) <|
      encOf (Fmt.ofTag (f.mod.extractLsb' 0 5)) fun t => enc t.isWideFloat <|
        opr2 (vOf f.d) (vOf f.a) fun d a => .ok (k t d a)
  match f.fn.toNat with
  | 0 => go (.vexp2 g)
  | 1 => go (.vlog2 g)
  | 2 => go (.vrcp g)
  | 3 => go (.vrsq g)
  | _ => bad

/-- VCVT, MAJ 0x0A (R81). -/
def decVcvt (g : Guard) (f : F0) : Dec :=
  let m := f.mod.extractLsb' 5 1 == 1
  let tgt (k : Fmt → Dec) : Dec := encOf (Fmt.ofTag (f.mod.extractLsb' 0 5)) k
  let hi := f.ext.extractLsb' 4 12 == 0
  let rnd (k : Rm → Dec) : Dec := encOf (Rm.ofCode (f.ext.extractLsb' 0 3).toNat) k
  match f.fn.toNat with
  | 0 => enc (f.b == 0 && f.c == 0 && hi) <| tgt fun t => rnd fun rm =>
      if f.ext.extractLsb' 3 1 == 1
      then enc (!m && rm == .dyn) (opr2 (vOf f.d) (vOf f.a) fun d a => .ok (.vcvt g t false true rm d a))
      else enc t.isCvtTarget (opr2 (vOf f.d) (vOf f.a) fun d a => .ok (.vcvt g t m false rm d a))
  | 1 => enc (f.c == 0 && hi && f.ext.extractLsb' 3 1 == 0 && !m) <| tgt fun t => enc t.isNarrow <| rnd fun rm =>
      opr3 (vOf f.d) (vOf f.a) (vOf f.b) fun d a b => .ok (.vqnt g t rm d a b)
  | 2 => enc (f.c == 0 && hi && f.ext.extractLsb' 3 1 == 0) <| tgt fun t => enc t.isWideFloat <| rnd fun rm =>
      opr3 (vOf f.d) (vOf f.a) (vOf f.b) fun d a b => .ok (.vdq g t m rm d a b)
  | 3 => enc (f.b == 0 && f.c == 0 && f.ext == 0) <| tgt fun t => enc t.isNarrow <|
      opr2 (vOf f.d) (vOf f.a) fun d a => .ok (.vscl g t m d a)
  | _ => bad

/-- VMEM, MAJ 0x0B (R333, R294). -/
def decVmem (g : Guard) (f : F2) : Dec :=
  let go (ok : Fmt → Bool) (oo : Ord → Bool) (k : Fmt → Ord → Scope → Dec) : Dec :=
    encOf (Fmt.ofTag f.szf) fun t => enc (ok t) <| ordOf f oo fun o sp => k t o sp
  match f.minor.toNat with
  | 0 => go (fun _ => true) Ord.vloadOk fun t o sp =>
      opr3 (vOf f.t) (gOf f.base) (gOf f.idx) fun v b i => .ok (.vld g t o sp v b i f.off)
  | 1 => go (fun _ => true) Ord.vstoreOk fun t o sp =>
      opr3 (vOf f.t) (gOf f.base) (gOf f.idx) fun v b i => .ok (.vst g t o sp v b i f.off)
  | 2 => go Fmt.isByteWide Ord.vloadOk fun t o sp =>
      opr3 (vOf f.t) (gOf f.base) (vOf f.idx) fun v b i => .ok (.vldx g t o sp v b i f.off)
  | 3 => go Fmt.isByteWide Ord.vstoreOk fun t o sp =>
      opr3 (vOf f.t) (gOf f.base) (vOf f.idx) fun v b i => .ok (.vstx g t o sp v b i f.off)
  | 4 => go Fmt.isSparse Ord.vloadOk fun t o sp => enc (f.idx != 0) <|
      opr3 (vOf f.t) (gOf f.base) (gOf f.idx) fun v b i => .ok (.vldz g t o sp v b i f.off)
  | 5 => go Fmt.isSparse Ord.vstoreOk fun t o sp =>
      opr3 (vOf f.t) (gOf f.base) (gOf f.idx) fun v b i => .ok (.vstz g t o sp v b i f.off)
  | _ => bad

/-- VLANE, MAJ 0x0C (R335, R434). -/
def decVlane (g : Guard) (f : F0) : Dec :=
  let ft (ok : Fmt → Bool) (k : Fmt → Dec) : Dec :=
    enc (f.mod.extractLsb' 5 1 == 0) <| encOf (Fmt.ofTag (f.mod.extractLsb' 0 5)) fun t => enc (ok t) (k t)
  let red (k : Fmt → RedOp → Rm → Dec) : Dec :=
    enc (f.ext.extractLsb' 6 10 == 0) <| ft Fmt.isLaneFmt fun t =>
      encOf (RedOp.ofCode (f.ext.extractLsb' 0 2).toNat) fun op =>
        encOf (Rm.ofCode (f.ext.extractLsb' 3 3).toNat) fun rm =>
          enc (rm.okFor t && (op == .sum || rm == .dyn)) (k t op rm)
  let vv (k : VReg → VReg → Instr) := opr2 (vOf f.d) (vOf f.a) fun d a => .ok (k d a)
  let z := f.c == 0
  let zb := f.c == 0 && f.b == 0
  match f.fn.toNat with
  | 0 => enc (z && f.mod == 0 && f.ext == 0)
      (opr3 (vOf f.d) (vOf f.a) (vOf f.b) fun d a b => .ok (.vperm g d a b))
  | 1 => enc zb <| red fun t op rm => vv (.vscan g t op (f.ext.extractLsb' 2 1 == 1) rm)
  | 2 => enc (zb && f.ext.extractLsb' 2 1 == 0) <| red fun t op rm => vv (.vred g t op rm)
  | 3 => enc (zb && f.mod == 0 && f.ext == 0) (vv (.vcomp g))
  | 4 => enc (z && f.mod == 0 && f.ext == 0)
      (opr3 (vOf f.d) (vOf f.a) (vOf f.b) fun d a b => .ok (.vxpnd g d a b))
  | 5 => enc zb <| enc (f.ext.extractLsb' 3 13 == 0) <| ft Fmt.isPackable fun t =>
      enc ((f.ext.extractLsb' 0 3).toNat < 32 / t.width) (vv (.vunpk g t (f.ext.extractLsb' 0 3)))
  | 6 => enc zb <| enc (f.ext.extractLsb' 3 13 == 0) <| ft Fmt.isPackable fun t =>
      enc ((f.ext.extractLsb' 0 3).toNat < 32 / t.width) (vv (.vpack g t (f.ext.extractLsb' 0 3)))
  | 7 => enc (zb && f.ext.extractLsb' 1 15 == 0) <| ft Fmt.isLaneFmt fun t =>
      vv (.vrank g t (f.ext.extractLsb' 0 1 == 1))
  | 8 => enc (zb && f.mod == 0 && f.ext.extractLsb' 1 15 == 0) (vv (.vtab g (f.ext.extractLsb' 0 1 == 1)))
  | 9 => enc (zb && f.mod == 0 && f.ext == 0) (opr2 (gOf f.d) (vOf f.a) fun d a => .ok (.vcnt g d a))
  | _ => bad

/-- A port of the direction the row names (R336). -/
def inPort (p : BitVec 6) : Option (Fin 8) := if h : p.toNat < 8 then some ⟨p.toNat, h⟩ else none
def outPort (p : BitVec 6) : Option (Fin 8) :=
  if 8 ≤ p.toNat then (if h : p.toNat - 8 < 8 then some ⟨p.toNat - 8, h⟩ else none) else none
def inCode (p : Fin 8) : BitVec 6 := BitVec.ofNat 6 p.val
def outCode (p : Fin 8) : BitVec 6 := BitVec.ofNat 6 (8 + p.val)

/-- PORT, MAJ 0x0D (R336, R385, R429, R431). -/
def decPort (g : Guard) (f : F7) : Dec :=
  match f.fn.toNat with
  | 0 => enc (f.a == 0 && f.imm == 0 && f.mod.extractLsb' 1 5 == 0) <| encOf (inPort f.port) fun p =>
      if f.mod.extractLsb' 0 1 == 1 then opr (gOf f.d) fun r => .ok (.vpop g (.g r) p)
      else opr (vOf f.d) fun r => .ok (.vpop g (.v r) p)
  | 1 => enc (f.a == 0 && f.imm == 0 && f.mod.extractLsb' 3 3 == 0) <| encOf (outPort f.port) fun p =>
      let lr := f.mod.extractLsb' 1 1 == 1
      let ls := f.mod.extractLsb' 2 1 == 1
      if f.mod.extractLsb' 0 1 == 1 then opr (gOf f.d) fun r => .ok (.vpush g (.g r) lr ls p)
      else opr (vOf f.d) fun r => .ok (.vpush g (.v r) lr ls p)
  | 2 => enc (f.port == 0 && f.mod == 0 && f.imm.extractLsb' 1 23 == 0) <|
      opr2 (gOf f.d) (gOf f.a) fun d a =>
        if f.imm.extractLsb' 0 1 == 1 then .ok (.parwDef g d a) else .ok (.parw g d a)
  | 3 => enc (f.port == 0 && f.mod == 0 && f.imm == 0) (opr2 (gOf f.d) (gOf f.a) fun d a => .ok (.parr g d a))
  | _ => bad

/-- FAB, MAJ 0x0E (R336, R140). -/
def decFab (g : Guard) (f : F7) : Dec :=
  match f.fn.toNat with
  | 0 => enc (f.port == 0 && f.mod == 0 && f.imm == 0 && f.d == 0) (opr (gOf f.a) fun a => .ok (.cfg g a))
  | 1 => enc (f.port == 0 && f.mod == 0 && f.imm.extractLsb' 1 23 == 0 && f.a == 0) <|
      opr (gOf f.d) fun d => if f.imm.extractLsb' 0 1 == 1 then .ok (.qwaitW g d) else .ok (.qwait g d)
  | 2 => enc (f.a == 0 && f.mod == 0 && f.imm == 0) <| encOf (inPort f.port) fun p =>
      opr (gOf f.d) fun d => .ok (.drain g d p)
  | 3 => enc (f.d == 0 && f.a == 0 && f.mod == 0 && f.imm == 0) <| encOf (outPort f.port) fun p => .ok (.mark g p)
  | 4 => enc (f.port == 0 && f.mod == 0 && f.imm == 0) (opr2 (gOf f.d) (gOf f.a) fun d a => .ok (.kill g d a))
  | 5 => enc (f.a == 0 && f.port == 0 && f.mod == 0 && f.imm.extractLsb' 1 23 == 0) <|
      opr (gOf f.d) fun d => if f.imm.extractLsb' 0 1 == 1 then .ok (.thrdK g d) else .ok (.thrd g d)
  | _ => bad

/-- TILE, MAJ 0x0F (R91, R94, R102, R108). -/
def decTile (g : Guard) (f : F5) : Dec :=
  let fl := f.flags
  match f.fn.toNat with
  | 0 => enc (fl.extractLsb' 9 7 == 0) <| encOf (rdotActOf (fl.extractLsb' 0 4).toNat) fun act =>
      encOf (wtOf (fl.extractLsb' 4 2).toNat) fun wt =>
        let i32 := fl.extractLsb' 7 1 == 1
        enc (!i32 || act == .int8) <|
          opr3 (aOf f.ad) (gOf f.a) (gOf f.b) fun ad a b => opr2 (gOf f.c) (gOf f.e) fun s e =>
            .ok (.rdot g act wt (fl.extractLsb' 6 1 == 1) i32 (fl.extractLsb' 8 1 == 1) ad a b s e)
  | 1 => enc (fl.extractLsb' 12 4 == 0) <| encOf (ddotAOf (fl.extractLsb' 0 4).toNat) fun fa =>
      encOf (ddotBOf (fl.extractLsb' 4 4).toNat) fun fb =>
        encOf (Sparsity.ofCode (fl.extractLsb' 9 2).toNat) fun sp =>
          let mx := fl.extractLsb' 11 1 == 1
          enc (!(mx && fa == .int8 && fb == .int8)) <|
            opr3 (aOf f.ad) (gOf f.a) (gOf f.b) fun ad a b => opr2 (gOf f.c) (gOf f.e) fun s e =>
              .ok (.ddot g fa fb (fl.extractLsb' 8 1 == 1) sp mx ad a b s e)
  | 2 => enc (f.ad == 0 && f.a == 0 && f.c == 0 && fl.extractLsb' 0 4 == 0 && fl.extractLsb' 6 10 == 0) <|
      encOf (wtOf (fl.extractLsb' 4 2).toNat) fun wt =>
        opr2 (gOf f.b) (gOf f.e) fun b e => .ok (.rank g wt b e)
  | 3 => enc (f.a == 0 && f.b == 0 && f.c == 0 && f.e == 0 && fl == 0) (opr (aOf f.ad) fun ad => .ok (.aclr g ad))
  | 4 => enc (f.b == 0 && f.c == 0 && fl == 0)
      (opr3 (aOf f.ad) (gOf f.a) (gOf f.e) fun ad a e => .ok (.ald g ad a e))
  | 5 => enc (f.b == 0 && f.c == 0 && fl == 0)
      (opr3 (aOf f.ad) (gOf f.a) (gOf f.e) fun ad a e => .ok (.ast g ad a e))
  | 6 => enc (f.b == 0 && f.c == 0 && fl.extractLsb' 5 11 == 0) <|
      encOf (Fmt.ofTag (fl.extractLsb' 0 5)) fun t => enc t.isPredTag <|
        opr3 (pOf f.ad) (gOf f.a) (gOf f.e) fun pd a e => .ok (.tpred g t pd a e)
  | _ => bad

/-- ENG, MAJ 0x10 (R337). -/
def decEng (g : Guard) (f : F5) : Dec :=
  let fl := f.flags
  let sp := Scope.ofCode (fl.extractLsb' 0 2)
  let cls := fl.extractLsb' 2 2
  let one (k : GReg → GReg → Instr) : Dec :=
    enc (f.ad == 0 && f.b == 0 && f.c == 0 && fl.extractLsb' 4 12 == 0)
      (opr2 (gOf f.a) (gOf f.e) fun a e => .ok (k a e))
  match f.fn.toNat with
  | 0 => enc (f.ad == 0 && fl.extractLsb' 5 11 == 0) <|
      opr2 (gOf f.a) (gOf f.b) fun a b => opr2 (gOf f.c) (gOf f.e) fun n e =>
        .ok (.cpy g sp cls (fl.extractLsb' 4 1 == 1) a b n e)
  | 1 => one (.gth g sp cls)
  | 2 => one (.coll g sp cls)
  | 3 => one (.xwr g sp cls)
  | _ => bad

/-- TASK, MAJ 0x11 (R40, R412). -/
def decTask (g : Guard) (f : F6) : Dec :=
  let z := f.srn == 0 && f.imm == 0
  match f.fn.toNat with
  | 0 => enc z (opr2 (gOf f.d) (gOf f.a) fun d a => .ok (.spawn g d a))
  | 1 => enc z (opr2 (gOf f.d) (gOf f.a) fun d a => .ok (.run g d a))
  | 2 => enc (z && f.d == 0) (opr (gOf f.a) fun a => .ok (.exit g a))
  | 3 => enc (z && f.d == 0 && f.a == 0) (.ok (.yield g))
  | 4 => enc (f.d == 0 && f.a == 0 && f.srn == 0) (.ok (.trap g f.imm))
  | _ => bad

/-- PRIV, MAJ 0x12 (R338, R197, R273). -/
def decPriv (g : Guard) (f : F6) : Dec :=
  let z := f.srn == 0 && f.imm == 0
  let gg (k : GReg → GReg → Instr) : Dec := opr2 (gOf f.d) (gOf f.a) fun d a => .ok (k d a)
  match f.fn.toNat with
  | 0 => enc (f.a == 0 && f.imm == 0 && srnListed.contains f.srn) (opr (gOf f.d) fun d => .ok (.srd g d f.srn))
  | 1 => enc (f.d == 0 && f.imm == 0 && srnListed.contains f.srn) (opr (gOf f.a) fun a => .ok (.swr g f.srn a))
  | 2 => enc (z && f.d == 0 && f.a == 0) (.ok (.eret g))
  | 3 => enc (f.srn == 0 && f.imm.extractLsb' 2 22 == 0) <|
      match (f.imm.extractLsb' 0 2).toNat with
      | 0 => enc (f.d == 0) (opr (gOf f.a) fun a => .ok (.tlbiVa g a))
      | 1 => enc (f.d == 0 && f.a == 0) (.ok (.tlbiAll g))
      | 2 => gg (.tlbiS2 g)
      | _ => enc (f.a == 0) (opr (gOf f.d) fun d => .ok (.tlbiS2all g d))
  | 4 => enc z (gg (.dirty g))
  | 5 => enc z (gg (.scrub g))
  | 6 => enc (f.srn == 0 && f.imm.extractLsb' 1 23 == 0) <|
      if f.imm.extractLsb' 0 1 == 1 then gg (.frzVd g) else gg (.frz g)
  | 7 => enc (f.srn == 0 && f.imm.extractLsb' 3 21 == 0) <|
      match (f.imm.extractLsb' 0 3).toNat with
      | 0 => gg (.wkeyOffer g)
      | 1 => gg (.wkeyAccept g)
      | 2 => gg (.wkeyClose g)
      | 3 => gg (.wkeyInstall g)
      | 4 => gg (.wkeyFree g)
      | _ => bad
  | 8 => enc (f.d == 0 && f.a == 0 && f.srn == 0) (.ok (.bkpt g f.imm))
  | _ => bad

/-- The body of a word by its major opcode (R325). -/
def decBody (maj : BitVec 6) (g : Guard) (w : BitVec 54) : Dec :=
  match maj.toNat with
  | 0x00 => decAlu g (F0.of w)
  | 0x01 => decAlui g (F1.of w)
  | 0x02 => decBr g (F3.of w)
  | 0x03 => decLoop g w
  | 0x04 => decLd g (F2.of w)
  | 0x05 => decSt g (F2.of w)
  | 0x06 => decAtom g (F2.of w)
  | 0x07 => decSync g (F6.of w)
  | 0x08 => decValu g (F0.of w)
  | 0x09 => decVsfu g (F0.of w)
  | 0x0A => decVcvt g (F0.of w)
  | 0x0B => decVmem g (F2.of w)
  | 0x0C => decVlane g (F0.of w)
  | 0x0D => decPort g (F7.of w)
  | 0x0E => decFab g (F7.of w)
  | 0x0F => decTile g (F5.of w)
  | 0x10 => decEng g (F5.of w)
  | 0x11 => decTask g (F6.of w)
  | 0x12 => decPriv g (F6.of w)
  | _ => bad

/-- Guard fields of a word (R313). -/
def guardOf (w : Word) : Guard := ⟨⟨(w.extractLsb' 55 3).toNat, (w.extractLsb' 55 3).isLt⟩, w.extractLsb' 54 1 == 1⟩

/-- The instruction a word says, or why it says none (R313, R315 steps 1 to 3, R339). -/
def decode (w : Word) : Dec :=
  if w = 0 then .ok .nop else decBody (w.extractLsb' 58 6) (guardOf w) (w.extractLsb' 0 54)

/-! ### The encoder -/

/-- A word from its major opcode, guard and body (R313). -/
def word (maj : BitVec 6) (g : Guard) (b : BitVec 54) : Word :=
  maj ++ BitVec.ofNat 3 g.pg.val ++ bit g.pn ++ b

def encF0 (maj : BitVec 6) (g : Guard) (fn : BitVec 8) (mod : BitVec 6) (d a b c : BitVec 6) (ext : BitVec 16) :
    Option Word := some (word maj g (F0.pack ⟨d, a, b, c, fn, mod, ext⟩))
def encF1 (g : Guard) (fn : BitVec 6) (mod : BitVec 4) (d a : BitVec 6) (imm : BitVec 32) : Option Word :=
  some (word 0x01 g (F1.pack ⟨d, a, fn, mod, imm⟩))
def encF2 (maj : BitVec 6) (g : Guard) (minor : BitVec 4) (szf : BitVec 5) (o : Ord) (sp : Scope)
    (t b i : BitVec 6) (off : BitVec 22) : Option Word :=
  some (word maj g (F2.pack ⟨t, b, i, szf, o.code, sp.code, minor, off⟩))
def encF3 (g : Guard) (fn3 : BitVec 3) (hint : Bool) (cond : BitVec 4) (a b : BitVec 6) (disp : BitVec 32) :
    Option Word := some (word 0x02 g (F3.pack ⟨a, b, cond, (0#2) ++ bit hint, fn3, disp⟩))
def encF5 (maj : BitVec 6) (g : Guard) (fn : BitVec 8) (ad a b c e : BitVec 6) (fl : BitVec 16) : Option Word :=
  some (word maj g (F5.pack ⟨ad, a, b, c, e, fn, fl⟩))
def encF6 (maj : BitVec 6) (g : Guard) (fn : BitVec 6) (d a : BitVec 6) (srn : BitVec 12) (imm : BitVec 24) :
    Option Word := some (word maj g (F6.pack ⟨d, a, fn, srn, imm⟩))
def encF7 (maj : BitVec 6) (g : Guard) (fn mod : BitVec 6) (d a port : BitVec 6) (imm : BitVec 24) : Option Word :=
  some (word maj g (F7.pack ⟨d, a, port, fn, mod, imm⟩))

/-- The W bit of ALU's MOD and of ALUI's (R326, R328). -/
def modW (w : Bool) : BitVec 6 := bit w ++ (0#5)
def modWi (w : Bool) : BitVec 4 := bit w ++ (0#3)
/-- A single low bit of a field. -/
def lowBit (n : Nat) (b : Bool) : BitVec n := (bit b).setWidth n

/-- The word of an instruction; none for an event, which no word says. -/
def encode : Instr → Option Word
  | .add c w d a b => encF0 0 c 0x00 (modW w) (gCode d) (gCode a) (gCode b) 0 0
  | .nop => some 0
  | .sub c w d a b => encF0 0 c 0x01 (modW w) (gCode d) (gCode a) (gCode b) 0 0
  | .mul c w d a b => encF0 0 c 0x02 (modW w) (gCode d) (gCode a) (gCode b) 0 0
  | .mulh c u d a b => encF0 0 c 0x03 (lowBit 6 u) (gCode d) (gCode a) (gCode b) 0 0
  | .div c u d a b => encF0 0 c 0x04 (lowBit 6 u) (gCode d) (gCode a) (gCode b) 0 0
  | .rem c u d a b => encF0 0 c 0x05 (lowBit 6 u) (gCode d) (gCode a) (gCode b) 0 0
  | .and c d a b => encF0 0 c 0x06 0 (gCode d) (gCode a) (gCode b) 0 0
  | .or c d a b => encF0 0 c 0x07 0 (gCode d) (gCode a) (gCode b) 0 0
  | .xor c d a b => encF0 0 c 0x08 0 (gCode d) (gCode a) (gCode b) 0 0
  | .andn c d a b => encF0 0 c 0x09 0 (gCode d) (gCode a) (gCode b) 0 0
  | .shl c w d a b => encF0 0 c 0x0A (modW w) (gCode d) (gCode a) (gCode b) 0 0
  | .shr c w d a b => encF0 0 c 0x0B (modW w) (gCode d) (gCode a) (gCode b) 0 0
  | .sar c w d a b => encF0 0 c 0x0C (modW w) (gCode d) (gCode a) (gCode b) 0 0
  | .min c u d a b => encF0 0 c 0x0D (lowBit 6 u) (gCode d) (gCode a) (gCode b) 0 0
  | .max c u d a b => encF0 0 c 0x0E (lowBit 6 u) (gCode d) (gCode a) (gCode b) 0 0
  | .cmp c k d a b => encF0 0 c 0x0F (k.code.setWidth 6) d.code (gCode a) (gCode b) 0 0
  | .sel c d a b p => encF0 0 c 0x10 0 (gCode d) (gCode a) (gCode b) (pCode p) 0
  | .clz c d a => encF0 0 c 0x11 0 (gCode d) (gCode a) 0 0 0
  | .popc c d a => encF0 0 c 0x12 0 (gCode d) (gCode a) 0 0 0
  | .bext c s d a l n => encF0 0 c 0x13 (lowBit 6 s) (gCode d) (gCode a) 0 0 ((0#4) ++ n ++ l)
  | .bins c d a l n => encF0 0 c 0x14 0 (gCode d) (gCode a) 0 0 ((0#4) ++ n ++ l)
  | .plog c op d a b => encF0 0 c 0x15 op.code (pCode d) (pCode a) (pCode b) 0 0
  | .addImm c w d a i => encF1 c 0x00 (modWi w) (gCode d) (gCode a) i
  | .andImm c d a i => encF1 c 0x06 0 (gCode d) (gCode a) i
  | .orImm c d a i => encF1 c 0x07 0 (gCode d) (gCode a) i
  | .xorImm c d a i => encF1 c 0x08 0 (gCode d) (gCode a) i
  | .shlImm c w d a n => encF1 c 0x0A (modWi w) (gCode d) (gCode a) (n.setWidth 32)
  | .shrImm c w d a n => encF1 c 0x0B (modWi w) (gCode d) (gCode a) (n.setWidth 32)
  | .sarImm c w d a n => encF1 c 0x0C (modWi w) (gCode d) (gCode a) (n.setWidth 32)
  | .minImm c u d a i => encF1 c 0x0D (lowBit 4 u) (gCode d) (gCode a) i
  | .maxImm c u d a i => encF1 c 0x0E (lowBit 4 u) (gCode d) (gCode a) i
  | .cmpImm c k d a i => encF1 c 0x0F k.code d.code (gCode a) i
  | .movi c d i => encF1 c 0x20 0 (gCode d) 0 i
  | .movhi c d i => encF1 c 0x21 0 (gCode d) 0 i
  | .br c t disp => encF3 c 0 t 0 0 0 disp
  | .cbr c k t a b disp => encF3 c 1 t k.code (gCode a) (gCode b) disp
  | .call c t a disp => encF3 c 2 t 0 (gCode a) 0 disp
  | .jmp c t a disp => encF3 c 3 t 0 (gCode a) 0 disp
  | .ret c t a => encF3 c 4 t 0 (gCode a) 0 0
  | .loop c cnt count len => some (word 0x03 c (F4L.pack ⟨gCode cnt, count, len, 0⟩))
  | .rep c n sd sa sb sc => some (word 0x03 c (F4R.pack ⟨n, sd, sa, sb, sc, 0⟩))
  | .ld c sz o sp t b i off => encF2 0x04 c 0 sz.code o sp (gCode t) (gCode b) (gCode i) off
  | .st c sz o sp t b i off => encF2 0x05 c 0 sz.code o sp (gCode t) (gCode b) (gCode i) off
  | .aadd c sz o sp t b i off => encF2 0x06 c 0 sz.code o sp (gCode t) (gCode b) (gCode i) off
  | .aand c sz o sp t b i off => encF2 0x06 c 1 sz.code o sp (gCode t) (gCode b) (gCode i) off
  | .aor c sz o sp t b i off => encF2 0x06 c 2 sz.code o sp (gCode t) (gCode b) (gCode i) off
  | .axor c sz o sp t b i off => encF2 0x06 c 3 sz.code o sp (gCode t) (gCode b) (gCode i) off
  | .amin c sz o sp t b i off => encF2 0x06 c 4 sz.code o sp (gCode t) (gCode b) (gCode i) off
  | .amax c sz o sp t b i off => encF2 0x06 c 5 sz.code o sp (gCode t) (gCode b) (gCode i) off
  | .aswap c sz o sp t b i off => encF2 0x06 c 6 sz.code o sp (gCode t) (gCode b) (gCode i) off
  | .acas c sz o sp t b i off => encF2 0x06 c 7 sz.code o sp (gCode t) (gCode b) (gCode i) off
  | .afmax c sz o sp t b i off => encF2 0x06 c 8 sz.code o sp (gCode t) (gCode b) (gCode i) off
  | .afadd c sz o sp t b i off => encF2 0x06 c 9 sz.code o sp (gCode t) (gCode b) (gCode i) off
  | .fenceFull c sp => encF6 0x07 c 0 0 0 0 ((0#20) ++ sp.code ++ (0#2))
  | .fenceRel c sp => encF6 0x07 c 0 0 0 0 ((0#20) ++ sp.code ++ (1#2))
  | .fenceAcq c sp => encF6 0x07 c 0 0 0 0 ((0#20) ++ sp.code ++ (2#2))
  | .fenceFetch c sp => encF6 0x07 c 0 0 0 0 ((0#20) ++ sp.code ++ (3#2))
  | .waita c k dw d a => encF6 0x07 c 1 (gCode d) (gCode a) 0 ((0#21) ++ bit dw ++ k.code)
  | .bar c n => encF6 0x07 c 2 0 0 0 (n.setWidth 24)
  | .vadd c f rm d a b => encF0 0x08 c 0x00 (f.tag.setWidth 6) (vCode d) (vCode a) (vCode b) 0 (rm.code.setWidth 16)
  | .vsub c f rm d a b => encF0 0x08 c 0x01 (f.tag.setWidth 6) (vCode d) (vCode a) (vCode b) 0 (rm.code.setWidth 16)
  | .vmul c f rm d a b => encF0 0x08 c 0x02 (f.tag.setWidth 6) (vCode d) (vCode a) (vCode b) 0 (rm.code.setWidth 16)
  | .vfma c f rm d a b e =>
      encF0 0x08 c 0x03 (f.tag.setWidth 6) (vCode d) (vCode a) (vCode b) (vCode e) (rm.code.setWidth 16)
  | .vmax c f d a b => encF0 0x08 c 0x04 (f.tag.setWidth 6) (vCode d) (vCode a) (vCode b) 0 0
  | .vmin c f d a b => encF0 0x08 c 0x05 (f.tag.setWidth 6) (vCode d) (vCode a) (vCode b) 0 0
  | .vabs c f d a => encF0 0x08 c 0x06 (f.tag.setWidth 6) (vCode d) (vCode a) 0 0 0
  | .vneg c f d a => encF0 0x08 c 0x07 (f.tag.setWidth 6) (vCode d) (vCode a) 0 0 0
  | .vand c f d a b => encF0 0x08 c 0x08 (f.tag.setWidth 6) (vCode d) (vCode a) (vCode b) 0 0
  | .vor c f d a b => encF0 0x08 c 0x09 (f.tag.setWidth 6) (vCode d) (vCode a) (vCode b) 0 0
  | .vxor c f d a b => encF0 0x08 c 0x0A (f.tag.setWidth 6) (vCode d) (vCode a) (vCode b) 0 0
  | .vcmp c f k d a b => encF0 0x08 c 0x0B (f.tag.setWidth 6) (vCode d) (vCode a) (vCode b) 0 k.code
  | .vsel c f d a b m => encF0 0x08 c 0x0C (f.tag.setWidth 6) (vCode d) (vCode a) (vCode b) (vCode m) 0
  | .vmov c d a => encF0 0x08 c 0x0D 0 (vCode d) (vCode a) 0 0 0
  | .vbcast c f d a => encF0 0x08 c 0x0E (f.tag.setWidth 6) (vCode d) (gCode a) 0 0 0
  | .vext c d a l => encF0 0x08 c 0x0F 0 (gCode d) (vCode a) 0 0 (l.setWidth 16)
  | .vmask c f d a b => encF0 0x08 c 0x10 (f.tag.setWidth 6) (vCode d) (vCode a) (gCode b) 0 0
  | .vexp2 c f d a => encF0 0x09 c 0 (f.tag.setWidth 6) (vCode d) (vCode a) 0 0 0
  | .vlog2 c f d a => encF0 0x09 c 1 (f.tag.setWidth 6) (vCode d) (vCode a) 0 0 0
  | .vrcp c f d a => encF0 0x09 c 2 (f.tag.setWidth 6) (vCode d) (vCode a) 0 0 0
  | .vrsq c f d a => encF0 0x09 c 3 (f.tag.setWidth 6) (vCode d) (vCode a) 0 0 0
  | .vcvt c f sat as rm d a =>
      encF0 0x0A c 0 (bit sat ++ f.tag) (vCode d) (vCode a) 0 0 ((0#12) ++ bit as ++ rm.code)
  | .vqnt c f rm d a b => encF0 0x0A c 1 (f.tag.setWidth 6) (vCode d) (vCode a) (vCode b) 0 (rm.code.setWidth 16)
  | .vdq c f sat rm d a b => encF0 0x0A c 2 (bit sat ++ f.tag) (vCode d) (vCode a) (vCode b) 0 (rm.code.setWidth 16)
  | .vscl c f k d a => encF0 0x0A c 3 (bit k ++ f.tag) (vCode d) (vCode a) 0 0 0
  | .vld c f o sp t b i off => encF2 0x0B c 0 f.tag o sp (vCode t) (gCode b) (gCode i) off
  | .vst c f o sp t b i off => encF2 0x0B c 1 f.tag o sp (vCode t) (gCode b) (gCode i) off
  | .vldx c f o sp t b i off => encF2 0x0B c 2 f.tag o sp (vCode t) (gCode b) (vCode i) off
  | .vstx c f o sp t b i off => encF2 0x0B c 3 f.tag o sp (vCode t) (gCode b) (vCode i) off
  | .vldz c f o sp t b i off => encF2 0x0B c 4 f.tag o sp (vCode t) (gCode b) (gCode i) off
  | .vstz c f o sp t b i off => encF2 0x0B c 5 f.tag o sp (vCode t) (gCode b) (gCode i) off
  | .vperm c d a b => encF0 0x0C c 0 0 (vCode d) (vCode a) (vCode b) 0 0
  | .vscan c f op ex rm d a =>
      encF0 0x0C c 1 (f.tag.setWidth 6) (vCode d) (vCode a) 0 0 ((0#10) ++ rm.code ++ bit ex ++ op.code)
  | .vred c f op rm d a =>
      encF0 0x0C c 2 (f.tag.setWidth 6) (vCode d) (vCode a) 0 0 ((0#10) ++ rm.code ++ (0#1) ++ op.code)
  | .vcomp c d a => encF0 0x0C c 3 0 (vCode d) (vCode a) 0 0 0
  | .vxpnd c d a b => encF0 0x0C c 4 0 (vCode d) (vCode a) (vCode b) 0 0
  | .vunpk c f p d a => encF0 0x0C c 5 (f.tag.setWidth 6) (vCode d) (vCode a) 0 0 (p.setWidth 16)
  | .vpack c f p d a => encF0 0x0C c 6 (f.tag.setWidth 6) (vCode d) (vCode a) 0 0 (p.setWidth 16)
  | .vrank c f ds d a => encF0 0x0C c 7 (f.tag.setWidth 6) (vCode d) (vCode a) 0 0 (lowBit 16 ds)
  | .vtab c tb d a => encF0 0x0C c 8 0 (vCode d) (vCode a) 0 0 (lowBit 16 tb)
  | .vcnt c d a => encF0 0x0C c 9 0 (gCode d) (vCode a) 0 0 0
  | .vpop c (.v r) p => encF7 0x0D c 0 0 (vCode r) 0 (inCode p) 0
  | .vpop c (.g r) p => encF7 0x0D c 0 1 (gCode r) 0 (inCode p) 0
  | .vpush c (.v r) lr ls p => encF7 0x0D c 1 ((0#3) ++ bit ls ++ bit lr ++ (0#1)) (vCode r) 0 (outCode p) 0
  | .vpush c (.g r) lr ls p => encF7 0x0D c 1 ((0#3) ++ bit ls ++ bit lr ++ (1#1)) (gCode r) 0 (outCode p) 0
  | .parw c d a => encF7 0x0D c 2 0 (gCode d) (gCode a) 0 0
  | .parwDef c d a => encF7 0x0D c 2 0 (gCode d) (gCode a) 0 1
  | .parr c d a => encF7 0x0D c 3 0 (gCode d) (gCode a) 0 0
  | .cfg c a => encF7 0x0E c 0 0 0 (gCode a) 0 0
  | .qwait c d => encF7 0x0E c 1 0 (gCode d) 0 0 0
  | .qwaitW c d => encF7 0x0E c 1 0 (gCode d) 0 0 1
  | .drain c d p => encF7 0x0E c 2 0 (gCode d) 0 (inCode p) 0
  | .mark c p => encF7 0x0E c 3 0 0 0 (outCode p) 0
  | .kill c d a => encF7 0x0E c 4 0 (gCode d) (gCode a) 0 0
  | .thrd c d => encF7 0x0E c 5 0 (gCode d) 0 0 0
  | .thrdK c d => encF7 0x0E c 5 0 (gCode d) 0 0 1
  | .rdot c act wt acc i32 pt ad a b s e =>
      encF5 0x0F c 0 (aCode ad) (gCode a) (gCode b) (gCode s) (gCode e)
        ((0#7) ++ bit pt ++ bit i32 ++ bit acc ++ wtCode wt ++ rdotActCode act)
  | .ddot c fa fb acc sp mx ad a b s e =>
      encF5 0x0F c 1 (aCode ad) (gCode a) (gCode b) (gCode s) (gCode e)
        ((0#4) ++ bit mx ++ sp.code ++ bit acc ++ ddotBCode fb ++ ddotACode fa)
  | .rank c wt b e => encF5 0x0F c 2 0 0 (gCode b) 0 (gCode e) ((0#10) ++ wtCode wt ++ (0#4))
  | .aclr c ad => encF5 0x0F c 3 (aCode ad) 0 0 0 0 0
  | .ald c ad a e => encF5 0x0F c 4 (aCode ad) (gCode a) 0 0 (gCode e) 0
  | .ast c ad a e => encF5 0x0F c 5 (aCode ad) (gCode a) 0 0 (gCode e) 0
  | .tpred c f pd a e => encF5 0x0F c 6 (pCode pd) (gCode a) 0 0 (gCode e) (f.tag.setWidth 16)
  | .cpy c sp cls z a b n e =>
      encF5 0x10 c 0 0 (gCode a) (gCode b) (gCode n) (gCode e) ((0#11) ++ bit z ++ cls ++ sp.code)
  | .gth c sp cls a e => encF5 0x10 c 1 0 (gCode a) 0 0 (gCode e) ((0#12) ++ cls ++ sp.code)
  | .coll c sp cls a e => encF5 0x10 c 2 0 (gCode a) 0 0 (gCode e) ((0#12) ++ cls ++ sp.code)
  | .xwr c sp cls a e => encF5 0x10 c 3 0 (gCode a) 0 0 (gCode e) ((0#12) ++ cls ++ sp.code)
  | .spawn c d a => encF6 0x11 c 0 (gCode d) (gCode a) 0 0
  | .run c d a => encF6 0x11 c 1 (gCode d) (gCode a) 0 0
  | .exit c a => encF6 0x11 c 2 0 (gCode a) 0 0
  | .yield c => encF6 0x11 c 3 0 0 0 0
  | .trap c code => encF6 0x11 c 4 0 0 0 code
  | .bkpt c code => encF6 0x12 c 8 0 0 0 code
  | .srd c d n => encF6 0x12 c 0 (gCode d) 0 n 0
  | .swr c n a => encF6 0x12 c 1 0 (gCode a) n 0
  | .eret c => encF6 0x12 c 2 0 0 0 0
  | .tlbiVa c a => encF6 0x12 c 3 0 (gCode a) 0 0
  | .tlbiAll c => encF6 0x12 c 3 0 0 0 1
  | .tlbiS2 c d a => encF6 0x12 c 3 (gCode d) (gCode a) 0 2
  | .tlbiS2all c d => encF6 0x12 c 3 (gCode d) 0 0 3
  | .dirty c d a => encF6 0x12 c 4 (gCode d) (gCode a) 0 0
  | .scrub c d a => encF6 0x12 c 5 (gCode d) (gCode a) 0 0
  | .frz c d a => encF6 0x12 c 6 (gCode d) (gCode a) 0 0
  | .frzVd c d a => encF6 0x12 c 6 (gCode d) (gCode a) 0 1
  | .wkeyOffer c d a => encF6 0x12 c 7 (gCode d) (gCode a) 0 0
  | .wkeyAccept c d a => encF6 0x12 c 7 (gCode d) (gCode a) 0 1
  | .wkeyClose c d a => encF6 0x12 c 7 (gCode d) (gCode a) 0 2
  | .wkeyInstall c d a => encF6 0x12 c 7 (gCode d) (gCode a) 0 3
  | .wkeyFree c d a => encF6 0x12 c 7 (gCode d) (gCode a) 0 4
  | _ => none

/-! ### The opcode table's words -/

/-- The instruction that the decoder reads from a word numbered as the opcode table numbers its bits. Every word is
64 bits, so a shorter one has zeros above (R313). -/
def decodeTableWord (nbits w : Nat) : Option Instr :=
  match decode (BitVec.ofNat 64 (w % 2 ^ nbits)) with
  | .ok i => some i
  | .error _ => none

end Sys2Proof
end

