-- ==== Sys2Proof/Machine/State.lean ====
section
/-!
DEFINITION. All the state the spec gives the device, as plain data, and its value right after reset. One State
is the whole device: the core and fabric of every tile and service core, the regions and virtual devices, the
memory and the accesses on their way to it, the registers of the device, and what has passed to and from the
outside. INVENTORY.md lists every field with its rule.
-/
namespace Sys2Proof

/-- An exact number as it stands before rounding: a NaN, an infinity, or (-1)^neg * m * 2^e; a zero keeps its
sign (R72, R78). -/
inductive XVal where
  | nan (signaling : Bool) (neg : Bool)
  | inf (neg : Bool)
  | fin (neg : Bool) (m : Nat) (e : Int)
  deriving DecidableEq, Repr

end Sys2Proof

namespace Sys2Proof.Machine

/-! ### Tokens and the core of a tile -/

/-- KIND of a token (R46, R114). -/
inductive Kind where
  | data | bubble | mark | param
  deriving DecidableEq, Repr

/-- A token register, and a token on an arc (R46, R114); pm is the PM bit of a MARK (R117). -/
structure Token where
  lanes : Payload := 0
  valid : BitVec 16 := 0
  fmt : BitVec 5 := 0
  tag : BitVec 12 := 0
  kind : Kind := .data
  ls : Bool := false
  lr : Bool := false
  pm : Bool := false
  own : Bool := false                  -- the model's own: its tag was issued in this bout and its row holds it (R175)
  deriving DecidableEq, Repr

/-- An accumulator: 16 by 16 elements, element (i, j) at 16 i + j, and its V and D bits (R45, R47). -/
structure Acc where
  el : Vector Lane 256 := Vector.replicate 256 0
  v : Bool := false
  d : Bool := false
  deriving DecidableEq, Repr

/-- A level of the loop stack (R48, R62). -/
structure LoopLvl where
  start : Word
  stop : Word
  count : BitVec 32
  deriving DecidableEq, Repr

/-- Privilege levels (R53). -/
inductive Lvl where
  | u | s | h
  deriving DecidableEq, Repr

/-- What handler entry shadows (R66, R258). -/
structure Shadow where
  lvl : Lvl := .u
  loops : List LoopLvl := []
  rpPend : Bool := false
  rpCount : BitVec 6 := 0
  deriving DecidableEq, Repr

/-- What a core is doing. -/
inductive Status where
  /-- No task (R32). -/
  | idle
  /-- Issuing instructions. -/
  | run
  /-- Asleep in an armed WAITA: physical address, bytes, condition, comparand, and whether a write has satisfied it
  (R437, R224). -/
  | asleep (pa : Nat) (n : Nat) (k : WCond) (x : Word) (hit : Bool)
  /-- Waiting at barrier n (R349). -/
  | barrier (n : BitVec 4)
  /-- A TLBI waiting for its acknowledgement: the VDs' accesses it waits for, and pages by physical range (R198). -/
  | tlbi (ids : List Nat) (threads : List Nat)
  /-- EXIT has been executed, or a dispatcher ends by a fault; the completion is due (R37, R445). -/
  | exiting (code : BitVec 32)
  /-- A fault that no handler took; the fault domain acts next (R257). -/
  | faulted
  /-- Stopped at an instruction boundary by pre-emption, freeze or kill; wait is what it was waiting for (R244). -/
  | stopped
  deriving DecidableEq, Repr

/-- The role of a task (R37, R54). -/
inductive Role where
  | lead | worker | dispatcher | firmware
  deriving DecidableEq, Repr

/-- The identity of the task on a core (R26, R35). -/
structure Task where
  role : Role
  vd : Nat := 0
  region : Nat := 0          -- number of its region record; meaningful for lead and worker
  block : Word := 0          -- run block of a worker (R35)
  notifyOff : Nat := 0
  notifyVal : Word := 0
  caller : Nat := 0          -- tile offset in the region of the task that executed RUN
  fell : Option (BitVec 8) := none  -- the fault that ends a dispatcher (R445)
  deriving DecidableEq, Repr

/-- Where a loaded value goes when its last reply arrives (R208). -/
inductive Dest where
  /-- g register, bytes, sign-extended or not (R331, R342). -/
  | g (r : GReg) (n : Nat) (sx : Bool)
  /-- v register, packed token of a format (R424). -/
  | v (r : VReg) (f : Fmt)
  /-- v register, lanes already in place, with their valid bits (R426). -/
  | lanes (r : VReg) (f : Fmt) (valid : BitVec 16)
  /-- v register, a sparse record: its mask, its values in what was read (R296). -/
  | sparse (r : VReg) (f : Fmt) (mask : Nat)
  /-- accumulator, its m by n part, row by row (R107). -/
  | acc (r : AReg) (m n : Nat)
  /-- p register: whether all of n packed elements are zero (R108). -/
  | pred (r : PReg) (f : Fmt) (n : Nat)
  /-- nothing: the register has been written by a later instruction. -/
  | none
  deriving DecidableEq, Repr

/-- A load or atomic whose register is not yet written: its accesses with the bit offset of each part. -/
structure Pending where
  dest : Dest
  parts : List (Nat × Nat)
  got : Nat := 0
  deriving DecidableEq, Repr

/-- What the instruction at the pc has read so far and needs before it goes on: the accesses still out, with the bit
offset of each part, and the bytes that have come (R206, R296, R358). -/
structure Reading where
  parts : List (Nat × Nat) := []
  got : Nat := 0
  deriving DecidableEq, Repr

/-- What a step of a macro-op brings to an accumulator (R90, R96, R98, R104, R111). -/
structure StepResult where
  acc : AReg
  /-- element index and exact contribution -/
  adds : List (Nat × XVal)
  clear : List Nat := []
  i32 : Bool := false
  last : Bool := false
  setD : Bool := true
  flags : BitVec 6 := 0
  deriving DecidableEq, Repr

/-- A cached combined translation: the VD-physical and physical page, sizes, and attributes (R193, R196). -/
structure Tlb where
  vd : Nat
  user : Bool               -- U bit of the stage-1 leaf
  vpage : Nat               -- VA of the smaller of the two pages, a multiple of size
  size : Nat
  ppage : Nat               -- device physical address of vpage
  vbase : Nat               -- VA of the stage-1 page, and its size
  vsize : Nat
  ibase : Nat               -- VD-physical address of the stage-2 page, and its size
  isize : Nat
  rwx : BitVec 3            -- bits R, W, X of both stages together
  kind : BitVec 2
  ord : BitVec 2
  nc : Bool
  win : Nat
  dirty : Bool              -- D is set in both stages
  deriving DecidableEq, Repr

/-- A tile core or service core (chapter 03). -/
structure Core where
  pc : Word := 0
  lvl : Lvl := .u
  inH : Bool := false                                   -- PRIV[8]
  g : Vector Word 32 := Vector.replicate 32 0
  v : Vector Token 16 := Vector.replicate 16 {}
  p : BitVec 8 := 0
  a : Vector Acc 8 := Vector.replicate 8 {}
  tb : Vector (BitVec 256) 2 := Vector.replicate 2 0    -- 16 BF16 entries each
  tbPend : BitVec 2 := 0
  loops : List LoopLvl := []                            -- innermost first, at most two
  rpPend : Bool := false                                -- RPST
  rpCount : BitVec 6 := 0
  shadow : Shadow := {}
  fmode : BitVec 3 := 0
  fstat : BitVec 6 := 0
  cause : BitVec 8 := 0
  epc : Word := 0
  eval : Word := 0
  estep : Word := 0
  trapv : Word := 0
  slotcls : BitVec 2 := 0
  status : Status := .idle
  resume : Status := .idle                              -- what a stopped core returns to
  task : Option Task := none
  owner : Option (Nat × BitVec 16) := none              -- VD and generation (R255)
  lastOwner : Option Nat := none                        -- VD whose use of the tile was the last (R253)
  freezing : Bool := false                              -- a FRZ that has begun waits for its saves (R371)
  lastVd : Nat := 0                                     -- last VD named by TLBI.S2 in H mode (R197)
  repAt : Option (Nat) := none                          -- repetitions done of a REP in progress (R67)
  stepAt : Option Nat := none                           -- next step of a macro-op in progress (R90)
  stepAcc : Option AReg := none                         -- the accumulator that it writes
  opWord : Word := 0                                    -- word of the REP or macro-op in progress, as issued (R67, R90)
  tgtWord : Word := 0                                   -- word of the target of a REP in progress (R67)
  inflight : List StepResult := []                      -- results on their way to an accumulator (R90)
  heldAcc : List (Nat × Word) := []                     -- held writes of accumulator slots: byte offset, value (R59)
  pend : List Pending := []                             -- loads not yet replied (R206, R208)
  readings : List Reading := []                         -- reads of the instruction at the pc, oldest first (R206)
  barAt : Option (BitVec 4 × Word × Bool) := none       -- arrival of a BAR that a handler has broken into: barrier, pc, closed (R350)
  icache : List (Word × Bool × Word) := []              -- cached instruction words: address, fetched as U, word (R61)
  tlb : List Tlb := []
  deriving DecidableEq, Repr

/-! ### The fabric of a tile -/

/-- A control input: its THRESH register and KILL queue, oldest first (R120). -/
structure Ctl where
  score : BitVec 32 := 0xFF800000
  tag : BitVec 12 := 0
  kills : List (Nat × Nat) := []
  deriving DecidableEq, Repr

/-- A row fetched by GATHER, or a stored row of JOIN, BOUND's history, TOPK's list: the fields used by each kind
are named in its firing rule (R164). -/
structure Row where
  tok : Token := {}
  done : Bool := false                 -- JOIN: matched
  ids : List (Nat × Nat) := []         -- GATHER: accesses and bit offsets still out
  bits : Nat := 0                      -- GATHER: record bits gathered; BOUND: the bound
  lo : Nat := 0                        -- BOUND: first tag
  hi : Nat := 0                        -- BOUND: last tag
  killed : Bool := false
  va : Nat := 0                        -- GATHER: address of the record
  due : Bool := false                  -- GATHER: its request is to be issued again (R164)
  deriving DecidableEq, Repr

/-- The base translation of a GATHER: VA and physical address of its page, its size, and its attributes; own tells the
local window (R160, R202). -/
structure BasePage where
  page : Nat
  pa : Nat
  size : Nat
  ord : BitVec 2 := 1
  kind : Nat := 0
  win : Nat := 0
  own : Bool := false
  deriving DecidableEq, Repr

/-- What an operator holds between firings (R164). -/
structure OpState where
  killed : List (Nat × Nat) := []      -- kill ranges popped in the bout (R148)
  inRow : Bool := false                -- a row has begun
  dropRow : Bool := false              -- the row in progress is being dropped
  run : BitVec 32 := 0                 -- PREFIX: running value
  fresh : Bool := true                 -- PREFIX: the running value is the identity
  sum : XVal := .fin false 0 0         -- SCORE: partial sum of the row
  elem : Nat := 0                      -- SCORE: tokens of the row taken; SELECT, QUANT: tokens held
  count : Nat := 0                     -- SCORE: row counter; MERGE: rows emitted; REDUCE: data tokens of the block
  seg : Bool := false                  -- SCORE: a segment token is in force
  segLs : Bool := false                -- SCORE: that token had LS
  rowTag : BitVec 12 := 0              -- tag given to the row in progress
  ended : Bool := false                -- LS consumed; no further stream
  phase : Nat := 0                     -- JOIN: 0 build, 1 probe; MERGE: 1 closed; ended inputs as bits at 4..7
  rows : List Row := []                -- TOPK list, BOUND history, JOIN table, GATHER buffer
  toks : List Token := []              -- QUANT block, SELECT row, FILTER and MERGE tokens held
  last : Vector (Option (BitVec 32 × BitVec 12)) 4 := Vector.replicate 4 none  -- MERGE: last pair of each input
  exps : Option Token := none          -- REDUCE: agreed exponents in force
  base : Option BasePage := none       -- GATHER: the base translation
  deriving DecidableEq, Repr

/-- An operator slot (R123, R133, R147). -/
structure Slot where
  frame : BitVec 256 := 0
  on : Bool := false
  p : Vector (BitVec 32) 7 := Vector.replicate 7 0
  ins : Vector (List Token) 4 := Vector.replicate 4 []
  par : List Token := []
  outs : Vector (List Token) 2 := Vector.replicate 2 []
  ctl : Ctl := {}
  due : List (Nat × BitVec 32) := []   -- PARAM and deferred PARW writes to apply at the next boundary
  op : OpState := {}
  stopped : Bool := false              -- state saved behind a pre-emption marker (R149)
  deriving DecidableEq, Repr

/-- A memory unit (R124 to R127, R134). -/
structure MemUnit where
  frame : BitVec 256 := 0
  on : Bool := false
  data : List Token := []
  addr : List Token := []
  wait : Vector (List Token) 2 := Vector.replicate 2 []
  cred : Vector Nat 2 := Vector.replicate 2 0  -- wait tokens consumed and not yet used
  out : List Token := []
  done : List Token := []
  next : Nat := 0                      -- spill, FIFO: next slot of the window
  held : List Token := []              -- FIFO: tokens stored in the window, oldest first
  busy : List (List (Nat × Nat) × Token × BitVec 512 × List Token) := []
    -- accesses out: parts, the token answered, bits so far, the last tokens of the rows that end with it (R175)
  stopped : Bool := false
  deriving DecidableEq, Repr

/-- An address generator (R128 to R130, R135). -/
structure AddrGen where
  f0 : BitVec 256 := 0
  f1 : BitVec 256 := 0
  on : Bool := false
  base : BitVec 48 := 0
  ext : Vector (BitVec 24) 4 := Vector.replicate 4 0
  par : List Token := []
  due : List (Nat × Word) := []        -- writes that apply when the next round starts
  armed : Option Bool := none          -- mode 10: a PARAM with LR was taken, its round is to start; its LS
  out : List Token := []
  running : Bool := false
  ended : Bool := false
  lastRound : Bool := false            -- the round in progress is the last of the stream
  rounds : Nat := 0
  ix : Vector Nat 4 := Vector.replicate 4 0
  curBase : BitVec 48 := 0
  curExt : Vector (BitVec 24) 4 := Vector.replicate 4 0
  stopped : Bool := false
  deriving DecidableEq, Repr

/-- An outgoing data track: tokens sent and the lanes or tokens its two filter entries hold (R115, R121, R122). -/
structure Track where
  q : List Token := []
  hold0 : List Token := []
  hold1 : List Token := []
  deriving DecidableEq, Repr

/-- The fabric of a tile. -/
structure Fabric where
  slots : Vector Slot 4 := Vector.replicate 4 {}
  mus : Vector MemUnit 4 := Vector.replicate 4 {}
  ags : Vector AddrGen 2 := Vector.replicate 2 {}
  sw : Vector (BitVec 256) 4 := Vector.replicate 4 0
  tracks : Vector Track 16 := Vector.replicate 16 {}    -- 4 * direction + track, directions N E S W
  inQ : Vector (List Token) 8 := Vector.replicate 8 []
  outQ : Vector (List Token) 8 := Vector.replicate 8 []
  ctl : Ctl := {}
  deriving DecidableEq, Repr

/-- A tile: its core and its fabric. Its store is in the device memory. -/
structure Tile where
  core : Core := {}
  fab : Fabric := {}
  deriving DecidableEq, Repr

/-! ### Memory accesses and engine threads -/

/-- Who issued an access (R204). -/
inductive Party where
  | task (t : Nat)
  | thread (id : Nat)
  | unit (t u : Nat)
  | gather (t s : Nat)
  | inbound (f : Nat)
  deriving DecidableEq, Repr

/-- Atomic operations at a home node (R342). -/
inductive AtomOp where
  | add | and | or | xor | min | max | minu | maxu | swap | cas | fmax | fadd
  deriving DecidableEq, Repr

/-- Kinds of fence (R222). -/
inductive FenceKind where
  | full | rel | acq | fetch
  deriving DecidableEq, Repr

/-- What an access does at its home. -/
inductive AccKind where
  | load
  | store
  | atom (op : AtomOp)
  | fence (k : FenceKind)
  deriving DecidableEq, Repr

/-- Where an access stands (R206). -/
inductive AccStat where
  | buffered | queued | arrived | performed
  deriving DecidableEq, Repr

/-- An access in the ordering machine, from its issue to its reply (R204 to R220). -/
structure Access where
  id : Nat
  party : Party
  vd : Nat := 32                       -- accessing VD; 32 for H
  gen : BitVec 16 := 0
  region : Option Nat := none
  kind : AccKind
  va : Word := 0                       -- for EVAL of INTEGRITY
  pa : Nat := 0                        -- first byte
  size : Nat := 0                      -- bytes, at most 64
  data : BitVec 512 := 0               -- store: bytes; atomic: operand
  mask : BitVec 512 := 0               -- store: bits written
  cmp : Word := 0                      -- ACAS comparand
  ord : Ord := .plain
  scope : Scope := .tile
  page : BitVec 2 := 1                 -- effective ORD: 0 SO, 1 RC, 2 UO
  win : Nat := 0
  cls : BitVec 2 := 0
  after : List Nat := []               -- accesses that must be performed first (R298)
  merged : List Nat := []              -- numbers of the stores merged into this one (R210)
  needs : List (Nat × Nat) := []       -- wheels still to pass: type, index (R241)
  st : AccStat := .buffered
  val : BitVec 512 := 0
  born : Nat := 0                      -- CYCLE at which it left (R256)
  seq : Nat := 0                       -- order of leaving and of arrival: FIFO of its queue (R207, R217)
  deriving DecidableEq, Repr

/-- The operation of an engine thread (R358 to R362, R372, R441). -/
inductive EngOp where
  | cpy | gth
  | coll (op : Nat) (fmt : Fmt) (exact : Bool) (count ranks me first : Nat)
  | xwr (entry : Nat) (off : Nat) (flag : Option Nat)
  deriving DecidableEq, Repr

/-- Where bytes of a thread's payload go: their offset in what was read, how many, the physical address; their position in
the payload, and the position and length of the destination word that they are part of, which one access stores (R226). -/
structure PartOut where
  off : Nat
  n : Nat
  dst : Nat
  pos : Nat
  first : Nat
  len : Nat
  ord : BitVec 2 := 1
  win : Nat := 0
  ignored : Bool := false              -- the target ignores the store (R49)
  deriving DecidableEq, Repr

/-- A read of a thread's payload, its position in the payload, and where its bytes go (R226). -/
structure Part where
  pos : Nat
  va : Word
  src : Nat
  n : Nat
  ord : BitVec 2 := 1
  win : Nat := 0
  outs : List PartOut := []
  deriving DecidableEq, Repr

/-- An engine thread (R204, R225, R226). -/
structure Thread where
  id : Nat
  tile : Nat
  vd : Nat := 0
  gen : BitVec 16 := 0
  region : Option Nat := none
  lvl : Lvl := .u
  op : EngOp
  scope : Scope
  cls : BitVec 2 := 0
  reads : List (Nat × Part) := []      -- reads that have not been answered
  buf : List (Nat × Byte) := []        -- bytes read and not yet stored or sent, by position in the payload
  outs : List PartOut := []            -- COLL: the destination
  after : List Nat := []               -- accesses of the task that its release waits for (R225)
  ordinal : Nat := 0                   -- COLL: its place among those of its VD with the same FIRST and RANKS (R360)
  told : Bool := false                 -- COLL: its descriptor has gone to the peers
  matched : Bool := false              -- COLL: every rank's descriptor agrees
  sentAt : Nat := 0                    -- CYCLE at which a frame of it last went out (R285)
  frames : Nat := 0                    -- frames that have gone out of those that stand next (R283)
  sent : Bool := false                 -- XWR, COLL: this device's contribution has gone out
  written : Bool := false              -- COLL: the result has been written
  lost : Bool := false                 -- a peer of it is lost (R285)
  comp : Nat := 0                      -- tile-store offset of the completion word
  val : BitVec 32 := 0
  tbs : List (Nat × Nat) := []         -- tiles and tables whose pending bit it set (R362)
  deriving DecidableEq, Repr

/-! ### Regions and virtual devices -/

/-- State field of an RCB (R26). -/
inductive RState where
  | queued | placed | running | preempted | faulted | done
  deriving DecidableEq, Repr

/-- A fault on its way to a fault domain (R29, R257). -/
structure FaultRec where
  cause : BitVec 8
  epc : Word
  eval : Word
  estep : Word
  deriving DecidableEq, Repr

/-- A barrier of a region (R50). -/
structure Barrier where
  count : BitVec 13 := 0
  arrivals : Nat := 0
  next : Option (BitVec 13) := none    -- count written while an episode has arrivals
  deriving DecidableEq, Repr

/-- A tag issuer of an image (R173, R174). -/
structure Issuer where
  tile : Nat                           -- row offset * 64 + column offset
  slot : Nat
  base : Nat
  q : Nat
  cursor : Nat
  deriving DecidableEq, Repr

/-- A notify write held for a saved region (R39, R249). -/
structure Notify where
  addr : Nat
  val : Word
  deriving DecidableEq, Repr

/-- How a region is being stopped. -/
inductive Stop where
  | no
  | marker (since : Nat)               -- requested at this CYCLE (R244, R245)
  | wave                               -- freeze wave (R246)
  deriving DecidableEq, Repr

/-- A region: the fields of its RCB that the milliner read at SPAWN, and what it keeps of it since (R26, R32). -/
structure Region where
  vd : Nat
  rcb : Word
  lvl : Lvl                            -- privilege of R444
  plan : Word                          -- VA of the plan's RCB
  gang : Option Word := none
  gangSize : Nat := 0
  cls : Nat                            -- effective class of R28
  aged : Nat                           -- class after aging (R44, R237)
  policy : Nat
  domain : Nat
  trapv : Word
  w : Nat
  h : Nat
  entry : Word
  args : Vector Word 4
  image : Word
  quantum : Nat
  share : Nat
  tags : Nat
  chain : List (Word × Nat)            -- RCB and most tiles of the region and of each node above it (R28)
  notifyOff : Nat
  notifyVal : Word
  parentTile : Nat                     -- tile offset in the parent's region; the steward tile for the dispatcher
  parent : Option (Nat × BitVec 16)    -- region of the parent task and its generation; none for the dispatcher
  hint : BitVec 36 := 0
  st : RState := .queued
  place : Option (Nat × Nat) := none   -- origin column and row
  gen : BitVec 16 := 0
  since : Nat := 0                     -- CYCLE of placement or resume
  held : Nat := 0                      -- ACLK held before that (R26 time)
  yieldAt : Nat := 0                   -- CYCLE from which the C0 hold limit counts (R239)
  quantumAt : Nat := 0                 -- CYCLE at which the quantum began (R237)
  waited : Nat := 0                    -- quanta waited (R237)
  preempts : Nat := 0
  hat : Option (Nat × Nat) := none     -- hatbox offset and size of its save area
  stop : Stop := .no
  behind : Bool := false               -- it yielded, or its quantum ended: it queues behind the others (R43, R44)
  marked : Bool := false               -- pre-emption markers appended (R244 step 1)
  fault : Option FaultRec := none      -- fault waiting for the fault domain
  restarted : Bool := false
  killed : Option (Bool × FaultRec) := none  -- killed, notify write due; the fault of it to record (R254)
  domainSave : Option (Bool × FaultRec) := none  -- its fault domain saves it; the fault of it to record (R29)
  exit : BitVec 32 := 0
  bouts : BitVec 16 := 0
  curImage : Word := 0
  curTags : Nat := 0
  quiet : Bool := true                 -- last report of the quiescence tree
  bars : Vector Barrier 16 := Vector.replicate 16 {}
  barSel : BitVec 4 := 0               -- barrier last selected by BARCNT (R50)
  entryTab : BitVec 4096 := 0
  exitTab : BitVec 4096 := 0
  btCtl : BitVec 2 := 0
  issuers : List Issuer := []
  tagHeld : List (Nat × Nat) := []     -- tag and how many holders
  tagKilled : List (Nat × Nat) := []
  notifies : List Notify := []         -- held for its restore (R39)
  saved : List Tile := []              -- cores and fabric of its tiles, row by row, while saved
  deriving DecidableEq, Repr

/-- State of a virtual device (R234). -/
inductive VdState where
  | none | created | running | fenced
  deriving DecidableEq, Repr

/-- A virtual device's registers and resources (R194, R234, R235). -/
structure Vd where
  st : VdState := .none
  rect : Word := 0
  s2root : Word := 0
  s1init : Word := 0
  hatbox : Word := 0
  hslots : Word := 0
  disp : Word := 0
  s1root : Word := 0
  tlbctl : Word := 0
  c0lim : BitVec 16 := 0
  gen : BitVec 16 := 0                 -- last generation issued (R255)
  hbm : List Nat := []                 -- granted 128 KiB granules, ascending
  felt : List Nat := []                -- granted 2 MiB granules, ascending
  frozen : Bool := false
  bars : Vector Barrier 16 := Vector.replicate 16 {}   -- of the steward tile (R50)
  barSel : BitVec 4 := 0
  colls : List ((Nat × Nat) × Nat) := []  -- COLLs issued, by FIRST and RANKS (R360)
  deriving DecidableEq, Repr

/-- State of a share window (R271). -/
inductive WinState where
  | free | offered | accepted | installing | live | closing | closed
  deriving DecidableEq, Repr

/-- The record of a share window (R273 to R275). -/
structure Window where
  st : WinState := .free
  owner : Nat := 0
  peer : Nat := 0
  w : Bool := false
  start : Word := 0
  count : Word := 0
  base : Word := 0
  granules : List Nat := []
  rekeyed : List Nat := []             -- granules already re-keyed in INSTALLING or CLOSING
  deriving DecidableEq, Repr

/-- An inbound posted write held at the ordering point: its parts, and those not yet acknowledged (R278). -/
structure Posted where
  id : Nat
  fn : Nat
  relaxed : Bool
  parts : List (Nat × Nat × List Byte) -- physical address, window and bytes of each part
  out : List Nat := []                 -- accesses sent and not yet acknowledged
  sent : Bool := false
  deriving DecidableEq, Repr

/-- An inbound read or AtomicOp that has not been answered: its pieces (physical address, window, bytes, offset), what an
AtomicOp does, the posted writes it waits for, and, once it has left, the accesses still out with their offsets and the
bytes that have come (R228, R262, R276, R277). -/
structure InRead where
  id : Nat
  fn : Nat
  size : Nat
  parts : List (Nat × Nat × Nat × Nat)
  op : Option (AtomOp × Word × Word) := none  -- operation, operand, comparand
  after : List Nat := []
  sent : Bool := false
  out : List (Nat × Nat) := []
  got : Nat := 0
  deriving DecidableEq, Repr

/-- What a move of the agenda does. -/
inductive What where
  /-- Core t issues its next instruction; with refetch, the cached word was evicted first. -/
  | core (t : Nat) (refetch : Bool)
  /-- A move of the device. -/
  | event (i : Instr)
  deriving DecidableEq, Repr

/-- One move and the ACLK that pass with it (R206; log entries 1 and 2). -/
structure Turn where
  dt : Nat := 1
  what : What
  deriving DecidableEq, Repr

/-- Where a frame goes: the peer's port and device, its share window, and the byte offset in it (R284). -/
structure Peer where
  mac : Nat
  dev : Nat
  win : Nat
  off : Nat
  deriving DecidableEq, Repr

/-- What has left the device. -/
inductive Sent where
  | posted (fn : Nat) (addr : Nat) (data : BitVec 512) (mask : BitVec 512) (n : Nat)  -- outbound write (R279)
  | msix (fn vec : Nat)                                      -- MSI-X message (R280)
  | completion (fn : Nat) (xs : List Byte)                   -- of an inbound read or atomic
  | unsupported (fn : Nat)                                   -- Unsupported Request (R277)
  | abort (fn : Nat)                                         -- Completer Abort (R262, R270)
  | retry                                                    -- Request Retry Status (R286)
  | config (xs : List Byte)                                  -- configuration completion
  | load (fn : Nat) (addr : Nat) (n : Nat)                   -- request of an outbound read (R279)
  | frame (peer : Peer) (xs : List Byte) (flag : Option (Nat × BitVec 32))  -- XWR, with its flag's offset (R283, R442)
  | collDesc (peer : Peer) (d : CollDesc)                      -- COLL: the descriptor of this rank (R360)
  | collData (peer : Peer) (ordinal : Nat) (off : Nat) (xs : List Byte)  -- COLL: bytes of this rank's contribution (R360)
  | refusal (win : Nat)                                      -- a peer's write refused (R442)
  | ackd (win : Nat)                                         -- a peer's write performed (R285)
  deriving DecidableEq, Repr

/-- Reasons for which the machine stops. -/
inductive Fault where
  /-- The device has removed its own power after OVERTEMP_SHUTDOWN and takes no step (R287). Raised by step and by
  no instruction. Safe: the spec gives a device without power no behaviour. -/
  | poweredOff
  deriving DecidableEq, Repr

/-- Reasons for which an instruction has no meaning. -/
inductive Refusal where
  /-- An instruction that the model does not give a meaning to; raised by the arm of exec of that name only.
  Safe: the machine stops where the hardware goes on. -/
  | notModelled (mnemonic : String)
  deriving DecidableEq, Repr

/-- The whole device. -/
structure State where
  -- cores and fabrics
  cur : Nat := 0                                     -- the core in focus
  tile : Tile := {}                                  -- its record
  parked : List (Nat × Tile) := []                   -- records of the other cores, ascending, absent ones as at reset
  ir : Word := 0                                     -- the word being executed (R260)
  -- memory and accesses
  mem : List Host.Cell := []
  accs : List Access := []                           -- in issue order
  threads : List Thread := []
  nextId : Nat := 0
  ringAt : Nat := 0                                  -- node that holds the SC token (R217)
  seqNext : Nat := 0                                 -- next place in the order of leaving and arrival
  ringDone : Nat := 0                                -- SC accesses performed in this visit
  counters : List ((Nat × Nat × Nat) × (Word × BitVec 448)) := []  -- stack, level, block: major and minors (R266)
  recrypt : List (Nat × Nat) := []                   -- leaves under re-encryption (R268)
  bad : List Nat := []                               -- 64-byte blocks whose MAC fails (R270)
  badCtr : List (Nat × Nat × Nat) := []              -- counter blocks that fail: stack, level, block (R267, R270)
  keys : List (Nat × Nat) := []                      -- key slot and the draw of its key (R264)
  -- regions, virtual devices, windows
  regions : List Region := []                        -- region n is at index n
  vds : Vector Vd 32 := Vector.replicate 32 {}
  wins : Vector Window 97 := Vector.replicate 97 {}  -- 1 to 96 are used
  queue : List Nat := []                             -- queued regions, oldest first (R236)
  notifyDue : List (Nat × Nat × Notify) := []        -- overflow list: VD, region, write (R249)
  frozenBy : List (Nat × Nat × Nat) := []            -- FRZ: service core, region; 0 waits, 1 saved, 2 lost (R371)
  wkey : Option Nat := none                          -- core whose WKEY is in progress (R439)
  ctlFlight : List (Nat × Nat × Bool × BitVec 32 × BitVec 12 × BitVec 12) := []
    -- control tokens: tile, input (0 to 3 slots, 4 core), KILL or THRESH, score, tag or low, high (R119)
  -- device registers
  cycle : Nat := 0
  timebase : Word := 0
  vdsel : BitVec 5 := 0
  vdgbase : Word := 0
  vdgcount : BitVec 32 := 0
  vdOp : BitVec 4 := 0
  vdStatus : BitVec 4 := 0
  vdBusy : Option (Option Nat × Nat) := none         -- DESTROY in progress: the core that wrote it, none for the device; its VD (R235)
  whsel : BitVec 21 := 0
  wheels : List ((Nat × Nat) × BitVec 2048) := []    -- type, index: 256 entries of 8 bits (R240, R242)
  wheelsNext : List ((Nat × Nat) × BitVec 2048) := []  -- contents from the next revolution
  wheelsAt : Nat := 0                                -- revolution in which wheels were last taken over
  wheelUsed : List ((Nat × Nat) × Nat) := []         -- slot in which each resource last served a request (R241)
  wheelLast : List ((Nat × Nat) × Nat) := []         -- VD that each resource last served in group 4 (R241)
  wheelGot : List (((Nat × Nat) × Nat) × Nat × Nat) := []  -- resource and region: revolution, slots used in it (R241)
  peersLost : List (Nat × Nat) := []                 -- MAC and device of the peers declared lost (R285)
  peersHeard : List ((Nat × Nat) × Nat) := []        -- CYCLE at which a peer last acknowledged (R285)
  c0vd : BitVec 5 := 0
  pwrnow : BitVec 32 := 0
  tempmax : BitVec 16 := 0
  pcap : BitVec 16 := 0
  throt : BitVec 2 := 0
  slow : BitVec 4 := 0                               -- classes that are throttled now (R287)
  cecnt : Word := 0
  winsel : BitVec 7 := 0
  -- start-up and power (R286, R287)
  stage : Nat := 0
  bootErr : BitVec 8 := 0
  ready : Bool := false
  perst : Bool := true                               -- PERST# asserted
  halted : Bool := false                             -- a failed stage stopped the device
  measured : Option (BitVec 384) × Option (BitVec 384) := (none, none)  -- SPDM measurements 1 and 2 (R276, R286)
  off : Bool := false
  -- the outside
  posted : List Posted := []
  asked : List InRead := []                          -- inbound reads and AtomicOps not yet answered (R228, R262)
  sent : List Sent := []                             -- oldest first
  -- the model's own
  agenda : List Turn := []                           -- the machine's choice of moves (log entry 1)
  tick : Nat := 0                                    -- free values drawn (log entry 5)
  deriving DecidableEq, Repr

/-- The device right after device reset: PERST# is asserted, no stage has begun, memory lists nothing, and every
register is at the value of the spec or, where the spec gives none, at zero (log entry 3). -/
def State.reset : State := {}

end Sys2Proof.Machine
end

