-- ==== Sys2Proof/Machine/Num.lean ====
section
/-!
DEFINITION. Number formats and exact arithmetic (chapter 04): what a code is worth, how an exact value is rounded
into a format, and the operations that are exact before their one rounding. Flags are the six of R80.
-/
namespace Sys2Proof

/-! ### Flags and modes -/

def flInvalid : BitVec 6 := 1
def flDivZero : BitVec 6 := 2
def flOverflow : BitVec 6 := 4
def flUnderflow : BitVec 6 := 8
def flInexact : BitVec 6 := 16
def flSquashed : BitVec 6 := 32

/-- The flags f when b holds, else none. -/
def flagIf (b : Bool) (f : BitVec 6) : BitVec 6 := if b then f else 0

/-- Rounding modes (R78). -/
inductive RMode where
  | rne | rtz | rdn | rup
  deriving DecidableEq, Repr

/-- The mode of a rounding field, given FMODE (R78). -/
def RMode.of (rm : Rm) (fmode : BitVec 3) : RMode :=
  match rm with
  | .rne => .rne
  | .rtz => .rtz
  | .rdn => .rdn
  | .rup => .rup
  | .dyn => if fmode = 1 then .rtz else if fmode = 2 then .rdn else if fmode = 3 then .rup else .rne

/-- A rounding field of three bits outside an instruction: 000 and 001 are RNE (R121, R151). -/
def RMode.ofField (n : Nat) : RMode :=
  match n with
  | 2 => .rtz
  | 3 => .rdn
  | 4 => .rup
  | _ => .rne

/-- The integer nearest to num / den under a mode, for a value of the given sign, and whether it is inexact. -/
def roundDiv (neg : Bool) (num den : Nat) (mode : RMode) : Nat × Bool :=
  let q := num / den
  let r := num % den
  let up := match mode with
    | .rne => decide (den < 2 * r) || (decide (2 * r = den) && decide (q % 2 = 1))
    | .rtz => false
    | .rdn => neg && decide (r ≠ 0)
    | .rup => !neg && decide (r ≠ 0)
  (if up then q + 1 else q, decide (r ≠ 0))

/-- n * 2^e as a fraction: numerator factor and denominator factor. -/
def pow2Num (e : Int) : Nat := 2 ^ e.toNat
def pow2Den (e : Int) : Nat := 2 ^ (-e).toNat

/-! ### Floating-point formats (R71, R72) -/

/-- What NaNs a float format has (R71). -/
inductive NanKind where
  | ieee     -- exponent all ones: infinity with mantissa 0, else NaN
  | e4m3     -- the two codes 0x7F and 0xFF
  | none
  deriving DecidableEq, Repr

/-- Exponent bits, mantissa bits, bias and NaN codes of a float format. -/
structure FloatFmt where
  eb : Nat
  mb : Nat
  bias : Int
  nan : NanKind
  deriving DecidableEq, Repr

def Fmt.float : Fmt → Option FloatFmt
  | .fp32 => some ⟨8, 23, 127, .ieee⟩
  | .bf16 => some ⟨8, 7, 127, .ieee⟩
  | .fp16 => some ⟨5, 10, 15, .ieee⟩
  | .fp8e4 => some ⟨4, 3, 7, .e4m3⟩
  | .fp8e5 => some ⟨5, 2, 15, .ieee⟩
  | .fp6e3 => some ⟨3, 2, 3, .none⟩
  | .fp6e2 => some ⟨2, 3, 1, .none⟩
  | .fp4 => some ⟨2, 1, 1, .none⟩
  | _ => none

/-- The code of the largest finite magnitude (R71). -/
def FloatFmt.maxCode (f : FloatFmt) : Nat :=
  match f.nan with
  | .ieee => (2 ^ f.eb - 1) * 2 ^ f.mb - 1
  | .e4m3 => 2 ^ (f.eb + f.mb) - 2
  | .none => 2 ^ (f.eb + f.mb) - 1

/-- The code with a sign. -/
def FloatFmt.signed (f : FloatFmt) (neg : Bool) (c : Nat) : Nat := if neg then 2 ^ (f.eb + f.mb) + c else c

/-- Exponent of the smallest subnormal. -/
def FloatFmt.qmin (f : FloatFmt) : Int := 1 - f.bias - f.mb

/-- The value of a code (R72). -/
def FloatFmt.value (f : FloatFmt) (code : Nat) : XVal :=
  let neg := decide (code / 2 ^ (f.eb + f.mb) % 2 = 1)
  let c := code % 2 ^ (f.eb + f.mb)
  let e := c / 2 ^ f.mb
  let m := c % 2 ^ f.mb
  let num : XVal := if e = 0 then .fin neg m f.qmin else .fin neg (2 ^ f.mb + m) (f.qmin + (e - 1 : Nat))
  match f.nan with
  | .ieee =>
    if e = 2 ^ f.eb - 1 then (if m = 0 then .inf neg else .nan (decide (m < 2 ^ (f.mb - 1))) neg) else num
  | .e4m3 => if c = 2 ^ (f.eb + f.mb) - 1 then .nan false neg else num
  | .none => num

/-- The canonical NaN with a sign; zero in a format without NaN, which the spec gives none (R74, R88; log entry 89). -/
def FloatFmt.canonNan (f : FloatFmt) (neg : Bool) : Nat :=
  match f.nan with
  | .ieee => f.signed neg ((2 ^ f.eb - 1) * 2 ^ f.mb + 2 ^ (f.mb - 1))
  | .e4m3 => f.signed neg (2 ^ (f.eb + f.mb) - 1)
  | .none => 0

/-- The infinity with a sign; the largest finite magnitude in a format without infinities (R71, R79). -/
def FloatFmt.infCode (f : FloatFmt) (neg : Bool) : Nat :=
  match f.nan with
  | .ieee => f.signed neg ((2 ^ f.eb - 1) * 2 ^ f.mb)
  | _ => f.signed neg f.maxCode

/-- The exponent k with 2^k ≤ num / den * 2^e < 2^(k+1), for a nonzero num. -/
def floorLog2 (num den : Nat) (e : Int) : Int :=
  let n : Int := (num.log2 : Int) - (den.log2 : Int)
  if den * pow2Num n ≤ num * pow2Den n then e + n else e + n - 1

/-- num / den * 2^e rounded to a multiple of 2^q: the multiple, and inexact. -/
def roundAt (neg : Bool) (num den : Nat) (e q : Int) (mode : RMode) : Nat × Bool :=
  roundDiv neg (num * pow2Num (e - q)) (den * pow2Den (e - q)) mode

/-- r * 2^q exceeds the value of a nonnegative finite code. -/
def exceeds (r : Nat) (q : Int) (v : XVal) : Bool :=
  match v with
  | .fin _ m e => decide (m * pow2Num (e - q) < r * pow2Den (e - q))
  | _ => false

/-- One rounding of a nonzero or zero rational into a float format, judged against the exact value (R78, R79). -/
def FloatFmt.round (f : FloatFmt) (neg : Bool) (num den : Nat) (e : Int) (mode : RMode) (sat : Bool) :
    Nat × BitVec 6 :=
  if num = 0 then (f.signed neg 0, 0) else
    let k := floorLog2 num den e
    let qu := k - f.mb
    let q := max qu f.qmin
    let ru := (roundAt neg num den e qu mode).1
    let r := roundAt neg num den e q mode
    if exceeds ru qu (f.value f.maxCode) then
      let toInf := match mode with
        | .rne => true
        | .rtz => false
        | .rdn => neg
        | .rup => !neg
      (if !sat && toInf then f.infCode neg else f.signed neg f.maxCode, flOverflow ||| flInexact)
    else
      let code := ((q - f.qmin).toNat) * 2 ^ f.mb + r.1
      let tiny := decide (ru * pow2Num (qu - f.qmin) < 2 ^ f.mb * pow2Den (qu - f.qmin))
      (f.signed neg code, flagIf r.2 (if tiny then flInexact ||| flUnderflow else flInexact))

/-! ### Values of every format -/

/-- Range of an integer format; none for the others (R76). -/
def Fmt.range : Fmt → Option (Int × Int)
  | .int32 => some (-2147483648, 2147483647)
  | .int16 => some (-32768, 32767)
  | .int8 => some (-128, 127)
  | .uint8 => some (0, 255)
  | .int4 => some (-8, 7)
  | .int3 => some (-4, 3)
  | .int2 => some (-2, 1)
  | .idx32 => some (0, 4294967295)
  | _ => none

/-- The integer of a lane in an integer format: its w low bits, signed where the format is (R70, R76). -/
def Fmt.int (f : Fmt) (x : Lane) : Int :=
  let m := x.toNat % 2 ^ f.width
  match f with
  | .uint8 | .idx32 | .bits | .cb4 | .cb3 | .e8m0 => m
  | _ => if m < 2 ^ (f.width - 1) then m else (m : Int) - 2 ^ f.width

/-- An integer as an exact value. -/
def XVal.ofInt (i : Int) : XVal := .fin (decide (i < 0)) i.natAbs 0

/-- The value of a lane (R70 to R77). -/
def Fmt.value (f : Fmt) (x : Lane) : XVal :=
  match f.float with
  | some ff => ff.value (x.toNat % 2 ^ f.width)
  | none =>
    if f = .e8m0 then
      if x.toNat % 256 = 255 then .nan false false else .fin false 1 ((x.toNat % 256 : Nat) - 127 : Int)
    else .ofInt (f.int x)

/-- An integer reduced to the w low bits of a format (R414). -/
def Fmt.wrap (f : Fmt) (i : Int) : Lane := BitVec.ofNat 32 (i % (2 ^ f.width : Nat)).toNat

/-- A NaN that is signaling. -/
def XVal.isSNaN : XVal → Bool
  | .nan s _ => s
  | _ => false
def XVal.isNaN : XVal → Bool
  | .nan _ _ => true
  | _ => false
def XVal.isInf : XVal → Bool
  | .inf _ => true
  | _ => false
def XVal.isZero : XVal → Bool
  | .fin _ 0 _ => true
  | _ => false
def XVal.sign : XVal → Bool
  | .nan _ s => s
  | .inf s => s
  | .fin s _ _ => s

/-- The quiet NaN that every operation but a conversion gives (R74). -/
def XVal.qnan : XVal := .nan false false

/-- Signed integer numerator of a finite value at exponent q, for q at most its exponent. -/
def XVal.at (x : XVal) (q : Int) : Int :=
  match x with
  | .fin s m e => (if s then -1 else 1) * (m * pow2Num (e - q) : Nat)
  | _ => 0
def XVal.exp : XVal → Int
  | .fin _ _ e => e
  | _ => 0

/-- Exact sum, with invalid for a signaling NaN and for infinities of both signs. A zero sum takes its sign from R78:
minus under RDN, plus otherwise, unless both operands are zeros of one sign. -/
def XVal.add (a b : XVal) (mode : RMode) : XVal × Bool :=
  if a.isNaN || b.isNaN then (.qnan, a.isSNaN || b.isSNaN) else
    match a, b with
    | .inf s, .inf t => if s = t then (.inf s, false) else (.qnan, true)
    | .inf s, _ => (.inf s, false)
    | _, .inf t => (.inf t, false)
    | _, _ =>
      let q := min a.exp b.exp
      let i := a.at q + b.at q
      if i = 0 then
        (.fin (if a.isZero && b.isZero && a.sign == b.sign then a.sign else mode == .rdn) 0 0, false)
      else (.fin (decide (i < 0)) i.natAbs q, false)

/-- Exact product, with invalid for a signaling NaN and for zero times infinity. -/
def XVal.mul (a b : XVal) : XVal × Bool :=
  if a.isNaN || b.isNaN then (.qnan, a.isSNaN || b.isSNaN) else
    let s := a.sign != b.sign
    match a, b with
    | .fin _ m e, .fin _ n f => (.fin s (m * n) (e + f), false)
    | x, y => if x.isZero || y.isZero then (.qnan, true) else (.inf s, false)

/-- The value with its sign inverted. -/
def XVal.neg : XVal → XVal
  | .nan g s => .nan g (!s)
  | .inf s => .inf (!s)
  | .fin s m e => .fin (!s) m e

/-- Order of two values that are no NaN, zeros equal: a < b. -/
def XVal.lt (a b : XVal) : Bool :=
  match a, b with
  | .inf s, .inf t => s && !t
  | .inf s, _ => s
  | _, .inf t => !t
  | x, y => let q := min x.exp y.exp; decide (x.at q < y.at q)

/-- a < b with −0 below +0 (R343, R415). -/
def XVal.ltz (a b : XVal) : Bool := a.lt b || (a.isZero && b.isZero && a.sign && !b.sign)

/-- Float rounding of an exact value into a format with NaN: NaN gives the canonical NaN with sign 0 (R414). -/
def FloatFmt.roundX (f : FloatFmt) (x : XVal) (mode : RMode) (sat : Bool) : Nat × BitVec 6 :=
  match x with
  | .nan _ _ => (f.canonNan false, 0)
  | .inf s => (f.infCode s, 0)
  | .fin s m e => f.round s m 1 e mode sat

def f32 : FloatFmt := ⟨8, 23, 127, .ieee⟩
def bf16f : FloatFmt := ⟨8, 7, 127, .ieee⟩

/-- The value of an FP32 pattern. -/
def fp32 (x : BitVec 32) : XVal := f32.value x.toNat

/-- The FP32 pattern of a rounded exact value. -/
def toFp32 (x : XVal) (mode : RMode) : BitVec 32 := BitVec.ofNat 32 (f32.roundX x mode false).1

/-! ### Lane arithmetic of the six formats (R414, R415) -/

/-- A lane from a rounding. -/
def lane (r : Nat × BitVec 6) : Lane × BitVec 6 := (BitVec.ofNat 32 r.1, r.2)

/-- The exact value rounded into a lane format, with the invalid flag of the operation. -/
def Fmt.roundLane (f : Fmt) (x : XVal × Bool) (mode : RMode) : Lane × BitVec 6 :=
  match f.float with
  | some ff => let r := ff.roundX x.1 mode false; (BitVec.ofNat 32 r.1, r.2 ||| flagIf x.2 flInvalid)
  | none => (0, 0)

def addLane (f : Fmt) (mode : RMode) (a b : Lane) : Lane × BitVec 6 :=
  if f.isLaneInt then (f.wrap (f.int a + f.int b), 0)
  else f.roundLane ((f.value a).add (f.value b) mode) mode

def subLane (f : Fmt) (mode : RMode) (a b : Lane) : Lane × BitVec 6 :=
  if f.isLaneInt then (f.wrap (f.int a - f.int b), 0)
  else f.roundLane ((f.value a).add (f.value b).neg mode) mode

def mulLane (f : Fmt) (mode : RMode) (a b : Lane) : Lane × BitVec 6 :=
  if f.isLaneInt then (f.wrap (f.int a * f.int b), 0)
  else f.roundLane ((f.value a).mul (f.value b)) mode

/-- Product plus addend, exact, with the invalid of R414. -/
def XVal.fma (a b c : XVal) (mode : RMode) : XVal × Bool :=
  let p := a.mul b
  let s := p.1.add c mode
  (s.1, p.2 || s.2)

def fmaLane (f : Fmt) (mode : RMode) (a b c : Lane) : Lane × BitVec 6 :=
  if f.isLaneInt then (f.wrap (f.int a * f.int b + f.int c), 0)
  else f.roundLane ((f.value a).fma (f.value b) (f.value c) mode) mode

/-- maximumNumber, or minimumNumber with less the other way: a NaN is ignored unless both are (R343, R415). -/
def pickLane (f : Fmt) (wantMax : Bool) (a b : Lane) : Lane × BitVec 6 :=
  if f.isLaneInt then
    (f.wrap (if wantMax then max (f.int a) (f.int b) else min (f.int a) (f.int b)), 0)
  else
    let x := f.value a
    let y := f.value b
    let low (c : Lane) : Lane := BitVec.ofNat 32 (c.toNat % 2 ^ f.width)
    let r : Lane :=
      if x.isNaN && y.isNaN then BitVec.ofNat 32 ((f.float.getD f32).canonNan false)
      else if x.isNaN then low b
      else if y.isNaN then low a
      else if wantMax then (if x.ltz y then low b else low a)
      else (if y.ltz x then low b else low a)
    (r, flagIf (x.isSNaN || y.isSNaN) flInvalid)

def absLane (f : Fmt) (a : Lane) : Lane × BitVec 6 :=
  if f.isLaneInt then (f.wrap (f.int a).natAbs, 0)
  else match f.value a with
    | .nan s _ => (BitVec.ofNat 32 ((f.float.getD f32).canonNan false), flagIf s flInvalid)
    | _ => (BitVec.ofNat 32 (a.toNat % 2 ^ (f.width - 1)), 0)

def negLane (f : Fmt) (a : Lane) : Lane × BitVec 6 :=
  if f.isLaneInt then (f.wrap (-(f.int a)), 0)
  else match f.value a with
    | .nan s _ => (BitVec.ofNat 32 ((f.float.getD f32).canonNan false), flagIf s flInvalid)
    | _ => (BitVec.ofNat 32 ((a.toNat + 2 ^ (f.width - 1)) % 2 ^ f.width), 0)

/-- A comparison of two exact values; a NaN satisfies only NE (R418). -/
def VCond.holds (k : VCond) (x y : XVal) : Bool :=
  if x.isNaN || y.isNaN then k == .ne else
    match k with
    | .eq => !x.lt y && !y.lt x
    | .ne => x.lt y || y.lt x
    | .lt => x.lt y
    | .ge => !x.lt y
    | .le => !y.lt x
    | .gt => y.lt x

/-! ### Special functions (R86) -/

/-- ln 2 as a fixed-point number with 448 fraction bits, truncated. -/
def ln2Fix : Nat :=
  0xb17217f7d1cf79abc9e3b39803f2f6af40f343267298b62d8a0d175b8baafa2be7b876206debac98559552fb4afa1b10ed2eae35c1382144

/-- Sum of the first terms of e^x for x = t / 2^400, in fixed point with 400 fraction bits. -/
def expSeries (t : Nat) : Nat → Nat → Nat → Nat
  | 0, _, _ => 0
  | fuel + 1, k, term => term + expSeries t fuel (k + 1) (term * t / 2 ^ 400 / (k + 1))

/-- 2^(n / 2^400) for n below 2^400, with 400 fraction bits, to within a few units of the last place. -/
def exp2Fix (n : Nat) : Nat := expSeries (n * ln2Fix / 2 ^ 448) 110 0 (2 ^ 400)

/-- One step of the binary logarithm: square, and read whether the result reached 2. -/
def logBits : Nat → Nat → Nat → Nat
  | 0, _, acc => acc
  | fuel + 1, z, acc =>
    let z2 := z * z / 2 ^ 450
    if 2 ^ 451 ≤ z2 then logBits fuel (z2 / 2) (2 * acc + 1) else logBits fuel z2 (2 * acc)

/-- Integer square root by bits, from the bit of the given weight down. -/
def isqrt : Nat → Nat → Nat → Nat
  | 0, _, r => r
  | fuel + 1, n, r =>
    let c := r + 2 ^ fuel
    isqrt fuel n (if c * c ≤ n then c else r)

/-- 2^x for a finite x, exact for integers, else as a value that rounds as the exact one does. -/
def exp2Frac (s : Bool) (m : Nat) (e : Int) : Nat × Int :=
  -- x * 2^400, floored; |x| is first bounded, since beyond 2^12 every format over- or underflows
  if 0 < m && decide (12 ≤ floorLog2 m 1 e) then (if s then (1, -5000) else (1, 5000)) else
    let num : Int := (if s then -1 else 1) * (m * pow2Num (e + 400) : Nat)
    let x := Int.fdiv num (pow2Den (e + 400))
    let i := Int.fdiv x (2 ^ 400)
    let n := (x - i * 2 ^ 400).toNat
    let whole := decide (n = 0) && decide (num % (pow2Den (e + 400) : Nat) = 0)
    if whole then (1, i) else (2 * exp2Fix n + 1, i - 401)

/-- log2 of a positive finite value: sign, numerator, exponent, as a value that rounds as the exact one does. -/
def log2Frac (m : Nat) (e : Int) : Bool × Nat × Int :=
  let k := floorLog2 m 1 e
  if m = 2 ^ m.log2 then (decide (k < 0), k.natAbs, 0) else
    let z := m * 2 ^ 450 / 2 ^ m.log2
    let v : Int := k * 2 ^ 220 + logBits 220 z 0
    let w := 2 * v + 1
    (decide (w < 0), w.natAbs, -221)

/-- 1 / sqrt of a positive finite value, likewise. -/
def rsqFrac (m : Nat) (e : Int) : Nat × Int :=
  let m' := if e % 2 = 0 then m else 2 * m
  let e' := if e % 2 = 0 then e else e - 1
  let n := 2 ^ 900 / m'
  let r := isqrt 451 n 0
  (2 * r + (if r * r * m' = 2 ^ 900 then 0 else 1), -451 - e' / 2)

/-- VEXP2 on one lane (R86). -/
def exp2Lane (f : Fmt) (mode : RMode) (a : Lane) : Lane × BitVec 6 :=
  let ff := f.float.getD f32
  match f.value a with
  | .nan s _ => (BitVec.ofNat 32 (ff.canonNan false), flagIf s flInvalid)
  | .inf s => (if s then 0 else BitVec.ofNat 32 (ff.infCode false), 0)
  | .fin s m e => let r := exp2Frac s m e; lane (ff.round false r.1 1 r.2 mode false)

/-- VLOG2 on one lane (R86). -/
def log2Lane (f : Fmt) (mode : RMode) (a : Lane) : Lane × BitVec 6 :=
  let ff := f.float.getD f32
  match f.value a with
  | .nan s _ => (BitVec.ofNat 32 (ff.canonNan false), flagIf s flInvalid)
  | .inf s => if s then (BitVec.ofNat 32 (ff.canonNan false), flInvalid) else (BitVec.ofNat 32 (ff.infCode false), 0)
  | .fin s m e =>
    if m = 0 then (BitVec.ofNat 32 (ff.infCode true), flDivZero)
    else if s then (BitVec.ofNat 32 (ff.canonNan false), flInvalid)
    else let r := log2Frac m e; lane (ff.round r.1 r.2.1 1 r.2.2 mode false)

/-- VRCP on one lane (R86). -/
def rcpLane (f : Fmt) (mode : RMode) (a : Lane) : Lane × BitVec 6 :=
  let ff := f.float.getD f32
  match f.value a with
  | .nan s _ => (BitVec.ofNat 32 (ff.canonNan false), flagIf s flInvalid)
  | .inf s => (BitVec.ofNat 32 (ff.signed s 0), 0)
  | .fin s m e =>
    if m = 0 then (BitVec.ofNat 32 (ff.infCode s), flDivZero) else lane (ff.round s 1 m (-e) mode false)

/-- VRSQ on one lane (R86). -/
def rsqLane (f : Fmt) (mode : RMode) (a : Lane) : Lane × BitVec 6 :=
  let ff := f.float.getD f32
  match f.value a with
  | .nan s _ => (BitVec.ofNat 32 (ff.canonNan false), flagIf s flInvalid)
  | .inf s => if s then (BitVec.ofNat 32 (ff.canonNan false), flInvalid) else (0, 0)
  | .fin s m e =>
    if m = 0 then (BitVec.ofNat 32 (ff.infCode s), flDivZero)
    else if s then (BitVec.ofNat 32 (ff.canonNan false), flInvalid)
    else let r := rsqFrac m e; lane (ff.round false r.1 1 r.2 mode false)

/-! ### Conversion, quantisation and scales (R82 to R85) -/

/-- A rational rounded to an integer and clamped to a range: out of range gives the nearest end and the flag oor. -/
def roundInt (neg : Bool) (num den : Nat) (e : Int) (mode : RMode) (lo hi : Int) (oor : BitVec 6) : Int × BitVec 6 :=
  let r := roundAt neg num den e 0 mode
  let i : Int := if neg then -(r.1 : Int) else r.1
  if i < lo then (lo, oor) else if hi < i then (hi, oor) else (i, flagIf r.2 flInexact)

/-- VCVT of one lane without AS (R82). An E8M0 source and an integer target: as float to integer (log entry 89). -/
def cvtLane (src dst : Fmt) (mode : RMode) (sat : Bool) (x : Lane) : Lane × BitVec 6 :=
  match dst.float with
  | some ff =>
    match src.value x with
    | .nan sg s =>
      let inv := flagIf sg flInvalid
      if ff.nan = .none then
        (BitVec.ofNat 32 (ff.signed s ff.maxCode), flInvalid ||| flSquashed)
      else (BitVec.ofNat 32 (ff.canonNan (if src = .e8m0 then false else s)), inv)
    | .inf s =>
      if ff.nan = .ieee then
        (BitVec.ofNat 32 (if sat then ff.signed s ff.maxCode else ff.infCode s), 0)
      else (BitVec.ofNat 32 (ff.signed s ff.maxCode), flInvalid)
    | .fin s m e => lane (ff.round s m 1 e mode sat)
  | none =>
    match dst.range with
    | none => (x, 0)
    | some (lo, hi) =>
      match src.range with
      | some _ =>
        let i := src.int x
        if lo ≤ i && i ≤ hi then (dst.wrap i, 0)
        else if sat then (dst.wrap (if i < lo then lo else hi), flOverflow)
        else (dst.wrap i, 0)
      | none =>
        match src.value x with
        | .nan _ _ => (0, flInvalid)
        | .inf s => (dst.wrap (if s then lo else hi), flInvalid)
        | .fin s m e => let r := roundInt s m 1 e mode lo hi flInvalid; (dst.wrap r.1, r.2)

/-- VQNT of one lane by a scale value (R83). An infinite source and an integer target: the end of the range (log entry
89). -/
def qntLane (src dst : Fmt) (mode : RMode) (sv : XVal) (a : Lane) : Lane × BitVec 6 :=
  let x := src.value a
  let s := x.sign != sv.sign
  let largest : Lane :=
    match dst.float, dst.range with
    | some ff, _ => BitVec.ofNat 32 (ff.signed s ff.maxCode)
    | none, some (lo, hi) => dst.wrap (if s then lo else hi)
    | none, none => 0
  let invalid : Lane × BitVec 6 :=
    match dst.float with
    | some ff =>
      if ff.nan = .none then (BitVec.ofNat 32 ff.maxCode, flInvalid ||| flSquashed)
      else (BitVec.ofNat 32 (ff.canonNan false), flInvalid)
    | none => (0, flInvalid)
  if sv.isZero || sv.isNaN || x.isNaN then invalid else
    match x, sv with
    | .inf _, .inf _ => invalid
    | .inf _, _ => (largest, flInvalid)
    | .fin _ _ _, .inf _ =>
      (match dst.float with
       | some ff => BitVec.ofNat 32 (ff.signed s 0)
       | none => 0, 0)
    | .fin _ m e, .fin _ n q =>
      match dst.float, dst.range with
      | some ff, _ => lane (ff.round s m n (e - q) mode true)
      | none, some (lo, hi) => let r := roundInt s m n (e - q) mode lo hi flInvalid; (dst.wrap r.1, r.2)
      | none, none => (0, 0)
    | _, _ => invalid

/-- VDQ of one code by a scale value (R84). A zero product takes the sign of IEEE 754, an integer 0 counting as positive
(log entry 89). -/
def dqLane (src dst : Fmt) (mode : RMode) (sat : Bool) (sv : XVal) (a : Lane) : Lane × BitVec 6 :=
  let ff := dst.float.getD f32
  let p := (src.value a).mul sv
  match p.1 with
  | .nan _ _ => (BitVec.ofNat 32 (ff.canonNan false), flagIf p.2 flInvalid)
  | .inf s => (BitVec.ofNat 32 (if sat then ff.signed s ff.maxCode else ff.infCode s), 0)
  | .fin s m e => lane (ff.round s m 1 e mode sat)

/-- emax of a target (R85). -/
def Fmt.emax : Fmt → Int
  | .fp8e4 => 8 | .fp8e5 => 15 | .fp6e3 => 4 | .fp6e2 => 2 | .fp4 => 2 | .int8 => 6 | .uint8 => 7 | .int4 => 2
  | .int3 => 1 | _ => 0

/-- fmax of a target, in units of one half (R85). -/
def Fmt.fmax2 : Fmt → Nat
  | .fp8e4 => 896 | .fp8e5 => 114688 | .fp6e3 => 56 | .fp6e2 => 15 | .fp4 => 12 | .int8 => 254 | .uint8 => 510
  | .int4 => 14 | .int3 => 6 | _ => 2

/-- The larger of two magnitudes; a NaN wins, then an infinity (R85). -/
def XVal.amax (a b : XVal) : XVal :=
  let abs (x : XVal) : XVal := match x with
    | .nan s _ => .nan s false
    | .inf _ => .inf false
    | .fin _ m e => .fin false m e
  let a := abs a
  let b := abs b
  if a.isNaN then a else if b.isNaN then b else if a.lt b then b else a

/-- VSCL's scale for an amax (R85): its pattern and flags. -/
def sclOf (dst : Fmt) (fp32Kind : Bool) (amax : XVal) : Lane × BitVec 6 :=
  if fp32Kind then
    match amax with
    | .nan _ _ => (BitVec.ofNat 32 (f32.canonNan false), flInvalid)
    | .inf _ => (BitVec.ofNat 32 (f32.infCode false), flInvalid)
    | .fin _ m e => if m = 0 then (0x3F800000, 0) else lane (f32.round false (2 * m) dst.fmax2 e .rup false)
  else
    match amax with
    | .nan _ _ => (0xFF, flInvalid)
    | .inf _ => (0xFE, flInvalid)
    | .fin _ m e =>
      if m = 0 then (0x7F, 0)
      else (BitVec.ofNat 32 (max (-127) (min 127 (floorLog2 m 1 e - dst.emax)) + 127).toNat, 0)

/-- An element that counts as zero (R108): a float zero of either sign, or all w bits 0. -/
def Fmt.isZeroLane (f : Fmt) (x : Lane) : Bool :=
  match f.float with
  | some ff => decide (x.toNat % 2 ^ (ff.eb + ff.mb) = 0)
  | none => decide (x.toNat % 2 ^ f.width = 0)

end Sys2Proof
end

