-- ==== Sys2Proof/Machine/Ops.lean ====
section
/-!
DEFINITION. The named operations over the state: memory as a canonical list of bytes, the registers of the core in
focus, the records of the other cores, regions and virtual devices, the end of an instruction (retiring, branching,
waiting, faulting), taking an exception and returning from one.
-/
namespace Sys2Proof.Machine

/-! ### Memory: a list of (address, byte), addresses rising, no zero byte listed (log entry 4) -/

/-- What an unlisted address reads as (R253, R271, R186). -/
def Memory.unlisted : Byte := 0

/-- The byte at an address. -/
def Memory.get : List Host.Cell → Nat → Byte
  | [], _ => Memory.unlisted
  | (k, v) :: r, a => if k = a then v else Memory.get r a

/-- Writing one byte keeps the canonical form. -/
def Memory.set : List Host.Cell → Nat → Byte → List Host.Cell
  | [], a, b => if b = Memory.unlisted then [] else [(a, b)]
  | (k, v) :: r, a, b =>
    if a < k then (if b = Memory.unlisted then (k, v) :: r else (a, b) :: (k, v) :: r)
    else if a = k then (if b = Memory.unlisted then r else (a, b) :: r)
    else (k, v) :: Memory.set r a b

/-- Every address of the list is above n, rising, and no listed byte is the unlisted value. -/
def Memory.above : Nat → List Host.Cell → Bool
  | _, [] => true
  | n, (k, v) :: r => decide (n ≤ k) && decide (v ≠ Memory.unlisted) && Memory.above (k + 1) r

/-- The canonical form. -/
def Memory.wf (m : List Host.Cell) : Bool := Memory.above 0 m

/-- n bytes from an address, little-endian, as a number (R9). -/
def Memory.read (m : List Host.Cell) (a : Nat) : Nat → Nat
  | 0 => 0
  | n + 1 => (Memory.get m a).toNat + 256 * Memory.read m (a + 1) n

/-- Writing n bytes of a number, little-endian; only bits set in the mask change. -/
def Memory.write (m : List Host.Cell) (a : Nat) : Nat → Nat → Nat → List Host.Cell
  | 0, _, _ => m
  | n + 1, x, mask =>
    let old := (Memory.get m a).toNat
    let k := mask % 256
    let b := (old &&& (255 - k)) ||| (x % 256 &&& k)
    Memory.write (Memory.set m a (BitVec.ofNat 8 b)) (a + 1) n (x / 256) (mask / 256)

/-- A mask of n whole bytes. -/
def fullMask (n : Nat) : Nat := 256 ^ n - 1

/-- Bytes of a number, lowest first. -/
def toBytes : Nat → Nat → List Byte
  | 0, _ => []
  | n + 1, x => BitVec.ofNat 8 x :: toBytes n (x / 256)

/-- A number from bytes, lowest first. -/
def ofBytes : List Byte → Nat
  | [] => 0
  | b :: r => b.toNat + 256 * ofBytes r

/-- n bytes of device memory at a physical address. -/
def State.rd (s : State) (pa n : Nat) : Nat := Memory.read s.mem pa n

/-- n bytes of device memory written whole. -/
def State.wr (s : State) (pa n x : Nat) : State := { s with mem := Memory.write s.mem pa n x (fullMask n) }

/-- n bytes of device memory set to zero. -/
def State.zero (s : State) (pa n : Nat) : State :=
  { s with mem := s.mem.filter fun c => c.1 < pa || pa + n ≤ c.1 }

/-! ### Bits -/

/-- A value of w bits sign-extended to 64. -/
def sext (w : Nat) (x : BitVec w) : Word := x.signExtend 64

/-- Bits [lo, lo + n) of a word, as a number. -/
def bits (x : Word) (lo n : Nat) : Nat := (x.extractLsb' lo n).toNat

/-- Lane i of a payload (R46). -/
def laneOf (p : Payload) (i : Nat) : Lane := p.extractLsb' (32 * i) 32

/-- A payload from its lanes. -/
def payloadOf (f : Nat → Lane) : Nat → Payload
  | 0 => 0
  | n + 1 => payloadOf f n ||| ((f n).setWidth 512 <<< (32 * n))

/-- Valid bits from a predicate on lanes. -/
def validOf (f : Nat → Bool) : Nat → BitVec 16
  | 0 => 0
  | n + 1 => validOf f n ||| ((BitVec.ofBool (f n)).setWidth 16 <<< n)

/-- Remainder of an integer step of a register number (R67). -/
def stepReg (n step m : Nat) (i : Nat) : Nat := (n + i * (if step < 8 then step else m + step - 16)) % m

/-! ### Cores and tiles -/

/-- The core in focus. -/
def State.core (s : State) : Core := s.tile.core

/-- The state with another core record in focus. -/
def State.setCore (s : State) (c : Core) : State := { s with tile := { s.tile with core := c } }

/-- The record parked under a number, or that of a core at reset. -/
def lookupTile (l : List (Nat × Tile)) (t : Nat) : Tile :=
  match l with
  | [] => {}
  | (k, x) :: r => if k = t then x else lookupTile r t

/-- Parking a record, in ascending order. -/
def insertTile (l : List (Nat × Tile)) (t : Nat) (x : Tile) : List (Nat × Tile) :=
  match l with
  | [] => [(t, x)]
  | (k, y) :: r => if t < k then (t, x) :: (k, y) :: r else if t = k then (t, x) :: r else (k, y) :: insertTile r t x

/-- The record of any core. -/
def State.tileAt (s : State) (t : Nat) : Tile := if t = s.cur then s.tile else lookupTile s.parked t

/-- Replacing the record of any core. -/
def State.setTile (s : State) (t : Nat) (x : Tile) : State :=
  if t = s.cur then { s with tile := x } else { s with parked := insertTile s.parked t x }

def State.updTile (s : State) (t : Nat) (f : Tile → Tile) : State := s.setTile t (f (s.tileAt t))

/-- Changing the core of any tile. -/
def State.updCore (s : State) (t : Nat) (f : Core → Core) : State :=
  s.updTile t fun x => { x with core := f x.core }

/-- Changing the fabric of any tile. -/
def State.updFab (s : State) (t : Nat) (f : Fabric → Fabric) : State :=
  s.updTile t fun x => { x with fab := f x.fab }

/-- Bringing a core into focus (log entry 2). -/
def State.focus (s : State) (t : Nat) : State :=
  if t = s.cur then s
  else { s with
    parked := insertTile (s.parked.filter fun x => x.1 != t) s.cur s.tile, tile := lookupTile s.parked t, cur := t }

/-- Applying a change to every core that has a record. -/
def State.mapCores (s : State) (f : Nat → Core → Core) : State :=
  { s with
    tile := { s.tile with core := f s.cur s.tile.core }
    parked := s.parked.map fun x => (x.1, { x.2 with core := f x.1 x.2.core }) }

/-- Numbers of the cores that have a record. -/
def State.known (s : State) : List Nat := s.cur :: s.parked.map Prod.fst

/-- A free value is drawn: the tick it has, and the state after (log entry 5). -/
def State.draw (s : State) : Nat × State := (s.tick, { s with tick := s.tick + 1 })

/-! ### Regions and virtual devices -/

def State.region (s : State) (r : Nat) : Option Region := s.regions[r]?

def State.setRegion (s : State) (r : Nat) (x : Region) : State := { s with regions := s.regions.set r x }

def State.updRegion (s : State) (r : Nat) (f : Region → Region) : State :=
  match s.region r with
  | some x => s.setRegion r (f x)
  | none => s

def State.vd (s : State) (n : Nat) : Vd := if h : n < 32 then s.vds[n] else {}

def State.updVd (s : State) (n : Nat) (f : Vd → Vd) : State :=
  if h : n < 32 then { s with vds := s.vds.set n (f s.vds[n]) } else s

/-- Tile number of a column and row of the mesh (R4). -/
def tileNo (col row : Nat) : Nat := row * 64 + col

/-- The tiles of a rectangle, row by row. -/
def rectTiles (col row w h : Nat) : List Nat :=
  (List.range (w * h)).map fun i => tileNo (col + i % w) (row + i / w)

/-- The tiles of a placed region, row by row (R24). -/
def Region.tilesOf (x : Region) : List Nat :=
  match x.place with
  | some (c, r) => rectTiles c r x.w x.h
  | none => []

/-- Tile t lies in the region's rectangle. -/
def Region.covers (x : Region) (t : Nat) : Bool :=
  match x.place with
  | some (c, r) => decide (c ≤ t % 64) && decide (t % 64 < c + x.w) && decide (r ≤ t / 64) && decide (t / 64 < r + x.h)
  | none => false

/-- The number of the region that holds a tile. -/
def State.regionAt (s : State) (t : Nat) : Option Nat :=
  (List.range s.regions.length).find? fun i =>
    match s.region i with
    | some x => decide (t < Config.tiles) && x.covers t
    | none => false

/-- The crown tile of a region (R24). -/
def Region.crown (x : Region) : Nat :=
  match x.place with
  | some (c, r) => tileNo c r
  | none => 0

/-- Rectangle of a VD: origin column and row, width, height (R234). -/
def Vd.rectOf (v : Vd) : Nat × Nat × Nat × Nat :=
  (bits v.rect 0 6, bits v.rect 8 6, bits v.rect 16 6 + 1, bits v.rect 24 6 + 1)

def Vd.tiles (v : Vd) : List Nat := let (c, r, w, h) := v.rectOf; rectTiles c r w h

/-- The steward tile (R23). -/
def Vd.steward (v : Vd) : Nat := let (c, r, _, _) := v.rectOf; tileNo c r

/-- The VD has a rectangle that holds tile t. -/
def Vd.owns (v : Vd) (t : Nat) : Bool :=
  let (c, r, w, h) := v.rectOf
  v.st != .none && decide (c ≤ t % 64) && decide (t % 64 < c + w) && decide (r ≤ t / 64) && decide (t / 64 < r + h)
    && decide (t < Config.tiles)

/-! ### Registers of the core in focus (R45) -/

/-- A pending load gives up a g register that a later instruction writes. -/
def dropG (l : List Pending) (r : GReg) : List Pending :=
  l.map fun p => match p.dest with
    | .g q _ _ => if q = r then { p with dest := .none } else p
    | _ => p

def dropV (l : List Pending) (r : VReg) : List Pending :=
  l.map fun p => match p.dest with
    | .v q _ => if q = r then { p with dest := .none } else p
    | .lanes q _ _ => if q = r then { p with dest := .none } else p
    | .sparse q _ _ => if q = r then { p with dest := .none } else p
    | _ => p

def dropP (l : List Pending) (r : PReg) : List Pending :=
  l.map fun p => match p.dest with
    | .pred q _ _ => if q = r then { p with dest := .none } else p
    | _ => p

/-- g0 reads 0 (R45). -/
def Core.rdG (c : Core) (r : GReg) : Word := if r = 0 then 0 else c.g[r]

/-- A write to g0 is discarded (R45). -/
def Core.wrG (c : Core) (r : GReg) (x : Word) : Core :=
  if r = 0 then c else { c with g := c.g.set r x, pend := dropG c.pend r }

def Core.rdV (c : Core) (r : VReg) : Token := c.v[r]
def Core.wrV (c : Core) (r : VReg) (x : Token) : Core := { c with v := c.v.set r x, pend := dropV c.pend r }

/-- p0 reads 1 (R45). -/
def Core.rdP (c : Core) (r : PReg) : Bool := r = 0 || c.p.getLsbD r.val

/-- A write to p0 is discarded (R45). -/
def Core.wrP (c : Core) (r : PReg) (b : Bool) : Core :=
  if r = 0 then c
  else { c with
    p := (c.p &&& ~~~(1#8 <<< r.val)) ||| ((BitVec.ofBool b).setWidth 8 <<< r.val), pend := dropP c.pend r }

def Core.rdA (c : Core) (r : AReg) : Acc := c.a[r]
def Core.wrA (c : Core) (r : AReg) (x : Acc) : Core := { c with a := c.a.set r x }

/-- F of an accumulator: a macro-op that writes it is in flight (R47, R90). -/
def Core.fBit (c : Core) (r : AReg) : Bool :=
  c.inflight.any (fun x => x.acc == r) || (c.stepAt.isSome && c.stepAcc == some r)

def State.g (s : State) (r : GReg) : Word := s.core.rdG r
def State.setG (s : State) (r : GReg) (x : Word) : State := s.setCore (s.core.wrG r x)
def State.v (s : State) (r : VReg) : Token := s.core.rdV r
def State.setV (s : State) (r : VReg) (x : Token) : State := s.setCore (s.core.wrV r x)
def State.p (s : State) (r : PReg) : Bool := s.core.rdP r
def State.setP (s : State) (r : PReg) (b : Bool) : State := s.setCore (s.core.wrP r b)

/-- Merging flags into FSTAT (R80). -/
def State.flag (s : State) (f : BitVec 6) : State := s.setCore { s.core with fstat := s.core.fstat ||| f }

/-! ### Causes (R260) -/

def cIllegalEncoding : BitVec 8 := 0x01
def cIllegalOperand : BitVec 8 := 0x02
def cFormatTag : BitVec 8 := 0x03
def cMisaligned : BitVec 8 := 0x04
def cTranslation : BitVec 8 := 0x05
def cPermission : BitVec 8 := 0x06
def cStage2Translation : BitVec 8 := 0x07
def cStage2Permission : BitVec 8 := 0x08
def cOrderKind : BitVec 8 := 0x09
def cIntegrity : BitVec 8 := 0x0A
def cPrivilege : BitVec 8 := 0x0B
def cTrap : BitVec 8 := 0x0C
def cBreakpoint : BitVec 8 := 0x0D
def cDivideByZero : BitVec 8 := 0x0E
def cLoopTail : BitVec 8 := 0x0F
def cLoopNest : BitVec 8 := 0x10
def cRepeatTarget : BitVec 8 := 0x11
def cSparseOverrun : BitVec 8 := 0x12
def cSparseFormat : BitVec 8 := 0x13
def cNmMetadata : BitVec 8 := 0x14
def cTileShape : BitVec 8 := 0x15
def cAccState : BitVec 8 := 0x16
def cPort : BitVec 8 := 0x17
def cConfigRefused : BitVec 8 := 0x18
def cFabric : BitVec 8 := 0x19
def cGatherBound : BitVec 8 := 0x1B
def cWindow : BitVec 8 := 0x1C
def cWatchdog : BitVec 8 := 0x1D
def cAtomicKind : BitVec 8 := 0x1E
def cMachineCheck : BitVec 8 := 0x1F
def cPreempt : BitVec 8 := 0x20

/-! ### Status pairs, MSI-X and the fence of a VD (R262, R280, R282, R445) -/

/-- Physical address of the mailbox page of function f (R281). -/
def mailbox (f : Nat) : Nat := Config.ioBase + f * 0x10000

/-- Sending vector v of function f, or setting its pending bit when the vector is masked (R280, R282). -/
def State.msix (s : State) (f v : Nat) : State :=
  let page := mailbox f
  if s.rd (page + 0xE000 + 16 * v + 12) 1 % 2 = 1 then
    s.wr (page + 0xF000 + v / 8) 1 (s.rd (page + 0xF000 + v / 8) 1 ||| 2 ^ (v % 8))
  else { s with sent := s.sent ++ [.msix f v] }

/-- Word 0 of a status pair from its parts (R282). -/
def statusWord (stage err : Nat) (ready fenced dstop : Bool) (cause : Nat) : Nat :=
  stage % 256 + err % 256 * 2 ^ 8 + (if ready then 2 ^ 16 else 0) + (if fenced then 2 ^ 17 else 0)
    + (if dstop then 2 ^ 18 else 0) + cause % 256 * 2 ^ 24

/-- The condition of a WAITA on the value of its word (R437). -/
def wcondHolds (k : WCond) (v x : Word) : Bool :=
  match k with
  | .eq => v == x
  | .ne => v != x
  | .geu => x.ule v
  | .ltu => v.ult x

/-- A write of bytes [pa, pa + n) is seen by every core asleep on a word it touches (R224). -/
def State.wake (s : State) (pa n : Nat) : State :=
  s.mapCores fun _ c =>
    match c.status with
    | .asleep a k w x hit =>
      if a < pa + n && pa < a + k && wcondHolds w (BitVec.ofNat 64 (s.rd a k)) x && !hit then
        { c with status := .asleep a k w x true }
      else c
    | _ => c

/-- A doubleword of a mailbox page that the device writes; firmware may sleep on it (R281). -/
def State.mailWrite (s : State) (pa x : Nat) : State := (s.wr pa 8 x).wake pa 8

/-- DSTOP in the status pair of function f (R282). -/
def State.dstop (s : State) (f : Nat) : Bool := s.rd (mailbox f + 2) 1 / 4 % 2 == 1

/-- Writing word 0 of function f's status pair and raising its vector 0 (R282). -/
def State.status (s : State) (f : Nat) (fenced dstop : Bool) (cause : Nat) : State :=
  (s.mailWrite (mailbox f) (statusWord s.stage s.bootErr.toNat s.ready fenced dstop cause)).msix f 0

/-- One more dropped inbound write in word 1 of function f's status pair, saturating; the host is told through vector 0
(R277, R282). -/
def State.countDropped (s : State) (f : Nat) : State :=
  let n := s.rd (mailbox f + 8) 8
  (s.mailWrite (mailbox f + 8) (if n + 1 < 2 ^ 64 then n + 1 else n)).msix f 0

/-- The function of a VD; H's is the physical function (R276). -/
def fnOf (vd : Nat) : Nat := if vd < Config.vds then vd + 1 else 0

/-- Every part of an inbound read has been performed. -/
def InRead.performed (q : InRead) (l : List Access) : Bool :=
  q.sent && q.out.all fun o => l.any fun a => a.id == o.1 && a.st == AccStat.performed

/-- The inbound reads and AtomicOps of a function that are not performed whole end with Completer Abort (R262, R270). -/
def State.abortReads (s : State) (f : Nat) : State :=
  let lost (q : InRead) : Bool := q.fn == f && !q.performed s.accs
  { s with
    asked := s.asked.filter fun q => !lost q
    sent := s.sent ++ (s.asked.filter lost).map fun _ => Sent.abort f }

/-- The fence of a VD: every task and region stops without a save, later accesses are refused because the VD is in
state FENCED, inbound reads that are not performed whole are aborted, no RCB is updated, and the host is notified (R262);
a FRZ under way has lost its regions (R371), and DSTOP stays until the next START (R282). -/
def State.fence (s : State) (vd : Nat) (cause : BitVec 8) : State :=
  if (s.vd vd).st = .none then s else
    let s1 := s.updVd vd fun v => { v with st := .fenced }
    let s2 := s1.mapCores fun _ c =>
      match c.task with
      | some k => if k.vd = vd && k.role != .firmware then { c with status := .stopped, resume := .idle } else c
      | none => c
    let s3 := { s2 with
      queue := s2.queue.filter fun (r : Nat) => (s2.region r).any fun (x : Region) => x.vd != vd
      accs := s2.accs.filter fun (a : Access) => a.vd != vd || a.st != AccStat.buffered
      posted := s2.posted.filter fun (p : Posted) => p.fn != vd + 1
      threads := s2.threads.filter fun (t : Thread) => t.vd != vd
      frozenBy := s2.frozenBy.map fun (q : Nat × Nat × Nat) =>
        if q.2.2 = 0 && (s2.region q.2.1).any (fun (x : Region) => x.vd == vd) then (q.1, q.2.1, 2) else q
      wkey := s2.wkey.filter fun t => (s2.tileAt t).core.task.all fun (k : Task) => k.vd != vd || k.role == Role.firmware }
    (s3.abortReads (vd + 1)).status (fnOf vd) true (s.dstop (fnOf vd)) cause.toNat

/-! ### Taking an exception and returning from one (R257, R258, R259, R445) -/

/-- Causes that no handler takes (R257). -/
def untakable (cause : BitVec 8) : Bool := cause == cIntegrity || cause == cWatchdog || cause == cMachineCheck

/-- Handler entry: the saved registers, the shadow, S mode with PRIV[8], and the pc at TRAPV (R258). -/
def Core.enter (c : Core) (cause : BitVec 8) (eval epc estep : Word) : Core :=
  { c with
    cause := cause, eval := eval, epc := epc, estep := estep
    shadow := ⟨c.lvl, c.loops, c.rpPend, c.rpCount⟩
    loops := [], rpPend := false, rpCount := 0
    lvl := .s, inH := true, pc := c.trapv, repAt := none, stepAt := none, readings := [] }

/-- ERET: the shadow comes back and the pc is EPC (R259). -/
def Core.leave (c : Core) : Core :=
  { c with
    lvl := c.shadow.lvl, loops := c.shadow.loops, rpPend := c.shadow.rpPend, rpCount := c.shadow.rpCount
    inH := false, pc := c.epc }

/-- A fault of the core in focus that no handler takes: the region waits for its fault domain, the dispatcher ends as if
by EXIT (R445), the VD is fenced for INTEGRITY and MACHINE_CHECK (R262), and a service core stops (R352). -/
def State.untaken (s : State) (cause : BitVec 8) (eval epc estep : Word) : State :=
  let c := s.core
  match c.task with
  | none => s.setCore { c with status := .stopped }
  | some k =>
    if (cause == cIntegrity || cause == cMachineCheck) && k.role != .firmware then
      (s.setCore { c with cause := cause, eval := eval, epc := epc, estep := estep }).fence k.vd cause
    else match k.role with
    | .lead | .worker =>
      (s.setCore { c with status := .faulted, repAt := none, stepAt := none, readings := [] }).updRegion k.region fun x =>
        { x with fault := some (x.fault.getD ⟨cause, epc, eval, estep⟩) }
    | .dispatcher =>
      s.setCore { c with
        cause := cause, eval := eval, epc := epc, estep := estep, status := .exiting 0, task := some { k with fell := some cause }
        repAt := none, stepAt := none, readings := [] }
    | .firmware =>
      let s1 := s.setCore { c with
        cause := cause, eval := eval, epc := epc, estep := estep, status := .stopped, repAt := none, stepAt := none, readings := [] }
      if cause == cBreakpoint then
        ({ s1 with bootErr := 0x31 } : State).status 0 false false (s.rd (mailbox 0 + 3) 1)
      else s1

/-- A fault of the task in focus: to its handler when it has one and may take it, else to what takes its place. -/
def State.raise (s : State) (cause : BitVec 8) (eval epc estep : Word) : State :=
  if s.core.trapv ≠ 0 && !s.core.inH && !untakable cause then s.setCore (s.core.enter cause eval epc estep)
  else s.untaken cause eval epc estep

/-! ### The end of an instruction -/

/-- The end test of the hardware loops at the retirement of the instruction at pc: next pc and stack (R63). -/
def loopEnd (pc : Word) : List LoopLvl → Word × List LoopLvl
  | [] => (pc + 8, [])
  | l :: r =>
    if l.stop = pc then
      if l.count - 1 = 0 then loopEnd pc r else (l.start, { l with count := l.count - 1 } :: r)
    else (pc + 8, l :: r)

/-- Retirement clears RPST, and outside a handler the resume bit of ESTEP (R68, R109, R258). -/
def Core.retired (c : Core) : Core :=
  { c with
    rpPend := false, rpCount := 0, repAt := none, stepAt := none, readings := []
    barAt := if c.inH then c.barAt else none
    estep := if c.inH then c.estep else c.estep &&& 0x7FFFFFFFFFFFFFFF }

/-- The instruction at the pc retires and execution goes on after the end test. -/
def Core.retire (c : Core) : Core :=
  let n := loopEnd c.pc c.loops
  { c.retired with pc := n.1, loops := n.2 }

/-- The levels that stay when control goes to a target by BR, CBR or JMP (R64). -/
def popLoops (t : Word) : List LoopLvl → List LoopLvl
  | [] => []
  | l :: r => if l.start ≤ t ∧ t ≤ l.stop then l :: r else popLoops t r

/-- How an instruction ends. -/
inductive Act where
  /-- It retires. -/
  | retire (s : State)
  /-- It retires and control goes to an address, loop levels as they stand in the state. -/
  | jump (s : State) (pc : Word)
  /-- It waits, or goes on in a later turn. -/
  | wait (s : State)
  /-- It faults with a cause, EVAL and ESTEP; EPC is the pc. -/
  | trap (s : State) (cause : BitVec 8) (eval estep : Word)

/-- The state that follows. -/
def Act.done : Act → State
  | .retire s => s.setCore s.core.retire
  | .jump s pc => s.setCore { s.core.retired with pc := pc }
  | .wait s => s
  | .trap s cause eval estep => s.raise cause eval s.core.pc estep

/-- A fault with ESTEP 0 that changes nothing before it (R340). -/
def fault (s : State) (cause : BitVec 8) (eval : Word) : Act := .trap s cause eval 0

/-! ### The common course of every instruction: privilege, loop tail, guard (R315 steps 4 to 6) -/

/-- The guard is 1 (R55). -/
def State.guard (s : State) (c : Guard) : Bool := s.p c.pg != c.pn

/-- Levels at which an instruction executes (R53). -/
inductive Modes where
  | all      -- U, S, H
  | us       -- U, S
  | sh       -- S, H
  | h        -- H
  | handler  -- while PRIV[8] is 1
  | sTask    -- S outside a handler
  | shTask   -- S outside a handler, H
  | hTask    -- H outside a handler
  deriving DecidableEq, Repr

def Modes.ok (m : Modes) (lvl : Lvl) (inH : Bool) : Bool :=
  match m, lvl with
  | .all, _ => true
  | .us, .h => false
  | .us, _ => true
  | .sh, .u => false
  | .sh, _ => true
  | .h, .h => true
  | .h, _ => false
  | .handler, _ => inH
  | .sTask, .s => !inH
  | .sTask, _ => false
  | .shTask, .u => false
  | .shTask, _ => !inH
  | .hTask, .h => !inH
  | .hTask, _ => false

/-- The pc stands at the end of an active loop level (R65). -/
def Core.atLoopEnd (c : Core) : Bool := c.loops.any fun l => l.stop == c.pc

/-- An instruction from step 4 of R315 on: f is its operation, run when the guard is 1. -/
def State.exec (s : State) (m : Modes) (ctl : Bool) (c : Guard) (f : State → Act) : State :=
  if !m.ok s.core.lvl s.core.inH then s.raise cPrivilege s.ir s.core.pc 0
  else if ctl && s.core.atLoopEnd then s.raise cLoopTail s.ir s.core.pc 0
  else if s.guard c then (f s).done
  else (Act.retire s).done

/-- The outcome of an instruction: always a next state. -/
abbrev Out := Host.Outcome State Fault Refusal

/-- An instruction of the core in focus as an outcome. -/
def State.go (s : State) (m : Modes) (ctl : Bool) (c : Guard) (f : State → Act) : Out := .next (s.exec m ctl c f)

/-- An event as an outcome: it acts when it is enabled, and changes nothing otherwise (log entry 1). -/
def State.event (s : State) (enabled : Bool) (s' : State) : Out := .next (if enabled then s' else s)

end Sys2Proof.Machine
end

