-- ==== Sys2Proof/Machine/Operands.lean ====
section
/-!
DEFINITION. The operand forms of the register instructions: immediates, W forms, shifts, comparison conditions,
destinations that are a g or a p register, and the whole-token forms with their format checks (R55 to R57, R70,
R346, R413).
-/
namespace Sys2Proof.Machine

/-! ### Scalar operands (R346) -/

/-- IMM32 or DISP32, sign-extended (R328, R329). -/
def simm (imm : BitVec 32) : Word := imm.signExtend 64

/-- The W form: the low 32 bits, sign-extended (R346). -/
def wForm (w : Bool) (x : Word) : Word := if w then (x.setWidth 32).signExtend 64 else x

/-- A comparison of two 64-bit values (R357, R327). -/
def condHolds (k : Cond) (a b : Word) : Bool :=
  match k with
  | .eq => a == b
  | .ne => a != b
  | .lt => a.slt b
  | .ge => b.sle a
  | .ltu => a.ult b
  | .geu => b.ule a

/-- The shift count of a register operand (R400). -/
def shiftCount (w : Bool) (b : Word) : Nat := b.toNat % (if w then 32 else 64)

/-- SHL, SHR and SAR of a value by a count below its width (R400). -/
def shlVal (w : Bool) (a : Word) (n : Nat) : Word := wForm w (a <<< n)
def shrVal (w : Bool) (a : Word) (n : Nat) : Word :=
  if w then ((a.setWidth 32) >>> n).signExtend 64 else a >>> n
def sarVal (w : Bool) (a : Word) (n : Nat) : Word :=
  if w then ((a.setWidth 32).sshiftRight n).signExtend 64 else a.sshiftRight n

/-- The larger and the smaller of two values (R381). -/
def maxVal (u : Bool) (a b : Word) : Word := if (if u then a.ult b else a.slt b) then b else a
def minVal (u : Bool) (a b : Word) : Word := if (if u then b.ult a else b.slt a) then b else a

/-- Bits [127:64] of the exact product (R383). -/
def mulhVal (u : Bool) (a b : Word) : Word :=
  if u then BitVec.ofNat 64 (a.toNat * b.toNat / 2 ^ 64) else BitVec.ofInt 64 ((a.toInt * b.toInt) / 2 ^ 64)

/-- The quotient of DIV for a nonzero divisor, truncated toward zero; -2^63 / -1 wraps (R365). -/
def divVal (u : Bool) (a b : Word) : Word :=
  if u then BitVec.ofNat 64 (a.toNat / b.toNat) else BitVec.ofInt 64 (Int.tdiv a.toInt b.toInt)

/-- The remainder of REM for a nonzero divisor (R394). -/
def remVal (u : Bool) (a b : Word) : Word := a - divVal u a b * b

/-- Leading zeros of a value (R356). -/
def clzVal (a : Word) : Word := BitVec.ofNat 64 (if a = 0 then 64 else 63 - a.toNat.log2)

/-- Bits set in a value (R389). -/
def popcVal (a : Word) : Word := BitVec.ofNat 64 ((List.range 64).countP fun i => a.getLsbD i)

/-- A bit field of width wm1 + 1 from lsb (R351). -/
def bextVal (sx : Bool) (a : Word) (lsb wm1 : Nat) : Word :=
  let f := a.extractLsb' lsb (wm1 + 1)
  if sx then f.signExtend 64 else f.setWidth 64

/-- A word with the bit field replaced (R351). -/
def binsVal (d a : Word) (lsb wm1 : Nat) : Word :=
  let m : Word := (BitVec.allOnes (wm1 + 1)).setWidth 64 <<< lsb
  (d &&& ~~~m) ||| ((a <<< lsb) &&& m)

/-- PLOG (R388). -/
def plogVal (op : PlogOp) (a b : Bool) : Bool :=
  match op with
  | .and => a && b
  | .or => a || b
  | .xor => a != b
  | .andn => a && !b

/-- A destination that is a g or a p register (R357). -/
def State.setGP (s : State) (d : GP) (b : Bool) : State :=
  match d with
  | .g r => s.setG r ((BitVec.ofBool b).setWidth 64)
  | .p r => s.setP r b

/-- A g register receives a value. -/
def State.retG (s : State) (d : GReg) (x : Word) : Act := .retire (s.setG d x)

/-! ### Format checks of token operands (R57) -/

/-- What an entry expects of a source. -/
inductive Want where
  | tag (f : Fmt)
  | set (l : Fmt → Bool)
  | typed
  | bitsOrUntyped
  | any

/-- The tag is accepted. -/
def Want.ok (w : Want) (t : BitVec 5) : Bool :=
  match w with
  | .tag f => t == f.tag
  | .set l => (Fmt.ofTag t).any l
  | .typed => t != 0
  | .bitsOrUntyped => t == Fmt.bits.tag || t == 0
  | .any => true

/-- The expected tag as EVAL reports it; 0x1F for a set (R57, R81). -/
def Want.code (w : Want) : BitVec 5 :=
  match w with
  | .tag f => f.tag
  | _ => 0x1F

/-- EVAL of FORMAT_TAG_MISMATCH: found, expected, field code (R57). -/
def mismatchEval (found expected : BitVec 5) (field : BitVec 6) : Word :=
  BitVec.ofNat 64 (found.toNat + expected.toNat * 2 ^ 8 + field.toNat * 2 ^ 16)

/-- The first mismatch among the v sources of an instruction, as EVAL. -/
def State.mismatch (s : State) : List (VReg × Want) → Option Word
  | [] => none
  | (r, w) :: rest =>
    if w.ok (s.v r).fmt then s.mismatch rest else some (mismatchEval (s.v r).fmt w.code (vCode r))

/-- The format of a token register; untyped counts as BITS where no entry reads it. -/
def Token.format (t : Token) : Fmt := (Fmt.ofTag t.fmt).getD .bits

/-- Lane i, its element only (R70). -/
def Token.lane (t : Token) (f : Fmt) (i : Nat) : Lane := BitVec.ofNat 32 ((laneOf t.lanes i).toNat % 2 ^ f.width)

/-- Lane i is valid. -/
def Token.ok (t : Token) (i : Nat) : Bool := t.valid.getLsbD i

/-! ### Result tokens (R56, R413) -/

/-- A result with the metadata of source A: lanes where valid holds, payload 0 elsewhere. -/
def Token.result (a : Token) (f : Fmt) (valid : Nat → Bool) (l : Nat → Lane) : Token :=
  { a with
    lanes := payloadOf (fun i => if valid i then l i else 0) 16
    valid := validOf valid 16
    fmt := f.tag }

/-- A result whose entry gives the lanes as they stand, valid or not (R417, R420, R427, R435; log entry 16). -/
def Token.moved (a : Token) (f : Fmt) (valid : Nat → Bool) (l : Nat → Lane) : Token :=
  { a with lanes := payloadOf l 16, valid := validOf valid 16, fmt := f.tag }

/-- A token with the metadata LR 0, LS 0, KIND DATA, TAG 0 (R417, R424). -/
def Token.fresh (f : Fmt) (valid : Nat → Bool) (l : Nat → Lane) : Token := Token.result {} f valid l

end Sys2Proof.Machine
end

