-- ==== Sys2Proof/Machine/Flags.lean ====
section
/-!
DEFINITION. The flags of FSTAT and the rounding mode of an instruction (R78 to R80): what a token instruction
merges when it retires, and the lane-wise shapes that all token arithmetic shares (R413).
-/
namespace Sys2Proof.Machine

/-- The mode of an instruction's rounding field, with FMODE as it stands at issue (R78). -/
def State.mode (s : State) (rm : Rm) : RMode := RMode.of rm s.core.fmode

/-- Flags of the valid lanes together (R413). -/
def laneFlags (valid : Nat → Bool) (f : Nat → Lane × BitVec 6) : Nat → BitVec 6
  | 0 => 0
  | n + 1 => laneFlags valid f n ||| (if valid n then (f n).2 else 0)

/-- A token instruction's end: the result is written and its flags are merged, unless a source has a wrong tag. -/
def State.token (s : State) (wants : List (VReg × Want)) (d : VReg) (r : Token) (fl : BitVec 6) : Act :=
  match s.mismatch wants with
  | some e => fault s cFormatTag e
  | none => .retire ((s.setV d r).flag fl)

/-- Lanes of a in one format, each changed by f (R415). -/
def State.lanes1 (s : State) (f : Fmt) (d a : VReg) (op : Lane → Lane × BitVec 6) : Act :=
  let x := s.v a
  let g i := op (x.lane f i)
  s.token [(a, .tag f)] d (x.result f x.ok fun i => (g i).1) (laneFlags x.ok g 16)

/-- Lanes of a and b together. -/
def State.lanes2 (s : State) (f : Fmt) (d a b : VReg) (op : Lane → Lane → Lane × BitVec 6) : Act :=
  let x := s.v a
  let y := s.v b
  let ok i := x.ok i && y.ok i
  let g i := op (x.lane f i) (y.lane f i)
  s.token [(a, .tag f), (b, .tag f)] d (x.result f ok fun i => (g i).1) (laneFlags ok g 16)

/-- Lanes of a, b and c together. -/
def State.lanes3 (s : State) (f : Fmt) (d a b c : VReg) (op : Lane → Lane → Lane → Lane × BitVec 6) : Act :=
  let x := s.v a
  let y := s.v b
  let z := s.v c
  let ok i := x.ok i && y.ok i && z.ok i
  let g i := op (x.lane f i) (y.lane f i) (z.lane f i)
  s.token [(a, .tag f), (b, .tag f), (c, .tag f)] d (x.result f ok fun i => (g i).1) (laneFlags ok g 16)

end Sys2Proof.Machine
end

