-- ==== Sys2Proof/Machine/Alu.lean ====
section
/-!
DEFINITION. The ALU and ALUI groups (R326 to R328, R346): register arithmetic at every privilege level, no memory,
no flag. Each instruction has its operation, which REP repeats with stepped registers (R67), and its meaning.
-/
namespace Sys2Proof.Machine

/-- ADD (R347). -/
def addOp (w : Bool) (d a b : GReg) (s : State) : Act := s.retG d (wForm w (s.g a + s.g b))
def execAdd (c : Guard) (w : Bool) (d a b : GReg) (s : State) : Out := s.go .all false c (addOp w d a b)

/-- ADD with an immediate (R347). -/
def addImmOp (w : Bool) (d a : GReg) (imm : BitVec 32) (s : State) : Act := s.retG d (wForm w (s.g a + simm imm))
def execAddImm (c : Guard) (w : Bool) (d a : GReg) (imm : BitVec 32) (s : State) : Out :=
  s.go .all false c (addImmOp w d a imm)

/-- SUB (R408). -/
def subOp (w : Bool) (d a b : GReg) (s : State) : Act := s.retG d (wForm w (s.g a - s.g b))
def execSub (c : Guard) (w : Bool) (d a b : GReg) (s : State) : Out := s.go .all false c (subOp w d a b)

/-- MUL (R383). -/
def mulOp (w : Bool) (d a b : GReg) (s : State) : Act := s.retG d (wForm w (s.g a * s.g b))
def execMul (c : Guard) (w : Bool) (d a b : GReg) (s : State) : Out := s.go .all false c (mulOp w d a b)

/-- MULH (R383). -/
def mulhOp (u : Bool) (d a b : GReg) (s : State) : Act := s.retG d (mulhVal u (s.g a) (s.g b))
def execMulh (c : Guard) (u : Bool) (d a b : GReg) (s : State) : Out := s.go .all false c (mulhOp u d a b)

/-- DIV (R365). -/
def divOp (u : Bool) (d a b : GReg) (s : State) : Act :=
  if s.g b = 0 then fault s cDivideByZero 0 else s.retG d (divVal u (s.g a) (s.g b))
def execDiv (c : Guard) (u : Bool) (d a b : GReg) (s : State) : Out := s.go .all false c (divOp u d a b)

/-- REM (R394). -/
def remOp (u : Bool) (d a b : GReg) (s : State) : Act :=
  if s.g b = 0 then fault s cDivideByZero 0 else s.retG d (remVal u (s.g a) (s.g b))
def execRem (c : Guard) (u : Bool) (d a b : GReg) (s : State) : Out := s.go .all false c (remOp u d a b)

/-- AND (R348). -/
def andOp (d a b : GReg) (s : State) : Act := s.retG d (s.g a &&& s.g b)
def execAnd (c : Guard) (d a b : GReg) (s : State) : Out := s.go .all false c (andOp d a b)

/-- AND with an immediate (R348). -/
def andImmOp (d a : GReg) (imm : BitVec 32) (s : State) : Act := s.retG d (s.g a &&& simm imm)
def execAndImm (c : Guard) (d a : GReg) (imm : BitVec 32) (s : State) : Out := s.go .all false c (andImmOp d a imm)

/-- ANDN (R348). -/
def andnOp (d a b : GReg) (s : State) : Act := s.retG d (s.g a &&& ~~~(s.g b))
def execAndn (c : Guard) (d a b : GReg) (s : State) : Out := s.go .all false c (andnOp d a b)

/-- OR (R384). -/
def orOp (d a b : GReg) (s : State) : Act := s.retG d (s.g a ||| s.g b)
def execOr (c : Guard) (d a b : GReg) (s : State) : Out := s.go .all false c (orOp d a b)

/-- OR with an immediate (R384). -/
def orImmOp (d a : GReg) (imm : BitVec 32) (s : State) : Act := s.retG d (s.g a ||| simm imm)
def execOrImm (c : Guard) (d a : GReg) (imm : BitVec 32) (s : State) : Out := s.go .all false c (orImmOp d a imm)

/-- XOR (R440). -/
def xorOp (d a b : GReg) (s : State) : Act := s.retG d (s.g a ^^^ s.g b)
def execXor (c : Guard) (d a b : GReg) (s : State) : Out := s.go .all false c (xorOp d a b)

/-- XOR with an immediate (R440). -/
def xorImmOp (d a : GReg) (imm : BitVec 32) (s : State) : Act := s.retG d (s.g a ^^^ simm imm)
def execXorImm (c : Guard) (d a : GReg) (imm : BitVec 32) (s : State) : Out := s.go .all false c (xorImmOp d a imm)

/-- SHL (R400). -/
def shlOp (w : Bool) (d a b : GReg) (s : State) : Act := s.retG d (shlVal w (s.g a) (shiftCount w (s.g b)))
def execShl (c : Guard) (w : Bool) (d a b : GReg) (s : State) : Out := s.go .all false c (shlOp w d a b)

/-- SHL with an immediate (R400). -/
def shlImmOp (w : Bool) (d a : GReg) (n : BitVec 6) (s : State) : Act := s.retG d (shlVal w (s.g a) n.toNat)
def execShlImm (c : Guard) (w : Bool) (d a : GReg) (n : BitVec 6) (s : State) : Out :=
  s.go .all false c (shlImmOp w d a n)

/-- SHR (R400). -/
def shrOp (w : Bool) (d a b : GReg) (s : State) : Act := s.retG d (shrVal w (s.g a) (shiftCount w (s.g b)))
def execShr (c : Guard) (w : Bool) (d a b : GReg) (s : State) : Out := s.go .all false c (shrOp w d a b)

/-- SHR with an immediate (R400). -/
def shrImmOp (w : Bool) (d a : GReg) (n : BitVec 6) (s : State) : Act := s.retG d (shrVal w (s.g a) n.toNat)
def execShrImm (c : Guard) (w : Bool) (d a : GReg) (n : BitVec 6) (s : State) : Out :=
  s.go .all false c (shrImmOp w d a n)

/-- SAR (R400). -/
def sarOp (w : Bool) (d a b : GReg) (s : State) : Act := s.retG d (sarVal w (s.g a) (shiftCount w (s.g b)))
def execSar (c : Guard) (w : Bool) (d a b : GReg) (s : State) : Out := s.go .all false c (sarOp w d a b)

/-- SAR with an immediate (R400). -/
def sarImmOp (w : Bool) (d a : GReg) (n : BitVec 6) (s : State) : Act := s.retG d (sarVal w (s.g a) n.toNat)
def execSarImm (c : Guard) (w : Bool) (d a : GReg) (n : BitVec 6) (s : State) : Out :=
  s.go .all false c (sarImmOp w d a n)

/-- MIN (R381). -/
def minOp (u : Bool) (d a b : GReg) (s : State) : Act := s.retG d (minVal u (s.g a) (s.g b))
def execMin (c : Guard) (u : Bool) (d a b : GReg) (s : State) : Out := s.go .all false c (minOp u d a b)

/-- MIN with an immediate (R381). -/
def minImmOp (u : Bool) (d a : GReg) (imm : BitVec 32) (s : State) : Act := s.retG d (minVal u (s.g a) (simm imm))
def execMinImm (c : Guard) (u : Bool) (d a : GReg) (imm : BitVec 32) (s : State) : Out :=
  s.go .all false c (minImmOp u d a imm)

/-- MAX (R381). -/
def maxOp (u : Bool) (d a b : GReg) (s : State) : Act := s.retG d (maxVal u (s.g a) (s.g b))
def execMax (c : Guard) (u : Bool) (d a b : GReg) (s : State) : Out := s.go .all false c (maxOp u d a b)

/-- MAX with an immediate (R381). -/
def maxImmOp (u : Bool) (d a : GReg) (imm : BitVec 32) (s : State) : Act := s.retG d (maxVal u (s.g a) (simm imm))
def execMaxImm (c : Guard) (u : Bool) (d a : GReg) (imm : BitVec 32) (s : State) : Out :=
  s.go .all false c (maxImmOp u d a imm)

/-- CMP (R357). -/
def cmpOp (k : Cond) (d : GP) (a b : GReg) (s : State) : Act := .retire (s.setGP d (condHolds k (s.g a) (s.g b)))
def execCmp (c : Guard) (k : Cond) (d : GP) (a b : GReg) (s : State) : Out := s.go .all false c (cmpOp k d a b)

/-- CMP with an immediate (R357). -/
def cmpImmOp (k : Cond) (d : GP) (a : GReg) (imm : BitVec 32) (s : State) : Act :=
  .retire (s.setGP d (condHolds k (s.g a) (simm imm)))
def execCmpImm (c : Guard) (k : Cond) (d : GP) (a : GReg) (imm : BitVec 32) (s : State) : Out :=
  s.go .all false c (cmpImmOp k d a imm)

/-- SEL (R402). -/
def selOp (d a b : GReg) (p : PReg) (s : State) : Act := s.retG d (if s.p p then s.g a else s.g b)
def execSel (c : Guard) (d a b : GReg) (p : PReg) (s : State) : Out := s.go .all false c (selOp d a b p)

/-- CLZ (R356). -/
def clzOp (d a : GReg) (s : State) : Act := s.retG d (clzVal (s.g a))
def execClz (c : Guard) (d a : GReg) (s : State) : Out := s.go .all false c (clzOp d a)

/-- POPC (R389). -/
def popcOp (d a : GReg) (s : State) : Act := s.retG d (popcVal (s.g a))
def execPopc (c : Guard) (d a : GReg) (s : State) : Out := s.go .all false c (popcOp d a)

/-- BEXT (R351). -/
def bextOp (sx : Bool) (d a : GReg) (lsb wm1 : BitVec 6) (s : State) : Act :=
  s.retG d (bextVal sx (s.g a) lsb.toNat wm1.toNat)
def execBext (c : Guard) (sx : Bool) (d a : GReg) (lsb wm1 : BitVec 6) (s : State) : Out :=
  s.go .all false c (bextOp sx d a lsb wm1)

/-- BINS (R351); it reads its destination. -/
def binsOp (d a : GReg) (lsb wm1 : BitVec 6) (s : State) : Act :=
  s.retG d (binsVal (s.g d) (s.g a) lsb.toNat wm1.toNat)
def execBins (c : Guard) (d a : GReg) (lsb wm1 : BitVec 6) (s : State) : Out := s.go .all false c (binsOp d a lsb wm1)

/-- PLOG (R388). -/
def plogOp (op : PlogOp) (d a b : PReg) (s : State) : Act := .retire (s.setP d (plogVal op (s.p a) (s.p b)))
def execPlog (c : Guard) (op : PlogOp) (d a b : PReg) (s : State) : Out := s.go .all false c (plogOp op d a b)

/-- MOVI (R382). -/
def moviOp (d : GReg) (imm : BitVec 32) (s : State) : Act := s.retG d (simm imm)
def execMovi (c : Guard) (d : GReg) (imm : BitVec 32) (s : State) : Out := s.go .all false c (moviOp d imm)

/-- MOVHI (R382); it reads its destination. -/
def movhiOp (d : GReg) (imm : BitVec 32) (s : State) : Act := s.retG d (imm ++ (s.g d).setWidth 32)
def execMovhi (c : Guard) (d : GReg) (imm : BitVec 32) (s : State) : Out := s.go .all false c (movhiOp d imm)

/-- NOP, the all-zero word ADD g0, g0, g0 (R347). -/
def nopOp (s : State) : Act := .retire s
def execNop (s : State) : Out := s.go .all false ⟨0, false⟩ nopOp

end Sys2Proof.Machine
end

