-- ==== Sys2Proof/Machine/Mem.lean ====
section
/-!
DEFINITION. Device memory as accesses meet it: homes and physical ranges (R182 to R187), the two-stage walk with its
checks in order (R189 to R195), translation caches (R196), share windows (R272), and what a write does at its home:
the bytes, the counters above the block (R266 to R268), and the sleepers it may wake (R224).
-/
namespace Sys2Proof.Machine

/-! ### Homes (R184 to R187, R204) -/

/-- The home of an access. -/
inductive Home where
  | hbm (stack channel : Nat)
  | felt (die bank : Nat)
  | store (tile bank : Nat)
  | slots (tile : Nat)
  | host
  | io
  deriving DecidableEq, Repr

/-- Global stack and channel of an HBM address (R184). -/
def stackOf (pa : Nat) : Nat × Nat :=
  let u := pa / 2048
  let q := u / 32
  let f k := q / 2 ^ (5 * k) % 32
  (4 * (u % 8) + u / 8 % 4, f 0 ^^^ f 1 ^^^ f 2 ^^^ f 3 ^^^ f 4)

/-- Tile number and offset of a tile-window address; service cores follow the tiles. -/
def tileOfPa (pa : Nat) : Nat × Nat :=
  ((pa - Config.tileBase) / Config.windowSize, (pa - Config.tileBase) % Config.windowSize)

/-- First physical address of a tile's window (R182). -/
def windowPa (t : Nat) : Nat := Config.tileBase + t * Config.windowSize

/-- A tile-window address (R182). -/
def isTilePa (pa : Nat) : Bool := decide (Config.tileBase ≤ pa) && decide (pa < Config.hostBase)

def homeOf (pa : Nat) : Home :=
  if pa < Config.feltBase then .hbm (stackOf pa).1 (stackOf pa).2
  else if pa < Config.tileBase then
    .felt ((pa - Config.feltBase) / 2 ^ 30) ((pa - Config.feltBase) % 2 ^ 30 / 64 % 256)
  else if pa < Config.hostBase then
    let (t, o) := tileOfPa pa
    if o < Config.tileStore then .store t (o / 0x10000) else .slots t
  else if pa < Config.ioBase then .host
  else .io

/-- The tile of a home, when it has one. -/
def Home.tile : Home → Option Nat
  | .store t _ => some t
  | .slots t => some t
  | _ => none

/-- Place of an HBM home on the SC ring (R204). -/
def Home.ring : Home → Option Nat
  | .hbm s c => some (32 * s + c)
  | _ => none

/-! ### Physical ranges by KIND (R182, R281) -/

/-- Offsets of the I/O die range that hold something (R281). -/
def ioMapped (pa : Nat) : Bool :=
  let o := pa - Config.ioBase
  decide (o < 33 * 0x10000) || (decide (0x1000000 ≤ o) && decide (o < 0x1000000 + 33 * 0x1000)) ||
  (decide (0x2000000 ≤ o) && decide (o < 0x2000000 + 33 * 0x100) && decide ((o - 0x2000000) % 0x100 < 0x88)) ||
  (decide (0x3000000 ≤ o) && decide (o < 0x3000000 + 0x8000)) ||
  (decide (0x5000000 ≤ o) && decide (o < 0x5001000))

/-- n bytes at an address of the I/O die range, inside a block, all lie in what holds something (R281). -/
def ioFits (pa n : Nat) : Bool := (List.range n).all fun i => ioMapped (pa + i)

/-- A physical address lies in the range of a KIND. -/
def kindHas (kind pa : Nat) : Bool :=
  match kind with
  | 0 => decide (pa < Config.hbmSize)
  | 1 => decide (Config.feltBase ≤ pa) && decide (pa < Config.feltBase + 8 * 2 ^ 30)
  | 2 => decide (Config.hostBase ≤ pa) && decide (pa < Config.hostBase + 2 ^ 40)
  | 3 => (decide (Config.tileBase ≤ pa) && decide (pa < windowPa Config.tiles)) ||
    (decide (Config.ioBase ≤ pa) && ioMapped pa)
  | _ => false

/-- The 128 KiB granule of an HBM address (R183). -/
def granuleOf (pa : Nat) : Nat := pa / 0x20000

/-! ### Counters above a block (R265 to R268) -/

/-- Stack and block index of an HBM address within its stack (R265). -/
def blockOf (pa : Nat) : Nat × Nat := ((stackOf pa).1, (pa / 2048 / 32 * 2048 + pa % 2048) / 64)

/-- The counter block of a level: zero where nothing has been written. -/
def counterAt (l : List ((Nat × Nat × Nat) × (Word × BitVec 448))) (k : Nat × Nat × Nat) : Word × BitVec 448 :=
  match l.find? fun x => x.1 == k with
  | some x => x.2
  | none => (0, 0)

/-- A counter block after its minor i counts once more; the flag says that the minor passed 127 (R268). -/
def countUp (c : Word × BitVec 448) (i : Nat) : (Word × BitVec 448) × Bool :=
  let m := (c.2.extractLsb' (7 * i) 7).toNat
  if m = 127 then ((c.1 + 1, 0), true) else ((c.1, c.2 + ((1 : BitVec 448) <<< (7 * i))), false)

/-- The counters of the levels from l up after a write below block b (R266, R267). -/
def countLevels (stack : Nat) (cs : List ((Nat × Nat × Nat) × (Word × BitVec 448))) (l b : Nat) :
    Nat → List ((Nat × Nat × Nat) × (Word × BitVec 448))
  | 0 => cs
  | n + 1 =>
    let k := (stack, l, b / 64)
    let c := countUp (counterAt cs k) (b % 64)
    countLevels stack ((k, c.1) :: cs.filter fun x => x.1 != k) (l + 1) (b / 64) n

/-- A write of an HBM block counts in its leaf and in every level above; a minor that passes 127 starts the
re-encryption of its leaf (R267, R268). A write of the device itself that meets a re-encryption waits for it within its
move, which ends that of this one leaf (log entry 80). -/
def State.seal (s : State) (pa : Nat) : State :=
  if pa < Config.hbmSize then
    let (stack, b) := blockOf pa
    let spill := (countUp (counterAt s.counters (stack, 0, b / 64)) (b % 64)).2
    { s with
      counters := countLevels stack s.counters 0 b 5
      recrypt := (if spill then [(stack, b / 64)] else []) ++ s.recrypt.filter fun x => x != (stack, b / 64) }
  else s

/-- The leaf of an address is being re-encrypted (R268). -/
def State.stalled (s : State) (pa : Nat) : Bool :=
  decide (pa < Config.hbmSize) && s.recrypt.contains ((blockOf pa).1, (blockOf pa).2 / 64)

/-- A block of n bytes at an address is being re-encrypted (R268). -/
def State.anyStalled (s : State) (pa n : Nat) : Bool :=
  !s.recrypt.isEmpty && (List.range ((pa % 64 + n + 63) / 64)).any fun i => s.stalled (pa + 64 * i)

/-- A counter block on the path of an address fails verification; the root is never in DRAM (R266, R267). -/
def State.ctrBad (s : State) (pa : Nat) : Bool :=
  decide (pa < Config.hbmSize) && (List.range 4).any fun l => s.badCtr.contains ((blockOf pa).1, l, (blockOf pa).2 / 64 ^ (l + 1))

/-- Verification of the block of an address fails (R270). -/
def State.isBad (s : State) (pa : Nat) : Bool := s.bad.contains (pa / 64) || s.ctrBad pa

/-- A block of n bytes at an address fails verification (R270). -/
def State.anyBad (s : State) (pa n : Nat) : Bool :=
  !(s.bad.isEmpty && s.badCtr.isEmpty) && (List.range ((pa % 64 + n + 63) / 64)).any fun i => s.isBad (pa + 64 * i)

/-- A write to the block of an address meets a failure: one that covers the block verifies its counters only (R267). -/
def State.writeBad (s : State) (pa : Nat) (covers : Bool) : Bool := if covers then s.ctrBad pa else s.isBad pa

/-! ### Writes -/

/-- A write at its home: only the masked bits change; the block's counters move; a block written whole verifies
again (R267); sleepers look (R224). -/
def State.commit (s : State) (pa n x mask : Nat) : State :=
  let s1 : State := { s with
    mem := Memory.write s.mem pa n x mask
    bad := if n = 64 && mask == fullMask 64 then s.bad.filter fun b => b != pa / 64 else s.bad }
  (s1.seal pa).wake pa n

/-! ### Page tables (R189 to R195) -/

/-- What an access asks of a leaf. -/
inductive Use where
  | read | write | atomic | fetch
  deriving DecidableEq, Repr

/-- Why an access cannot go on: a fault with EVAL the VA, or a window that is being re-keyed. -/
inductive Miss where
  | fault (cause : BitVec 8)
  | wait
  deriving DecidableEq, Repr

/-- A leaf and the physical address of its entry. -/
structure Leaf where
  w : Word
  loc : Nat
  deriving DecidableEq, Repr

/-- Page size of an SZ code, and the level at which it stands (R192). -/
def pageSize (sz : Nat) : Nat :=
  [2 ^ 12, 2 ^ 14, 2 ^ 16, 2 ^ 18, 2 ^ 20, 2 ^ 21, 2 ^ 22, 2 ^ 24, 2 ^ 26, 2 ^ 28, 2 ^ 30, 2 ^ 32].getD sz 1
def pageLevel (sz : Nat) : Nat := if sz < 5 then 0 else if sz < 10 then 1 else if sz < 12 then 2 else 9

def Leaf.size (l : Leaf) : Nat := pageSize (bits l.w 48 4)
def Leaf.base (l : Leaf) : Nat := bits l.w 12 36 * 4096
def Leaf.kind (l : Leaf) : Nat := bits l.w 10 2
def Leaf.ord (l : Leaf) : Nat := bits l.w 8 2
def Leaf.win (l : Leaf) : Nat := bits l.w 52 7

/-- The output address of an input address in the leaf's page (R193). -/
def Leaf.out (l : Leaf) (inp : Nat) : Nat := l.base + inp % l.size

/-- Table rows 2 and 3 of R191 for an entry with V set. -/
def entryOk (s1 : Bool) (lvl : Nat) (w : Word) : Bool :=
  if w.getLsbD 1 then lvl != 0 && bits w 48 16 == 0 && bits w 2 10 == 0
  else
    let sz := bits w 48 4
    pageLevel sz == lvl && bits w 12 36 * 4096 % pageSize sz == 0 && bits w 59 4 == 0 && (!s1 || bits w 52 7 == 0)

/-- One stage of a walk from a table at level n - 1. The reader turns a table address into a physical one, with the
entries whose A bit the walk sets. -/
def State.walk (s : State) (rd : Nat → Except Miss (Nat × List (Nat × Nat))) (bad : BitVec 8) (s1 : Bool) (inp : Nat) :
    Nat → Nat → Except Miss (Leaf × List (Nat × Nat))
  | 0, _ => .error (.fault bad)
  | l + 1, base =>
    match rd (base + 8 * (inp / 2 ^ (12 + 9 * l) % 512)) with
    | .error e => .error e
    | .ok (pa, u) =>
      if s.stalled pa then .error .wait
      else if s.isBad pa then .error (.fault cIntegrity)
      else
        let w := BitVec.ofNat 64 (s.rd pa 8)
        if !w.getLsbD 0 || !entryOk s1 l w then .error (.fault bad)
        else if w.getLsbD 1 then
          match s.walk rd bad s1 inp l (bits w 12 36 * 4096) with
          | .error e => .error e
          | .ok (x, u2) => .ok (x, u ++ u2)
        else if bits w 8 2 = 3 then .error (.fault cOrderKind)
        else .ok (⟨w, pa⟩, u)

/-- R, W and X of a leaf allow the use (R191). -/
def rwxOk (w : Word) (u : Use) : Bool :=
  match u with
  | .read => w.getLsbD 2
  | .write => w.getLsbD 3
  | .atomic => w.getLsbD 2 && w.getLsbD 3
  | .fetch => w.getLsbD 4

def Use.writes : Use → Bool
  | .write | .atomic => true
  | _ => false

/-- The window table and the other window rules for an access of a VD (R272); none when it may go on. -/
def State.windowCheck (s : State) (vd win pa : Nat) (u : Use) (ord : Nat) : Option Miss :=
  let g := granuleOf pa
  if win = 0 then
    -- an access with WIN 0 to a granule that some window holds
    match s.wins.toList.find? fun x => x.granules.contains g &&
        decide (x.st ∉ [WinState.free, .offered, .accepted]) with
    | none => none
    | some x => if x.st = .closed && x.owner = vd then none else some (.fault cWindow)
  else
    let x := s.wins.toList.getD win {}
    let ready : Option Miss :=
      match x.st with
      | .free | .offered | .accepted => some (.fault cWindow)
      | .installing => if x.rekeyed.contains g then none else some .wait
      | .live => none
      | .closing => if vd ≠ x.owner then some (.fault cWindow) else if x.rekeyed.contains g then none else some .wait
      | .closed => if vd = x.owner then none else some (.fault cWindow)
    if (vd ≠ x.owner && vd ≠ x.peer) || !x.granules.contains g || (vd = x.peer && u.writes && !x.w) then
      some (.fault cWindow)
    else match ready with
      | some e => some e
      | none => if ord ≠ 1 then some (.fault cOrderKind) else none

/-- The physical checks of R183 and R269, then the window rules (R341 steps 5 and 6). -/
def State.physCheck (s : State) (vd kind win pa : Nat) (u : Use) (ord : Nat) : Option Miss :=
  if !kindHas kind pa || 97 ≤ win then some (.fault cStage2Translation)
  else if kind = 0 && win = 0 && !(s.vd vd).hbm.contains (granuleOf pa) then some (.fault cStage2Permission)
  else if kind = 1 && !(s.vd vd).felt.contains ((pa - Config.feltBase) / 0x200000) then
    some (.fault cStage2Permission)
  else if kind = 3 && decide (pa < Config.hostBase) && !(s.vd vd).owns (tileOfPa pa).1 then
    some (.fault cStage2Permission)
  else if kind = 0 then s.windowCheck vd win pa u ord
  else if win ≠ 0 then some (.fault cWindow)
  else none

/-- The stage-2 leaf of a VD-physical address, with the checks of one stage (R189, R191, R234). -/
def State.stage2 (s : State) (vd inp : Nat) (u : Use) : Except Miss Leaf :=
  let root := (s.vd vd).s2root
  if !root.getLsbD 0 || 2 ^ 48 ≤ inp then .error (.fault cStage2Translation)
  else match s.walk (fun a => .ok (a, [])) cStage2Translation false inp 4 (bits root 12 36 * 4096) with
    | .error e => .error e
    | .ok (l, _) => if rwxOk l.w u then .ok l else .error (.fault cStage2Permission)

/-- A stage-1 table read through stage 2 (R189). -/
def State.tableRead (s : State) (vd ipa : Nat) : Except Miss (Nat × List (Nat × Nat)) :=
  match s.stage2 vd ipa .read with
  | .error e => .error e
  | .ok l =>
    if l.kind ≠ 0 then .error (.fault cStage2Permission)
    else match s.physCheck vd 0 l.win (l.out ipa) .read l.ord with
      | some e => .error e
      | none => .ok (l.out ipa, [(l.loc, 0x40)])

/-- Both stages of a walk with their checks in the order of R191, and the A and D bits it sets (R195). The
address is canonical. -/
def State.walk2 (s : State) (vd : Nat) (user : Bool) (u : Use) (va : Word) : Except Miss (Tlb × List (Nat × Nat)) :=
  let root := (s.vd vd).s1root
  let had := (s.vd vd).tlbctl.getLsbD 0
  let inp := va.toNat % 2 ^ 48
  if !root.getLsbD 0 then .error (.fault cTranslation)
  else match s.walk (s.tableRead vd) cTranslation true inp 4 (bits root 12 36 * 4096) with
    | .error e => .error e
    | .ok (l, ups) =>
      if !rwxOk l.w u || (if user then !l.w.getLsbD 5 else l.w.getLsbD 5 && u != .fetch) ||
          (!had && (!l.w.getLsbD 6 || (u.writes && !l.w.getLsbD 7))) then .error (.fault cPermission)
      else
        let ipa := l.out inp
        match s.stage2 vd ipa u with
        | .error e => .error e
        | .ok m =>
          if l.kind ≠ m.kind then .error (.fault cPermission)
          else
            let size := min l.size m.size
            let set := if u.writes then 0xC0 else 0x40
            .ok ({
              vd := vd, user := l.w.getLsbD 5, vpage := inp - inp % size, size := size
              ppage := m.out ipa - inp % size
              vbase := inp - inp % l.size, vsize := l.size, ibase := ipa - ipa % m.size, isize := m.size
              rwx := BitVec.ofNat 3 (bits (l.w &&& m.w) 2 3), kind := BitVec.ofNat 2 m.kind
              ord := BitVec.ofNat 2 (min l.ord m.ord), nc := l.w.getLsbD 63 || m.w.getLsbD 63, win := m.win
              dirty := (u.writes || m.w.getLsbD 7) && (l.w.getLsbD 7 || (had && u.writes)) },
              ups ++ (if had then [(l.loc, set)] else []) ++ [(m.loc, set)])

/-- The A and D bits of a walk are set in their entries (R195). -/
def State.setBits (s : State) : List (Nat × Nat) → State
  | [] => s
  | (pa, b) :: r =>
    let old := s.rd pa 1
    (if old ||| b = old then s else s.commit pa 1 (old ||| b) 255).setBits r

/-- A cached translation serves an access (R195, R196). -/
def Tlb.serves (x : Tlb) (vd : Nat) (user : Bool) (u : Use) (va : Word) : Bool :=
  let inp := va.toNat % 2 ^ 48
  x.vd == vd && decide (x.vpage ≤ inp) && decide (inp < x.vpage + x.size) &&
  (match u with
   | .read => x.rwx.getLsbD 0
   | .write => x.rwx.getLsbD 1 && x.dirty
   | .atomic => x.rwx.getLsbD 0 && x.rwx.getLsbD 1 && x.dirty
   | .fetch => x.rwx.getLsbD 2) &&
  (if user then x.user else !x.user || u == .fetch)

/-- Physical address of a VA under a cached translation. -/
def Tlb.pa (x : Tlb) (va : Word) : Nat := x.ppage + (va.toNat % 2 ^ 48 - x.vpage)

/-- A new translation replaces those that it overlaps. -/
def tlbInsert (l : List Tlb) (x : Tlb) : List Tlb :=
  x :: l.filter fun y => y.vd != x.vd || decide (y.vpage + y.size ≤ x.vpage) || decide (x.vpage + x.size ≤ y.vpage)

/-- Whose access is translated: the tile whose TLB is used, its VD, and whether the checks of U apply. -/
structure Asker where
  tile : Nat
  vd : Nat
  user : Bool
  h : Bool := false
  deriving DecidableEq, Repr

/-- Where an access goes: physical address, effective ORD, KIND and window. -/
structure Spot where
  pa : Nat
  ord : BitVec 2
  kind : Nat
  win : Nat
  page : Nat          -- VA from which the translation holds, and its size
  size : Nat
  deriving DecidableEq, Repr

/-- The bits [63:47] of an address are all equal (R341 step 1). -/
def canonical (va : Word) : Bool := (va.setWidth 48).signExtend 64 == va

/-- Translation outside the local window (R341 steps 4 to 6), installing what it walked (R195, R196). -/
def State.translate (s : State) (k : Asker) (u : Use) (va : Word) : Except Miss (Spot × State) :=
  if k.h then
    -- H's own mappings: log entry 6
    match Config.hMap k.tile va with
    | none => .error (.fault cTranslation)
    | some p =>
      let pa := p.toNat
      let kind := if pa < Config.feltBase then 0 else if pa < Config.tileBase then 1 else
        if decide (Config.hostBase ≤ pa) && decide (pa < Config.ioBase) then 2 else 3
      if kindHas kind pa then .ok (⟨pa, 1, kind, 0, va.toNat % 2 ^ 48, 1⟩, s) else .error (.fault cStage2Translation)
  else
    let finish (x : Tlb) (s : State) : Except Miss (Spot × State) :=
      match s.physCheck k.vd x.kind.toNat x.win (x.pa va) u x.ord.toNat with
      | some e => .error e
      | none => .ok (⟨x.pa va, x.ord, x.kind.toNat, x.win, x.vpage, x.size⟩, s)
    match (s.tileAt k.tile).core.tlb.find? fun x => x.serves k.vd k.user u va with
    | some x => finish x s
    | none =>
      match s.walk2 k.vd k.user u va with
      | .error e => .error e
      | .ok (x, ups) =>
        match finish x s with
        | .error e => .error e
        | .ok (p, s) => .ok (p, (s.setBits ups).updCore k.tile fun c => { c with tlb := tlbInsert c.tlb x })

end Sys2Proof.Machine
end

