-- ==== Sys2Proof/Machine/Issue.lean ====
section
/-!
DEFINITION. How a core comes to its instruction: fetch through its instruction cache (R61, R258, R315).
-/
namespace Sys2Proof.Machine

/-! ### Fetch (R61, R315) -/

/-- The core in focus checks its fetches as U mode (R258). -/
def Core.fetchUser (c : Core) : Bool := c.lvl == .u && !c.inH

/-- The VD of the task on a core; 32 stands for H. -/
def Core.vd (c : Core) : Nat :=
  match c.task with
  | some k => k.vd
  | none => Config.vds

/-- Offset in the local window (R58). -/
def localOff (va : Word) : Option Nat :=
  if Config.localBase ≤ va.toNat && va.toNat < Config.localBase + Config.windowSize then
    some (va.toNat - Config.localBase) else none

/-- Physical address of an offset of the local window; the service SRAM of a service core is the first MiB of the
I/O die resources (R281). -/
def localPa (t off : Nat) : Nat :=
  if Config.tiles ≤ t && off < Config.tileStore then Config.ioBase + off else windowPa t + off

/-- What a fetch brings. -/
inductive Fetched where
  | word (w : Word) (s : State)
  | fault (cause : BitVec 8)
  | wait

/-- The word at an address of the core in focus: from the instruction cache, else from memory, which fills the
cache. -/
def State.fetch (s : State) (pc : Word) : Fetched :=
  let c := s.core
  match c.icache.find? fun x => x.1 == pc && x.2.1 == c.fetchUser with
  | some x => .word x.2.2 s
  | none =>
    let fill (pa : Nat) (s : State) : Fetched :=
      let w := BitVec.ofNat 64 (s.rd pa 8)
      .word w (s.setCore { s.core with icache := (pc, c.fetchUser, w) :: s.core.icache })
    match localOff pc with
    | some off => if off < Config.tileStore then fill (localPa s.cur off) s else .fault cPermission
    | none =>
      if !canonical pc then .fault cTranslation
      else match s.translate ⟨s.cur, c.vd, c.fetchUser, c.lvl == .h⟩ .fetch pc with
        | .error .wait => .wait
        | .error (.fault e) => .fault e
        | .ok (p, s) =>
          if 2 ≤ p.kind then .fault cPermission
          else if s.isBad p.pa then .fault cIntegrity
          else if s.stalled p.pa then .wait
          else fill p.pa s

end Sys2Proof.Machine
end

