-- ==== Sys2Proof/Machine/Valu.lean ====
section
/-!
DEFINITION. The VALU group (R334, R413 to R418, R435): token arithmetic, lane by lane, with one rounding (R414).
-/
namespace Sys2Proof.Machine

/-- VADD (R415). -/
def vaddOp (f : Fmt) (rm : Rm) (d a b : VReg) (s : State) : Act := s.lanes2 f d a b (addLane f (s.mode rm))
def execVadd (c : Guard) (f : Fmt) (rm : Rm) (d a b : VReg) (s : State) : Out := s.go .all false c (vaddOp f rm d a b)

/-- VSUB (R415). -/
def vsubOp (f : Fmt) (rm : Rm) (d a b : VReg) (s : State) : Act := s.lanes2 f d a b (subLane f (s.mode rm))
def execVsub (c : Guard) (f : Fmt) (rm : Rm) (d a b : VReg) (s : State) : Out := s.go .all false c (vsubOp f rm d a b)

/-- VMUL (R415). -/
def vmulOp (f : Fmt) (rm : Rm) (d a b : VReg) (s : State) : Act := s.lanes2 f d a b (mulLane f (s.mode rm))
def execVmul (c : Guard) (f : Fmt) (rm : Rm) (d a b : VReg) (s : State) : Out := s.go .all false c (vmulOp f rm d a b)

/-- VFMA (R415), one rounding. -/
def vfmaOp (f : Fmt) (rm : Rm) (d a b e : VReg) (s : State) : Act := s.lanes3 f d a b e (fmaLane f (s.mode rm))
def execVfma (c : Guard) (f : Fmt) (rm : Rm) (d a b e : VReg) (s : State) : Out :=
  s.go .all false c (vfmaOp f rm d a b e)

/-- VMAX (R415). -/
def vmaxOp (f : Fmt) (d a b : VReg) (s : State) : Act := s.lanes2 f d a b (pickLane f true)
def execVmax (c : Guard) (f : Fmt) (d a b : VReg) (s : State) : Out := s.go .all false c (vmaxOp f d a b)

/-- VMIN (R415). -/
def vminOp (f : Fmt) (d a b : VReg) (s : State) : Act := s.lanes2 f d a b (pickLane f false)
def execVmin (c : Guard) (f : Fmt) (d a b : VReg) (s : State) : Out := s.go .all false c (vminOp f d a b)

/-- VABS (R415). -/
def vabsOp (f : Fmt) (d a : VReg) (s : State) : Act := s.lanes1 f d a (absLane f)
def execVabs (c : Guard) (f : Fmt) (d a : VReg) (s : State) : Out := s.go .all false c (vabsOp f d a)

/-- VNEG (R415). -/
def vnegOp (f : Fmt) (d a : VReg) (s : State) : Act := s.lanes1 f d a (negLane f)
def execVneg (c : Guard) (f : Fmt) (d a : VReg) (s : State) : Out := s.go .all false c (vnegOp f d a)

/-- VAND (R416). -/
def vandOp (f : Fmt) (d a b : VReg) (s : State) : Act := s.lanes2 f d a b fun x y => (x &&& y, 0)
def execVand (c : Guard) (f : Fmt) (d a b : VReg) (s : State) : Out := s.go .all false c (vandOp f d a b)

/-- VOR (R416). -/
def vorOp (f : Fmt) (d a b : VReg) (s : State) : Act := s.lanes2 f d a b fun x y => (x ||| y, 0)
def execVor (c : Guard) (f : Fmt) (d a b : VReg) (s : State) : Out := s.go .all false c (vorOp f d a b)

/-- VXOR (R416). -/
def vxorOp (f : Fmt) (d a b : VReg) (s : State) : Act := s.lanes2 f d a b fun x y => (x ^^^ y, 0)
def execVxor (c : Guard) (f : Fmt) (d a b : VReg) (s : State) : Out := s.go .all false c (vxorOp f d a b)

/-- VCMP (R418): the values of A, valid where the condition holds. -/
def vcmpOp (f : Fmt) (k : VCond) (d a b : VReg) (s : State) : Act := 
  let x := s.v a
  let y := s.v b
  let ok i := x.ok i && y.ok i
  let p i := f.value (x.lane f i)
  let q i := f.value (y.lane f i)
  s.token [(a, .tag f), (b, .tag f)] d (x.result f (fun i => ok i && k.holds (p i) (q i)) fun i => x.lane f i)
    (laneFlags ok (fun i => (0, flagIf ((p i).isSNaN || (q i).isSNaN) flInvalid)) 16)
def execVcmp (c : Guard) (f : Fmt) (k : VCond) (d a b : VReg) (s : State) : Out :=
  s.go .all false c (vcmpOp f k d a b)

/-- VSEL (R435): each lane from A or B as the valid bits of C say. -/
def vselOp (f : Fmt) (d a b m : VReg) (s : State) : Act := 
  let x := s.v a
  let y := s.v b
  let w i := if (s.v m).ok i then x else y
  s.token [(a, .tag f), (b, .tag f)] d (x.moved f (fun i => (w i).ok i) fun i => (w i).lane f i) 0
def execVsel (c : Guard) (f : Fmt) (d a b m : VReg) (s : State) : Out := s.go .all false c (vselOp f d a b m)

/-- VMOV (R417): the whole token. -/
def vmovOp (d a : VReg) (s : State) : Act := .retire (s.setV d (s.v a))
def execVmov (c : Guard) (d a : VReg) (s : State) : Out := s.go .all false c (vmovOp d a)

/-- VBCAST (R417). -/
def vbcastOp (f : Fmt) (d : VReg) (a : GReg) (s : State) : Act := 
  .retire (s.setV d (Token.fresh f (fun _ => true) fun _ => BitVec.ofNat 32 ((s.g a).toNat % 2 ^ f.width)))
def execVbcast (c : Guard) (f : Fmt) (d : VReg) (a : GReg) (s : State) : Out := s.go .all false c (vbcastOp f d a)

/-- VEXT (R417). -/
def vextOp (d : GReg) (a : VReg) (lane : BitVec 4) (s : State) : Act := 
  s.retG d ((laneOf (s.v a).lanes lane.toNat).setWidth 64 |||
    ((BitVec.ofBool ((s.v a).ok lane.toNat)).setWidth 64 <<< 32))
def execVext (c : Guard) (d : GReg) (a : VReg) (lane : BitVec 4) (s : State) : Out :=
  s.go .all false c (vextOp d a lane)

/-- VMASK (R417): lanes below g[B], read as signed, stay. -/
def vmaskOp (f : Fmt) (d a : VReg) (b : GReg) (s : State) : Act := 
  let x := s.v a
  let kept (i : Nat) : Bool := decide ((i : Int) < (s.g b).toInt)
  s.token [(a, .tag f)] d (x.moved f (fun i => kept i && x.ok i) fun i => if kept i then x.lane f i else 0) 0
def execVmask (c : Guard) (f : Fmt) (d a : VReg) (b : GReg) (s : State) : Out := s.go .all false c (vmaskOp f d a b)

end Sys2Proof.Machine
end

