-- ==== Sys2Proof/Machine/Vcvt.lean ====
section
/-!
DEFINITION. The VSFU group (R86, R422), always rounded to nearest, and the VCVT group (R81 to R85, R421).
-/
namespace Sys2Proof.Machine

/-- Source tags of VCVT without AS: 0x01 to 0x10 (R81). -/
def cvtSource : Fmt → Bool
  | .cb4 | .cb3 | .idx32 | .bits => false
  | _ => true

/-- Tags of a scale (R81). -/
def isScale : Fmt → Bool
  | .e8m0 | .fp32 => true
  | _ => false

/-- The largest magnitude over the first n lanes that are valid; 0 when there is none (R85). -/
def laneAmax (x : Token) (f : Fmt) : Nat → XVal
  | 0 => .fin false 0 0
  | n + 1 => if x.ok n then (laneAmax x f n).amax (f.value (x.lane f n)) else laneAmax x f n

/-- VEXP2 (R86). -/
def vexp2Op (f : Fmt) (d a : VReg) (s : State) : Act := s.lanes1 f d a (exp2Lane f .rne)
def execVexp2 (c : Guard) (f : Fmt) (d a : VReg) (s : State) : Out := s.go .all false c (vexp2Op f d a)

/-- VLOG2 (R86). -/
def vlog2Op (f : Fmt) (d a : VReg) (s : State) : Act := s.lanes1 f d a (log2Lane f .rne)
def execVlog2 (c : Guard) (f : Fmt) (d a : VReg) (s : State) : Out := s.go .all false c (vlog2Op f d a)

/-- VRCP (R86). -/
def vrcpOp (f : Fmt) (d a : VReg) (s : State) : Act := s.lanes1 f d a (rcpLane f .rne)
def execVrcp (c : Guard) (f : Fmt) (d a : VReg) (s : State) : Out := s.go .all false c (vrcpOp f d a)

/-- VRSQ (R86). -/
def vrsqOp (f : Fmt) (d a : VReg) (s : State) : Act := s.lanes1 f d a (rsqLane f .rne)
def execVrsq (c : Guard) (f : Fmt) (d a : VReg) (s : State) : Out := s.go .all false c (vrsqOp f d a)

/-- VCVT (R82); with AS only the tag changes. -/
def vcvtOp (f : Fmt) (sat as : Bool) (rm : Rm) (d a : VReg) (s : State) : Act := 
  let x := s.v a
  if as then .retire (s.setV d { x with fmt := f.tag })
  else
    let src := x.format
    let g i := cvtLane src f (s.mode rm) sat (x.lane src i)
    s.token [(a, .set cvtSource)] d (x.result f x.ok fun i => (g i).1) (laneFlags x.ok g 16)
def execVcvt (c : Guard) (f : Fmt) (sat as : Bool) (rm : Rm) (d a : VReg) (s : State) : Out :=
  s.go .all false c (vcvtOp f sat as rm d a)

/-- VQNT (R83): the exact quotient by the scale in lane 0 of B, rounded once. -/
def vqntOp (f : Fmt) (rm : Rm) (d a b : VReg) (s : State) : Act := 
  let x := s.v a
  let y := s.v b
  let src := x.format
  let sv := y.format.value (y.lane y.format 0)
  let ok i := x.ok i && y.ok 0
  let g i := qntLane src f (s.mode rm) sv (x.lane src i)
  s.token [(a, .set Fmt.isWideFloat), (b, .set isScale)] d (x.result f ok fun i => (g i).1) (laneFlags ok g 16)
def execVqnt (c : Guard) (f : Fmt) (rm : Rm) (d a b : VReg) (s : State) : Out := s.go .all false c (vqntOp f rm d a b)

/-- VDQ (R84): the exact product with the scale, rounded once. -/
def vdqOp (f : Fmt) (sat : Bool) (rm : Rm) (d a b : VReg) (s : State) : Act := 
  let x := s.v a
  let y := s.v b
  let src := x.format
  let sv := y.format.value (y.lane y.format 0)
  let ok i := x.ok i && y.ok 0
  let g i := dqLane src f (s.mode rm) sat sv (x.lane src i)
  s.token [(a, .set Fmt.isNarrow), (b, .set isScale)] d (x.result f ok fun i => (g i).1) (laneFlags ok g 16)
def execVdq (c : Guard) (f : Fmt) (sat : Bool) (rm : Rm) (d a b : VReg) (s : State) : Out :=
  s.go .all false c (vdqOp f sat rm d a b)

/-- VSCL (R85): one scale from the largest magnitude, in lane 0. -/
def vsclOp (f : Fmt) (fp32 : Bool) (d a : VReg) (s : State) : Act := 
  let x := s.v a
  let src := x.format
  let r := sclOf f fp32 (laneAmax x src 16)
  s.token [(a, .set Fmt.isWideFloat)] d
    (x.result (if fp32 then .fp32 else .e8m0) (fun i => i = 0) fun _ => r.1) r.2
def execVscl (c : Guard) (f : Fmt) (fp32 : Bool) (d a : VReg) (s : State) : Out :=
  s.go .all false c (vsclOp f fp32 d a)

end Sys2Proof.Machine
end

