-- ==== Sys2Proof/Machine/Vlane.lean ====
section
/-!
DEFINITION. The VLANE group (R335, R419, R420, R427, R428, R433, R434, R436): movements and reductions inside one
token.
-/
namespace Sys2Proof.Machine

/-- The identity of a reduction in a format (R434). -/
def redIdentity (f : Fmt) (op : RedOp) : Lane :=
  match op, f.float with
  | .sum, _ => 0
  | .max, some ff => BitVec.ofNat 32 (ff.infCode true)
  | .min, some ff => BitVec.ofNat 32 (ff.infCode false)
  | .max, none => f.wrap (-(2 ^ (f.width - 1) : Nat))
  | .min, none => f.wrap ((2 ^ (f.width - 1) : Nat) - 1)

/-- One step of a reduction (R434). -/
def redLane (f : Fmt) (op : RedOp) (mode : RMode) (a b : Lane) : Lane × BitVec 6 :=
  match op with
  | .sum => addLane f mode a b
  | .max => pickLane f true a b
  | .min => pickLane f false a b

/-- The running value and flags after the first n lanes, in lane order (R87, R434). -/
def scanLane (f : Fmt) (op : RedOp) (mode : RMode) (x : Token) : Nat → Lane × BitVec 6
  | 0 => (redIdentity f op, 0)
  | n + 1 =>
    let r := scanLane f op mode x n
    if x.ok n then
      let q := redLane f op mode r.1 (x.lane f n)
      (q.1, r.2 ||| q.2)
    else r

/-- Elements base to base + n - 1 of a token packed into one lane, invalid ones as 0 (R427). -/
def packLane (x : Token) (f : Fmt) (n base : Nat) : Lane :=
  match n with
  | 0 => 0
  | m + 1 => packLane x f m base ||| ((if x.ok (base + m) then x.lane f (base + m) else 0) <<< (m * f.width))

/-- Lane j comes before lane i in VRANK's order (R433). -/
def laneBefore (x : Token) (f : Fmt) (desc : Bool) (j i : Nat) : Bool :=
  let p := f.value (x.lane f j)
  let q := f.value (x.lane f i)
  let less (a b : XVal) : Bool := if a.isNaN then false else b.isNaN || (if desc then b.lt a else a.lt b)
  less p q || (!less q p && decide (j < i))

/-- CB4 or CB3 (R436). -/
def isCode : Fmt → Bool
  | .cb4 | .cb3 => true
  | _ => false

/-- Entry i of a table register (R45). -/
def tableEntry (t : BitVec 256) (i : Nat) : Lane := (t.extractLsb' (16 * i) 16).setWidth 32

/-- VPERM (R428). -/
def vpermOp (d a b : VReg) (s : State) : Act := 
  let x := s.v a
  let y := s.v b
  let ix i := (y.lane .idx32 i).toNat
  s.token [(a, .typed), (b, .tag .idx32)] d
    (x.result x.format (fun i => y.ok i && decide (ix i < 16) && x.ok (ix i)) fun i => x.lane x.format (ix i)) 0
def execVperm (c : Guard) (d a b : VReg) (s : State) : Out := s.go .all false c (vpermOp d a b)

/-- VSCAN (R434). -/
def vscanOp (f : Fmt) (op : RedOp) (excl : Bool) (rm : Rm) (d a : VReg) (s : State) : Act := 
  let x := s.v a
  let r := scanLane f op (s.mode rm) x
  s.token [(a, .tag f)] d (x.result f x.ok fun i => (r (if excl then i else i + 1)).1) (r 16).2
def execVscan (c : Guard) (f : Fmt) (op : RedOp) (excl : Bool) (rm : Rm) (d a : VReg) (s : State) : Out :=
  s.go .all false c (vscanOp f op excl rm d a)

/-- VRED (R434). -/
def vredOp (f : Fmt) (op : RedOp) (rm : Rm) (d a : VReg) (s : State) : Act := 
  let x := s.v a
  let r := scanLane f op (s.mode rm) x 16
  s.token [(a, .tag f)] d (x.result f (fun i => i = 0) fun _ => r.1) r.2
def execVred (c : Guard) (f : Fmt) (op : RedOp) (rm : Rm) (d a : VReg) (s : State) : Out :=
  s.go .all false c (vredOp f op rm d a)

/-- VCOMP (R420): the valid lanes move to the front. -/
def vcompOp (d a : VReg) (s : State) : Act := 
  let x := s.v a
  let l := (List.range 16).filter x.ok
  s.token [(a, .typed)] d (x.result x.format (fun k => decide (k < l.length)) fun k => x.lane x.format (l.getD k 0)) 0
def execVcomp (c : Guard) (d a : VReg) (s : State) : Out := s.go .all false c (vcompOp d a)

/-- VXPND (R420): lanes of A in order to the valid lanes of B. -/
def vxpndOp (d a b : VReg) (s : State) : Act := 
  let x := s.v a
  let y := s.v b
  let k i := (List.range i).countP y.ok
  s.token [(a, .typed), (b, .typed)] d
    (x.moved x.format (fun i => y.ok i && x.ok (k i)) fun i => if y.ok i then x.lane x.format (k i) else 0) 0
def execVxpnd (c : Guard) (d a b : VReg) (s : State) : Out := s.go .all false c (vxpndOp d a b)

/-- VUNPK (R427). -/
def vunpkOp (f : Fmt) (part : BitVec 3) (d a : VReg) (s : State) : Act := 
  let x := s.v a
  let k i := 16 * part.toNat + i
  s.token [(a, .tag .bits)] d
    (x.moved f (fun i => x.ok (k i * f.width / 32)) fun i =>
      BitVec.ofNat 32 (x.lanes.toNat / 2 ^ (k i * f.width) % 2 ^ f.width)) 0
def execVunpk (c : Guard) (f : Fmt) (part : BitVec 3) (d a : VReg) (s : State) : Out :=
  s.go .all false c (vunpkOp f part d a)

/-- VPACK (R427): part p of the destination is replaced; its other lanes stay. -/
def vpackOp (f : Fmt) (part : BitVec 3) (d a : VReg) (s : State) : Act := 
  let x := s.v a
  let o : Token := if (s.v d).fmt = 0 then {} else s.v d
  let per := 32 / f.width
  let lo := 16 * part.toNat / per
  let covered j := decide (lo ≤ j) && decide (j < lo + f.width / 2)
  let val j := if covered j then packLane x f per (j * per - 16 * part.toNat) else laneOf o.lanes j
  let ok j := if covered j then (List.range per).all fun m => x.ok (j * per - 16 * part.toNat + m) else o.ok j
  s.token [(a, .tag f), (d, .bitsOrUntyped)] d
    { x with lanes := payloadOf val 16, valid := validOf ok 16, fmt := Fmt.bits.tag } 0
def execVpack (c : Guard) (f : Fmt) (part : BitVec 3) (d a : VReg) (s : State) : Out :=
  s.go .all false c (vpackOp f part d a)

/-- VRANK (R433): the valid lanes in stable order. -/
def vrankOp (f : Fmt) (desc : Bool) (d a : VReg) (s : State) : Act := 
  let x := s.v a
  let l := (List.range 16).filter x.ok
  let rank i := l.countP fun j => laneBefore x f desc j i
  let nth k := (l.find? fun i => rank i = k).getD 0
  s.token [(a, .tag f)] d (x.result .idx32 (fun k => decide (k < l.length)) fun k => BitVec.ofNat 32 (nth k)) 0
def execVrank (c : Guard) (f : Fmt) (desc : Bool) (d a : VReg) (s : State) : Out :=
  s.go .all false c (vrankOp f desc d a)

/-- VTAB (R436): it waits while the table is pending. -/
def vtabOp (tb : Bool) (d a : VReg) (s : State) : Act := 
  let x := s.v a
  let n := if tb then 1 else 0
  match s.mismatch [(a, .set isCode)] with
  | some e => fault s cFormatTag e
  | none =>
    if s.core.tbPend.getLsbD n then .wait s
    else .retire (s.setV d (x.result .bf16 x.ok fun i =>
      tableEntry (if tb then s.core.tb[1] else s.core.tb[0]) (x.lane x.format i).toNat))
def execVtab (c : Guard) (tb : Bool) (d a : VReg) (s : State) : Out := s.go .all false c (vtabOp tb d a)

/-- VCNT (R419). -/
def vcntOp (d : GReg) (a : VReg) (s : State) : Act := 
  match s.mismatch [(a, .typed)] with
  | some e => fault s cFormatTag e
  | none => s.retG d (BitVec.ofNat 64 ((List.range 16).countP (s.v a).ok))
def execVcnt (c : Guard) (d : GReg) (a : VReg) (s : State) : Out := s.go .all false c (vcntOp d a)

end Sys2Proof.Machine
end

