-- ==== Sys2Proof/Machine/Control.lean ====
section
/-!
DEFINITION. The BR and LOOP groups: branches (R353, R354, R398), the hardware loops (R62 to R65, R377) and the
repetition of an instruction (R67, R68, R395 to R397).
-/
namespace Sys2Proof.Machine

/-! ### Branches -/

/-- A taken transfer that pops the loop levels it leaves (R64). -/
def leaveLoops (s : State) (t : Word) : Act := .jump (s.setCore { s.core with loops := popLoops t s.core.loops }) t

/-- A target taken from a register (R353). -/
def regTarget (s : State) (t : Word) (k : State → Word → Act) : Act :=
  if t.toNat % 8 ≠ 0 then fault s cMisaligned t else k s t

/-- BR (R353). -/
def brOp (disp : BitVec 32) (s : State) : Act := leaveLoops s (s.core.pc + simm disp)
def execBr (c : Guard) (_hint : Bool) (disp : BitVec 32) (s : State) : Out := s.go .all true c (brOp disp)

/-- CBR (R353). -/
def cbrOp (k : Cond) (a b : GReg) (disp : BitVec 32) (s : State) : Act :=
  if condHolds k (s.g a) (s.g b) then leaveLoops s (s.core.pc + simm disp) else .retire s
def execCbr (c : Guard) (k : Cond) (_hint : Bool) (a b : GReg) (disp : BitVec 32) (s : State) : Out :=
  s.go .all true c (cbrOp k a b disp)

/-- CALL (R353): with g0 the target is relative to the pc; the link register is g31 and no loop level is popped. -/
def callOp (a : GReg) (disp : BitVec 32) (s : State) : Act :=
  regTarget s ((if a = 0 then s.core.pc else s.g a) + simm disp) fun s t => .jump (s.setG 31 (s.core.pc + 8)) t
def execCall (c : Guard) (_hint : Bool) (a : GReg) (disp : BitVec 32) (s : State) : Out :=
  s.go .all true c (callOp a disp)

/-- JMP (R353). -/
def jmpOp (a : GReg) (disp : BitVec 32) (s : State) : Act := regTarget s (s.g a + simm disp) leaveLoops
def execJmp (c : Guard) (_hint : Bool) (a : GReg) (disp : BitVec 32) (s : State) : Out :=
  s.go .all true c (jmpOp a disp)

/-- RET (R398). -/
def retOp (a : GReg) (s : State) : Act := regTarget s (s.g a) Act.jump
def execRet (c : Guard) (_hint : Bool) (a : GReg) (s : State) : Out := s.go .all true c (retOp a)

/-! ### LOOP -/

/-- LOOP (R62, R377). -/
def loopOp (cnt : GReg) (count len : BitVec 16) (s : State) : Act :=
  let n : BitVec 32 := if cnt = 0 then count.setWidth 32 else (s.g cnt).setWidth 32
  let body : Word := 8 * len.setWidth 64
  if n = 0 then .jump s (s.core.pc + 8 + body)
  else if 2 ≤ s.core.loops.length then fault s cLoopNest s.ir
  else .jump (s.setCore { s.core with loops := ⟨s.core.pc + 8, s.core.pc + body, n⟩ :: s.core.loops }) (s.core.pc + 8)
def execLoop (c : Guard) (cnt : GReg) (count : BitVec 16) (len : BitVec 16) (s : State) : Out :=
  s.go .all true c (loopOp cnt count len)

/-! ### REP -/

/-- A register field in repetition i (R67): the class of its code gives the modulus. -/
def stepCode (f : BitVec 6) (step : BitVec 4) (i : Nat) : BitVec 6 :=
  let n := f.toNat
  BitVec.ofNat 6 (
    if n < 32 then stepReg n step.toNat 32 i
    else if n < 48 then 32 + stepReg (n - 32) step.toNat 16 i
    else if n < 56 then 48 + stepReg (n - 48) step.toNat 8 i
    else 56 + stepReg (n - 56) step.toNat 8 i)

/-- The steps of a REP: of the fields D, A, B, C (R321). -/
structure RepSteps where
  (d a b c : BitVec 4)
  deriving DecidableEq, Repr

/-- The word of the target as repetition i issues it. Formats F0 and F1 share D and A; F1 has no B and no C. -/
def repWord (w : Word) (k : RepSteps) (i : Nat) : Word :=
  let f (lo : Nat) (step : BitVec 4) : Word := (stepCode (w.extractLsb' lo 6) step i).setWidth 64 <<< lo
  let two := (w &&& 0xFFC003FFFFFFFFFF) ||| f 48 k.d ||| f 42 k.a
  if w.extractLsb' 58 6 = 1 then two else (two &&& 0xFFFFFC003FFFFFFF) ||| f 36 k.b ||| f 30 k.c

/-- The operation of an instruction that REP may repeat: the groups ALU, ALUI, VALU, VSFU, VCVT and VLANE (R67). -/
def repBody : Instr → Option (State → Act)
  | .add _ w d a b => some (addOp w d a b)
  | .addImm _ w d a imm => some (addImmOp w d a imm)
  | .nop => some Act.retire
  | .sub _ w d a b => some (subOp w d a b)
  | .mul _ w d a b => some (mulOp w d a b)
  | .mulh _ u d a b => some (mulhOp u d a b)
  | .div _ u d a b => some (divOp u d a b)
  | .rem _ u d a b => some (remOp u d a b)
  | .and _ d a b => some (andOp d a b)
  | .andImm _ d a imm => some (andImmOp d a imm)
  | .andn _ d a b => some (andnOp d a b)
  | .or _ d a b => some (orOp d a b)
  | .orImm _ d a imm => some (orImmOp d a imm)
  | .xor _ d a b => some (xorOp d a b)
  | .xorImm _ d a imm => some (xorImmOp d a imm)
  | .shl _ w d a b => some (shlOp w d a b)
  | .shlImm _ w d a n => some (shlImmOp w d a n)
  | .shr _ w d a b => some (shrOp w d a b)
  | .shrImm _ w d a n => some (shrImmOp w d a n)
  | .sar _ w d a b => some (sarOp w d a b)
  | .sarImm _ w d a n => some (sarImmOp w d a n)
  | .min _ u d a b => some (minOp u d a b)
  | .minImm _ u d a imm => some (minImmOp u d a imm)
  | .max _ u d a b => some (maxOp u d a b)
  | .maxImm _ u d a imm => some (maxImmOp u d a imm)
  | .cmp _ k d a b => some (cmpOp k d a b)
  | .cmpImm _ k d a imm => some (cmpImmOp k d a imm)
  | .sel _ d a b p => some (selOp d a b p)
  | .clz _ d a => some (clzOp d a)
  | .popc _ d a => some (popcOp d a)
  | .bext _ sx d a lsb wm1 => some (bextOp sx d a lsb wm1)
  | .bins _ d a lsb wm1 => some (binsOp d a lsb wm1)
  | .plog _ op d a b => some (plogOp op d a b)
  | .movi _ d imm => some (moviOp d imm)
  | .movhi _ d imm => some (movhiOp d imm)
  | .vadd _ f rm d a b => some (vaddOp f rm d a b)
  | .vsub _ f rm d a b => some (vsubOp f rm d a b)
  | .vmul _ f rm d a b => some (vmulOp f rm d a b)
  | .vfma _ f rm d a b e => some (vfmaOp f rm d a b e)
  | .vmax _ f d a b => some (vmaxOp f d a b)
  | .vmin _ f d a b => some (vminOp f d a b)
  | .vabs _ f d a => some (vabsOp f d a)
  | .vneg _ f d a => some (vnegOp f d a)
  | .vand _ f d a b => some (vandOp f d a b)
  | .vor _ f d a b => some (vorOp f d a b)
  | .vxor _ f d a b => some (vxorOp f d a b)
  | .vcmp _ f k d a b => some (vcmpOp f k d a b)
  | .vsel _ f d a b m => some (vselOp f d a b m)
  | .vmov _ d a => some (vmovOp d a)
  | .vbcast _ f d a => some (vbcastOp f d a)
  | .vext _ d a lane => some (vextOp d a lane)
  | .vmask _ f d a b => some (vmaskOp f d a b)
  | .vexp2 _ f d a => some (vexp2Op f d a)
  | .vlog2 _ f d a => some (vlog2Op f d a)
  | .vrcp _ f d a => some (vrcpOp f d a)
  | .vrsq _ f d a => some (vrsqOp f d a)
  | .vcvt _ f sat as rm d a => some (vcvtOp f sat as rm d a)
  | .vqnt _ f rm d a b => some (vqntOp f rm d a b)
  | .vdq _ f sat rm d a b => some (vdqOp f sat rm d a b)
  | .vscl _ f fp32 d a => some (vsclOp f fp32 d a)
  | .vperm _ d a b => some (vpermOp d a b)
  | .vscan _ f op excl rm d a => some (vscanOp f op excl rm d a)
  | .vred _ f op rm d a => some (vredOp f op rm d a)
  | .vcomp _ d a => some (vcompOp d a)
  | .vxpnd _ d a b => some (vxpndOp d a b)
  | .vunpk _ f part d a => some (vunpkOp f part d a)
  | .vpack _ f part d a => some (vpackOp f part d a)
  | .vrank _ f desc d a => some (vrankOp f desc d a)
  | .vtab _ tb d a => some (vtabOp tb d a)
  | .vcnt _ d a => some (vcntOp d a)
  | _ => none

/-- Every repetition of the target is an instruction that REP may repeat (R396). -/
def repOk (w : Word) (k : RepSteps) : Nat → Bool
  | 0 => true
  | n + 1 => repOk w k n && (match decode (repWord w k n) with
    | .ok x => (repBody x).isSome
    | .error _ => false)

/-- The word that follows a REP: as the REP fetched it, or now (R67). -/
def State.target (s : State) : Fetched :=
  if s.core.repAt.isSome then .word s.core.tgtWord s else s.fetch (s.core.pc + 8)

/-- Repetition i of a target word is next; a resumed REP has cleared RPST (R68). -/
def State.repeatAt (s : State) (w : Word) (i : Nat) : State :=
  s.setCore { s.core with repAt := some i, rpPend := false, rpCount := 0, opWord := s.ir, tgtWord := w }

/-- Repetition i of count (R67, R68): its guard, its operation, and what follows. -/
def repStep (count : Nat) (k : RepSteps) (w : Word) (i : Nat) (s : State) : Act :=
  let u := repWord w k i
  let next (s : State) : Act :=
    if count ≤ i + 1 then .retire (s.setCore { s.core with pc := s.core.pc + 8 })
    else .wait (s.repeatAt w (i + 1))
  if count ≤ i then .retire (s.setCore { s.core with pc := s.core.pc + 8 })
  else match decode u with
    | .error _ => fault s cRepeatTarget w
    | .ok x =>
      if !s.guard (guardOf u) then next s
      else match repBody x with
        | none => fault s cRepeatTarget w
        | some f =>
          match f s with
          | .retire s => next s
          | .wait s => .wait (s.repeatAt w i)
          | .trap s e v st =>
            .trap (s.setCore { s.core with repAt := none, rpPend := true, rpCount := BitVec.ofNat 6 i }) e v st
          | .jump s pc => .jump s pc

/-- REP: the target is checked whatever the guard (R55, R396); one repetition a turn; a REP that has begun goes on
(R68). The fetch fault of the target has EPC at the target (R61), and at the REP when repetitions have been done
(R68; log entry 11). -/
def repOp (c : Guard) (n : BitVec 6) (k : RepSteps) (s : State) : Act :=
  let count := n.toNat + 1
  let begun := s.core.repAt.isSome || s.core.rpPend
  let i := match s.core.repAt with
    | some i => i
    | none => if s.core.rpPend then s.core.rpCount.toNat else 0
  match s.target with
  | .wait => .wait s
  | .fault e =>
    if s.core.rpPend then fault s e (s.core.pc + 8)
    else if s.guard c then fault (s.setCore { s.core with pc := s.core.pc + 8 }) e (s.core.pc + 8)
    else .retire s
  | .word w s =>
    if !repOk w k count then fault s cRepeatTarget w
    else if begun || s.guard c then repStep count k w i s else .retire s
def execRep (c : Guard) (n : BitVec 6) (sd sa sb sc : BitVec 4) (s : State) : Out :=
  s.go .all true ⟨0, false⟩ (repOp c n ⟨sd, sa, sb, sc⟩)

/-! ### Words that are no instruction, and fetches that fail (R61, R315, R339) -/

/-- WORD_NOT_AN_INSTRUCTION: the fault of the decoder, whatever the guard; EVAL is the word. -/
def execWordNotAnInstruction (e : DecErr) (w : Word) (s : State) : Out :=
  .next (s.raise (match e with
    | .illegalEncoding => cIllegalEncoding
    | .illegalOperand => cIllegalOperand) w s.core.pc 0)

/-- INSTRUCTION_FETCH_FAULT: EPC is the fetch address. -/
def execInstructionFetchFault (cause : BitVec 8) (eval : Word) (s : State) : Out :=
  .next (s.raise cause eval s.core.pc 0)

end Sys2Proof.Machine
end

