-- ==== Sys2Proof/Machine/Region.lean ====
section
/-!
DEFINITION. What tasks and regions are made of: the state a task starts with (R54), scrubs (R253), the milliner's
writes into RCBs (R444), notify writes (R37 to R39), and the release and the kill of a region (R37, R254).
-/
namespace Sys2Proof.Machine

/-- Offset of a tile in a region, row * 64 + column, and back. -/
def Region.offOf (x : Region) (t : Nat) : Nat :=
  match x.place with
  | some (c, r) => tileNo (t % 64 - c) (t / 64 - r)
  | none => 0
def Region.tileOf (x : Region) (off : Nat) : Nat :=
  match x.place with
  | some (c, r) => tileNo (c + off % 64) (r + off / 64)
  | none => 0

/-- The state a task starts with (R54); what is not named stays. -/
def Core.begin (c : Core) (entry : Word) (args : Vector Word 4) (lvl : Lvl) (trapv : Word) (cls : Nat) (k : Task) : Core :=
  { c with
    pc := entry, lvl := lvl, inH := false
    g := ((((((Vector.replicate 32 (0 : Word)).set 1 args[0]).set 2 args[1]).set 3 args[2]).set 4 args[3]).set 30
      0x00007FFFFF100000)
    v := Vector.replicate 16 {}, p := 0, a := Vector.ofFn fun i => { c.a[i] with v := false, d := false }
    tb := Vector.replicate 2 0, tbPend := 0
    loops := [], rpPend := false, rpCount := 0
    fmode := 0, fstat := 0, cause := 0, epc := 0, eval := 0, estep := 0
    trapv := trapv, slotcls := BitVec.ofNat 2 cls
    status := .run, resume := .idle, task := some k, repAt := none, stepAt := none
    inflight := [], heldAcc := [], pend := [], readings := [], barAt := none }

/-- The tokens on their way on the control network of tiles that a predicate picks are discarded (R37, R119, R253). -/
def State.dropCtl (s : State) (f : Nat → Bool) : State := { s with ctlFlight := s.ctlFlight.filter fun q => !f q.1 }

/-- The scrub of a tile: its store, registers, shadow, fabric, micro-TLB and instruction cache, and the barriers of a
steward tile (R253). -/
def State.scrub (s : State) (t : Nat) : State :=
  (({ s.zero (windowPa t) Config.tileStore with
      vds := s.vds.map fun (v : Vd) => if v.st != .none && v.steward == t then { v with bars := Vector.replicate 16 {}, barSel := 0 } else v
    } : State).dropCtl fun q => q == t).setTile t {}

/-- Every tile of a list is scrubbed. -/
def State.scrubAll (s : State) : List Nat → State
  | [] => s
  | t :: r => (s.scrub t).scrubAll r

/-! ### The milliner's accesses to RCBs (R26, R444) -/

/-- What an access of the milliner meets. -/
inductive MilSpot where
  | ok (pa : Nat) (s : State)
  | no
  | integrity
  | wait

/-- An access of the milliner to the first n bytes of the 256 at an address, at the privilege of the SPAWN, on pages of
kind HBM; no where it fails (R444), and a wait where a block of it or of a table is being re-encrypted, or its granule
re-keyed (R268, R272). -/
def State.milAccess (s : State) (vd : Nat) (lvl : Lvl) (u : Use) (va : Word) (n : Nat := 8) : MilSpot :=
  if !canonical va || (Config.localBase ≤ va.toNat && va.toNat < Config.localBase + Config.windowSize : Bool) then .no
  else match s.walk2 vd (lvl == .u) u va with
  | .error (.fault c) => if c = cIntegrity then .integrity else .no
  | .error .wait => .wait
  | .ok (x, ups) =>
    match s.physCheck vd x.kind.toNat x.win (x.pa va) u x.ord.toNat with
    | some .wait => .wait
    | some (.fault _) => .no
    | none =>
      if x.kind ≠ 0 then .no
      else if s.anyStalled (x.pa va) n then .wait
      else if s.anyBad (x.pa va) n then .integrity
      else .ok (x.pa va) (s.setBits ups)

/-- The milliner's writes into the RCB of a region would wait (R268, R272): its move is not due. -/
def State.rcbWaits (s : State) (x : Region) : Bool :=
  (s.vd x.vd).st != .fenced && (match s.milAccess x.vd x.lvl .write x.rcb 176 with
    | .wait => true
    | _ => false)

/-- Writing a field of an RCB under a mask; a write that fails is dropped (R444), and so is one for a fenced VD (R262). A
re-encryption that has begun within the same move does not hold it (log entry 80). -/
def State.rcbWrite (s : State) (x : Region) (off : Nat) (v mask : Word) : State :=
  let put (pa : Nat) (s : State) : State := s.commit pa 8 v.toNat mask.toNat
  let va := x.rcb + BitVec.ofNat 64 off
  if (s.vd x.vd).st = .fenced then s
  else match s.milAccess x.vd x.lvl .write va with
  | .no => s
  | .integrity => s.fence x.vd cIntegrity
  | .ok pa s1 => put pa s1
  | .wait =>
    match ({ s with recrypt := [] } : State).milAccess x.vd x.lvl .write va with
    | .ok pa s1 => let s2 := put pa s1; { s2 with recrypt := s2.recrypt ++ s.recrypt }
    | .integrity => s.fence x.vd cIntegrity
    | _ => s

/-- The code of a region's state in its RCB (R26). -/
def RState.code : RState → Nat
  | .queued => 1
  | .placed => 2
  | .running => 3
  | .preempted => 4
  | .faulted => 5
  | .done => 6

/-- Setting a region's state, in the record and in its RCB (R26). -/
def State.setRState (s : State) (r : Nat) (st : RState) : State :=
  match s.region r with
  | none => s
  | some x => (s.setRegion r { x with st := st }).rcbWrite x 0x18 (BitVec.ofNat 64 (st.code * 256)) 0xF00

/-- Time consumed and pre-emption count of a region, in its RCB (R26). -/
def State.writeTime (s : State) (r : Nat) : State :=
  match s.region r with
  | none => s
  | some x =>
    let held := x.held + (if x.place.isSome then s.cycle - x.since else 0)
    s.rcbWrite x 0x60 (BitVec.ofNat 64 (held % 2 ^ 48 + min x.preempts 65535 * 2 ^ 48)) (BitVec.allOnes 64)

/-- A write of the device itself for a VD, to part of a block or over it: a block that fails verification fences the VD
(R267, R270). -/
def State.devWrite (s : State) (vd pa n x : Nat) : State :=
  if s.writeBad pa (n == 64) then s.fence vd cIntegrity else s.commit pa n x (fullMask n)

/-! ### Notify writes (R37 to R39, R249) -/

/-- First byte of the save areas of a VD, and of its overflow list (R247, R249). -/
def Vd.hatPa (v : Vd) : Nat := v.hatbox.toNat
def Vd.overflowPa (v : Vd) : Nat := v.hatPa + bits v.hslots 0 16 * 1183744

/-- The lowest free entry of an overflow list; none where a block of those read up to it fails verification (R267). -/
def State.freeEntry (s : State) (pa : Nat) : Option Nat :=
  let i := ((List.range 4096).find? fun i => s.rd (pa + 32 * i) 8 == 0).getD 0
  if s.anyBad pa (32 * i + 32) then none else some i

/-- Bytes of an overflow list (R249). -/
def overflowSize : Nat := 131072

/-- The region's save area holds its notifies: the header's 128, then the overflow list of the VD (R248, R249). -/
def State.holdNotify (s : State) (r : Nat) (x : Region) (n : Notify) : State :=
  let v := s.vd x.vd
  let off := (x.hat.getD (0, 0)).1
  if x.notifies.length < 128 then
    (s.setRegion r { x with notifies := x.notifies ++ [n] }).devWrite x.vd (v.hatPa + off + 0x800 + 16 * x.notifies.length) 16
      (n.addr + n.val.toNat * 2 ^ 64)
  else match s.freeEntry v.overflowPa with
  | none => s.fence x.vd cIntegrity
  | some i =>
    ({ s with notifyDue := s.notifyDue ++ [(x.vd, r, n)] } : State).devWrite x.vd (v.overflowPa + 32 * i) 32
      (n.addr + n.val.toNat * 2 ^ 64 + off * 2 ^ 128)

/-- The notify write of a region to its parent task: performed, held while the parent is saved, or dropped when the
parent holds its tile no more. -/
def State.notify (s : State) (r : Nat) : State :=
  match s.region r with
  | none => s
  | some x =>
    match x.parent with
    | none =>
      -- the dispatcher's tile is the steward tile
      if (s.tileAt x.parentTile).core.owner.isSome then
        s.commit (windowPa x.parentTile + x.notifyOff) 8 x.notifyVal.toNat (fullMask 8) else s
    | some (q, _) =>
      match s.region q with
      | none => s
      | some y =>
        match y.st with
        | .preempted => s.holdNotify q y ⟨windowPa x.parentTile + x.notifyOff, x.notifyVal⟩
        | .placed | .running =>
          if y.place.isSome then
            s.commit (windowPa (y.tileOf x.parentTile) + x.notifyOff) 8 x.notifyVal.toNat (fullMask 8) else s
        | _ => s

/-- The notify write of a region would have to wait: its parent is saved, and the part of the save area or of the overflow
list that is to hold it is being re-encrypted (R268). -/
def State.notifyWaits (s : State) (x : Region) : Bool :=
  match x.parent.bind fun q => s.region q.1 with
  | some y =>
    y.st == .preempted &&
      (if y.notifies.length < 128 then
        s.anyStalled ((s.vd y.vd).hatPa + (y.hat.getD (0, 0)).1 + 0x800 + 16 * y.notifies.length) 16
      else s.anyStalled (s.vd y.vd).overflowPa overflowSize)
  | none => false

/-- The move that ends region x would have to wait: for its RCB, or for its notify write. -/
def State.endWaits (s : State) (x : Region) : Bool := s.rcbWaits x || s.notifyWaits x

/-! ### The end of a region -/

/-- A fault of a region that no instruction raised: it waits for the fault domain, its EPC a free value; a failed
verification fences the VD (R262, R270). -/
def State.elemFault (s : State) (r : Nat) (cause : BitVec 8) (eval : Word) : State :=
  if cause = cIntegrity then s.fence ((s.region r).elim Config.vds Region.vd) cIntegrity
  else { s.updRegion r fun x => { x with fault := some (x.fault.getD ⟨cause, Config.openEpc s.tick, eval, 0⟩) } with
    tick := s.tick + 1 }

/-- No task, no owner. -/
def Core.release (c : Core) : Core :=
  { c with
    status := .idle, resume := .idle, task := none, owner := none, repAt := none, stepAt := none
    inflight := [], heldAcc := [], pend := [], readings := [], barAt := none }

/-- Every tile of a list is released: no task, no owner, its fabric off (R37, R255). -/
def State.releaseTiles (s : State) : List Nat → State
  | [] => s
  | t :: r =>
    (s.updTile t fun x => { core := x.core.release, fab := {} }).releaseTiles r

/-- An access belongs to a party of a region. -/
def Access.ofRegion (a : Access) (r : Nat) : Bool := a.region == some r

/-- Accesses whose party is gone go on under a number that no thread has, one for each party, whose queues stay its own
(R204, R207): their replies are dropped (R255). -/
def State.orphan (s : State) (f : Access → Bool) : State :=
  let ps := ((s.accs.filter f).map Access.party).eraseDups
  { s with
    accs := s.accs.map fun (a : Access) => if f a then { a with party := .thread (s.nextId + ps.idxOf a.party) } else a
    nextId := s.nextId + ps.length }

/-- A region leaves its tiles (R37, R255). -/
def State.vacate (s : State) (r : Nat) : State :=
  match s.region r with
  | none => s
  | some x =>
    let held := x.held + (if x.place.isSome then s.cycle - x.since else 0)
    (((s.releaseTiles x.tilesOf).orphan fun a => a.ofRegion r).dropCtl x.covers).updRegion r fun y =>
      { y with place := none, held := held, stop := .no, marked := false, saved := [] }

/-- A kill drops an access: it is still in its order buffer, or it is a request queued at the gather unit of a stack
(R254). -/
def Access.droppedByKill (a : Access) : Bool :=
  a.st == .buffered || (a.st != .performed && (match a.party with
    | .gather _ _ => true
    | _ => false))

/-- A kill: tasks and elements stop with no save, accesses still in an order buffer and requests at the gather units are
never performed, the tiles are released at once; its engine threads end (R254). What had left may still be performed
(R256). -/
def State.kill (s : State) (r : Nat) : State :=
  let s1 := ({ s with accs := s.accs.filter fun (a : Access) => !(a.ofRegion r && a.droppedByKill) } : State)
  let s1 := (s1.vacate r).updRegion r fun x => { x with hat := none }
  { s1 with
    threads := s1.threads.filter fun (t : Thread) => t.region != some r
    queue := s1.queue.filter fun q => q != r }

/-- A write of a region that had left its order buffer is still to be performed (R254, R256). -/
def State.writesOut (s : State) (r : Nat) : Bool :=
  s.accs.any fun a => a.ofRegion r && a.st != AccStat.performed && (match a.kind with
    | .load | .fence _ => false
    | _ => true)

end Sys2Proof.Machine
end

