-- ==== Sys2Proof/Machine/Vd.lean ====
section
/-!
DEFINITION. Virtual devices: what translations a change removes (R194, R197, R198), and the commands of VDCMD
(R234, R235), as operations that SWR and the device's own steps share.
-/
namespace Sys2Proof.Machine

/-! ### Removing translations (R197, R198) -/

/-- VD of a core: of its task, else of its tile's owner. -/
def Core.ofVd (c : Core) : Nat :=
  match c.task, c.owner with
  | some k, _ => k.vd
  | none, some (v, _) => v
  | none, none => Config.vds

/-- The translations of a VD that f picks leave every TLB; the instruction caches of its tiles, idle ones too, and the
base translations of its GATHER operators go too. The record of a saved region holds none. -/
def State.dropTlb (s : State) (vd : Nat) (f : Tlb → Bool) : State :=
  let fix (x : Tile) : Tile :=
    let c := x.core
    let mine := c.ofVd == vd || c.lastOwner == some vd
    { core := { c with
        tlb := c.tlb.filter fun e => !(e.vd == vd && f e)
        icache := if mine then [] else c.icache }
      fab := if mine then { x.fab with slots := Vector.ofFn fun i =>
          let sl := x.fab.slots[i]
          { sl with op := { sl.op with base := none } } } else x.fab }
  { s with tile := fix s.tile, parked := s.parked.map fun p => (p.1, fix p.2) }

/-- Accesses of a VD still to be performed, the posted writes of its function that are held or not yet acknowledged, and
its engine threads, which keep their translations (R198, R278, R358). -/
def State.outstanding (s : State) (vd : Nat) : List Nat :=
  (s.posted.filter fun (p : Posted) => p.fn == vd + 1).map Posted.id ++
    (s.accs.filter fun (a : Access) => a.vd == vd && a.st != AccStat.performed && (match a.kind with
      | .fence _ => false
      | _ => true)).map Access.id
def State.threadsOut (s : State) (vd : Nat) : List Nat :=
  (s.threads.filter fun (t : Thread) => t.vd == vd).map Thread.id

/-- A write to S1ROOT: the root, and no stage-1 translation of the VD stays (R194). -/
def State.writeS1root (s : State) (vd : Nat) (x : Word) : State :=
  (s.updVd vd fun v => { v with s1root := x }).dropTlb vd fun _ => true

/-- A write to VDS2ROOT: at once, and no translation of the VD stays (R234). -/
def State.writeS2root (s : State) (vd : Nat) (x : Word) : State :=
  (s.updVd vd fun v => { v with s2root := x }).dropTlb vd fun _ => true

/-- A legal value of S1ROOT (R194). -/
def s1rootOk (x : Word) : Bool := bits x 48 16 == 0 && bits x 1 11 == 0

/-! ### Extents (R234, R247) -/

/-- Granules of a VD's hatbox: the save slots and headers, and the overflow list (R247). -/
def Vd.hatGranules (v : Vd) : Nat := (bits v.hslots 0 16 * 1156 * 1024 + 128 * 1024 + 0x1FFFF) / 0x20000
def Vd.hatFirst (v : Vd) : Nat := granuleOf v.hatbox.toNat

/-- A granule is reserved for the hatbox of the VD. -/
def Vd.reserves (v : Vd) (g : Nat) : Bool :=
  v.st != .none && decide (v.hatFirst ≤ g) && decide (g < v.hatFirst + v.hatGranules)

/-- The granule is granted to a VD, or reserved for a hatbox. -/
def State.taken (s : State) (g : Nat) : Bool := s.vds.toList.any fun v => v.hbm.contains g || v.reserves g

/-- A window holds the granule. -/
def State.windowHolds (s : State) (g : Nat) : Bool :=
  s.wins.toList.any fun x => x.granules.contains g && x.st != .free

/-- Counters of granules start afresh; granule g is leaf g of every stack (R269). -/
def State.freshCounters (s : State) (g n : Nat) : State :=
  { s with
    counters := s.counters.filter fun c => !(c.1.2.1 == 0 && decide (g ≤ c.1.2.2) && decide (c.1.2.2 < g + n))
    badCtr := s.badCtr.filter fun c => !(c.2.1 == 0 && decide (g ≤ c.2.2) && decide (c.2.2 < g + n))
    recrypt := s.recrypt.filter fun c => decide (c.2 < g) || decide (g + n ≤ c.2)
    bad := s.bad.filter fun b => decide (b / 2048 < g) || decide (g + n ≤ b / 2048) }

/-- Granules whose key or counters are gone: no byte of theirs can be read any more, and each of their blocks fails
verification until it is written whole (R235, R270, R271; log entry 82). -/
def State.forget (s : State) (g n : Nat) : State :=
  let s1 := (s.zero (g * 0x20000) (n * 0x20000)).freshCounters g n
  { s1 with bad := s1.bad ++ (List.range (2048 * n)).map fun i => 2048 * g + i }

/-! ### The commands (R235) -/

/-- CREATE. -/
def State.vdCreateCmd (s : State) (n : Nat) : Nat × State :=
  let v := s.vd n
  let (c, r, w, h) := v.rectOf
  let tiles := rectTiles c r w h
  if v.st ≠ .none then (2, s)
  else if 64 < c + w || 64 < r + h || s.vds.toList.any (fun o => tiles.any o.owns) then (3, s)
  else if bits v.hslots 0 16 < 2 * (w * h) || Config.hbmSize < (v.hatFirst + v.hatGranules) * 0x20000 ||
      (List.range v.hatGranules).any (fun i => s.taken (v.hatFirst + i)) then (4, s)
  else
    let s := { s with keys := (n, s.tick) :: s.keys.filter (fun k => k.1 != n), tick := s.tick + 1 }
    let s := (s.zero (v.hatFirst * 0x20000) (v.hatGranules * 0x20000)).freshCounters v.hatFirst v.hatGranules
    (0, (s.scrubAll tiles).updVd n fun v =>
      { v with st := .created, gen := 0, frozen := false, bars := Vector.replicate 16 {}, barSel := 0, colls := [] })

/-- The granules named by VDGBASE and VDGCOUNT: felt or not, the first, how many. -/
def State.granules (s : State) : Bool × Nat × Nat :=
  let felt := s.vdgbase.getLsbD 0
  let base := bits s.vdgbase 12 36 * 4096
  (felt, if felt then (base - Config.feltBase) / 0x200000 else base / 0x20000, s.vdgcount.toNat)

/-- Statuses 1 and 4 of GRANT and REVOKE: alignment, N, and the range. -/
def State.granuleStatus (s : State) : Nat :=
  let base := bits s.vdgbase 12 36 * 4096
  let n := s.vdgcount.toNat
  let sz := if s.vdgbase.getLsbD 0 then 0x200000 else 0x20000
  if n = 0 || base % sz ≠ 0 then 1
  else if s.vdgbase.getLsbD 0 then
    (if base < Config.feltBase || Config.feltBase + 8 * 2 ^ 30 < base + n * sz then 4 else 0)
  else if Config.hbmSize < base + n * sz then 4 else 0

/-- Ascending insertion. -/
def insertAsc (l : List Nat) (x : Nat) : List Nat :=
  match l with
  | [] => [x]
  | y :: r => if x < y then x :: y :: r else if x = y then y :: r else y :: insertAsc r x

/-- GRANT. -/
def State.vdGrantCmd (s : State) (n : Nat) : Nat × State :=
  let v := s.vd n
  let (felt, g, k) := s.granules
  let st := s.granuleStatus
  if st = 1 then (1, s)
  else if v.st ≠ .created && v.st ≠ .running then (2, s)
  else if st ≠ 0 then (st, s)
  else if felt then
    if (List.range k).any fun i => s.vds.toList.any fun o => o.felt.contains (g + i) then (5, s)
    else (0, (s.zero (Config.feltBase + g * 0x200000) (k * 0x200000)).updVd n fun v =>
      { v with felt := (List.range k).foldl (fun l i => insertAsc l (g + i)) v.felt })
  else if (List.range k).any fun i => s.taken (g + i) then (5, s)
  else (0, ((s.zero (g * 0x20000) (k * 0x20000)).freshCounters g k).updVd n fun v =>
    { v with hbm := (List.range k).foldl (fun l i => insertAsc l (g + i)) v.hbm })

/-- REVOKE. -/
def State.vdRevokeCmd (s : State) (n : Nat) : Nat × State :=
  let v := s.vd n
  let (felt, g, k) := s.granules
  let st := s.granuleStatus
  if st = 1 then (1, s)
  else if v.st = .none then (2, s)
  else if st ≠ 0 then (st, s)
  else if felt then
    if (List.range k).any fun i => !v.felt.contains (g + i) then (5, s)
    else (0, (s.zero (Config.feltBase + g * 0x200000) (k * 0x200000)).updVd n fun v =>
      { v with felt := v.felt.filter fun x => decide (x < g) || decide (g + k ≤ x) })
  else if (List.range k).any fun i => !v.hbm.contains (g + i) || s.windowHolds (g + i) then (5, s)
  else (0, (s.forget g k).updVd n fun v =>
    { v with hbm := v.hbm.filter fun x => decide (x < g) || decide (g + k ≤ x) })

/-- The dispatcher of a VD runs on its steward tile. -/
def State.hasDispatcher (s : State) (n : Nat) : Bool :=
  match (s.tileAt (s.vd n).steward).core.task with
  | some k => k.role == .dispatcher && k.vd == n
  | none => false

/-- START: the dispatcher starts in S mode at VDDISP (R54, R235). -/
def State.vdStartCmd (s : State) (n : Nat) : Nat × State :=
  let v := s.vd n
  if v.disp.toNat % 8 ≠ 0 || !s1rootOk v.s1init then (1, s)
  else if v.st ≠ .created && !(v.st = .running && !s.hasDispatcher n) then (2, s)
  else if !v.s2root.getLsbD 0 then (7, s)
  else
    let t := v.steward
    let s := (s.writeS1root n v.s1init).updVd n fun v => { v with st := .running }
    let s := s.updCore t fun c =>
      { c.begin v.disp #v[BitVec.ofNat 64 n, 0, 0, 0] .s 0 0 { role := .dispatcher, vd := n } with
        owner := some (n, v.gen), lastOwner := some n }
    -- DSTOP and its cause leave the status pair (R282)
    (0, s.status (fnOf n) false false 0)

/-- Writes of a VD that have left an order buffer, are not performed, and are younger than 1 ms (R256). -/
def State.vdWritesOut (s : State) (n : Nat) : Bool :=
  s.accs.any fun a => a.vd == n && (a.st == AccStat.queued || a.st == AccStat.arrived) &&
    decide (s.cycle < a.born + 700000) && (match a.kind with
      | .load | .fence _ => false
      | _ => true)

/-- A FRZ that waits for a killed region has lost it (R371). -/
def State.settleKilled (s : State) (r : Nat) : State :=
  { s with frozenBy := s.frozenBy.map fun (q : Nat × Nat × Nat) => if q.2.1 = r then (q.1, r, 2) else q }

/-- Killing every region of a list. -/
def State.killAll (s : State) : List Nat → State
  | [] => s
  | r :: l => ((s.kill r).updRegion r fun x => { x with st := .done, hat := none, killed := none }).settleKilled r |>.killAll l

/-- The numbers of a VD's regions. -/
def State.regionsOf (s : State) (n : Nat) : List Nat :=
  (List.range s.regions.length).filter fun r => (s.region r).any fun x => x.vd == n

/-- DESTROY, first part: the regions and the dispatcher are killed without notify writes. -/
def State.vdKillAll (s : State) (n : Nat) : State :=
  let s := s.killAll (s.regionsOf n)
  let s := (s.updCore (s.vd n).steward fun c =>
    match c.task with
    | some k => if k.vd = n then c.release else c
    | none => c)
  (({ s with
    accs := s.accs.filter fun (a : Access) => !(a.vd == n && a.droppedByKill)
    posted := s.posted.filter fun (p : Posted) => p.fn != n + 1
    threads := s.threads.filter fun (t : Thread) => t.vd != n } : State).abortReads (n + 1)).orphan fun a => a.vd == n

/-- Wheel slots of a VD lose their owner (R235). -/
def disown (n : Nat) (w : BitVec 2048) : Nat → BitVec 2048
  | 0 => w
  | i + 1 =>
    let w := disown n w i
    if (w.extractLsb' (8 * i) 8).toNat = 128 + n then w &&& ~~~((0xFF : BitVec 2048) <<< (8 * i)) else w

/-- Every granule of a list is forgotten. -/
def State.forgetAll (s : State) : List Nat → State
  | [] => s
  | g :: r => (s.forget g 1).forgetAll r
def State.zeroFelt (s : State) : List Nat → State
  | [] => s
  | g :: r => (s.zero (Config.feltBase + g * 0x200000) 0x200000).zeroFelt r

/-- DESTROY, last part: key, counters, granules, wheel slots and tiles. -/
def State.vdErase (s : State) (n : Nat) : State :=
  let v := s.vd n
  let s := ((s.forgetAll v.hbm).forget v.hatFirst v.hatGranules).zeroFelt v.felt
  let s := { s with
    keys := s.keys.filter fun k => k.1 != n
    wheels := s.wheels.map fun (w : (Nat × Nat) × BitVec 2048) => (w.1, disown n w.2 256)
    wheelsNext := s.wheelsNext.map fun (w : (Nat × Nat) × BitVec 2048) => (w.1, disown n w.2 256)
    notifyDue := s.notifyDue.filter fun x => x.1 != n }
  (s.scrubAll v.tiles).updVd n fun v =>
    { v with
      st := .none, hbm := [], felt := [], frozen := false, s1root := 0, tlbctl := 0
      bars := Vector.replicate 16 {}, barSel := 0, colls := [] }

/-- DESTROY: none while writes that have left an order buffer are still to be performed (R235, R256). -/
def State.vdDestroyCmd (s : State) (n : Nat) : Option (Nat × State) :=
  let v := s.vd n
  if v.st = .none then some (2, s)
  else if s.wins.toList.any fun x => x.st != .free && (x.owner == n || x.peer == n) then some (6, s)
  else
    let s := s.vdKillAll n
    if s.vdWritesOut n then none else some (0, s.vdErase n)

/-- A command of VDCMD on the selected VD; the state after its first part when it is not yet complete. -/
def State.vdCommand (s : State) (op n : Nat) : Bool × State :=
  let fin (r : Nat × State) : Bool × State :=
    (true, { r.2 with vdOp := BitVec.ofNat 4 op, vdStatus := BitVec.ofNat 4 r.1 })
  match op with
  | 1 => fin (s.vdCreateCmd n)
  | 2 => fin (s.vdGrantCmd n)
  | 3 => fin (s.vdRevokeCmd n)
  | 4 => fin (s.vdStartCmd n)
  | _ =>
    match s.vdDestroyCmd n with
    | some r => fin r
    | none => (false, s.vdKillAll n)

/-- A command as written by a core, or by none for the device itself: commands take effect one after another, and one in
progress keeps its VD whatever VDSEL becomes (R235). The flag says that it has completed; none while another is in
progress. -/
def State.vdTurn (s : State) (who : Option Nat) (op n : Nat) : Option (Bool × State) :=
  match s.vdBusy with
  | some (w, m) =>
    if w ≠ who then none
    else
      let r := s.vdCommand 5 m
      some (r.1, if r.1 then { r.2 with vdBusy := none } else r.2)
  | none =>
    let r := s.vdCommand op n
    some (r.1, if r.1 then r.2 else { r.2 with vdBusy := some (who, n) })

end Sys2Proof.Machine
end

