-- ==== Sys2Proof/Machine/SReg.lean ====
section
/-!
DEFINITION. The state registers (R49, R50, R194, R234, R242, R275, R287): what a read returns and what a write does,
for the core of any tile, so that SRD, SWR and the register slots of a tile window share them (R59).
-/
namespace Sys2Proof.Machine

/-- 64 bits of a number. -/
def w64 (n : Nat) : Word := BitVec.ofNat 64 n
def wbit (b : Bool) (i : Nat) : Nat := if b then 2 ^ i else 0

/-! ### Barriers (R50) -/

/-- The barriers that a tile's tasks use: of its region, or of its VD's steward tile. -/
inductive BarHome where
  | region (r : Nat)
  | steward (vd : Nat)
  deriving DecidableEq, Repr

def State.barHome (s : State) (t : Nat) : BarHome :=
  match s.regionAt t with
  | some r => .region r
  | none => .steward (s.tileAt t).core.ofVd

def State.barSelOf (s : State) : BarHome → BitVec 4
  | .region r => match s.region r with
    | some x => x.barSel
    | none => 0
  | .steward v => (s.vd v).barSel

def State.barrier (s : State) (h : BarHome) (n : BitVec 4) : Barrier :=
  match h with
  | .region r => match s.region r with
    | some x => x.bars[n.toFin]
    | none => {}
  | .steward v => (s.vd v).bars[n.toFin]

def State.setBarrier (s : State) (h : BarHome) (n : BitVec 4) (b : Barrier) : State :=
  match h with
  | .region r => s.updRegion r fun x => { x with bars := x.bars.set n.toFin b }
  | .steward v => s.updVd v fun x => { x with bars := x.bars.set n.toFin b }

def State.selBarrier (s : State) (h : BarHome) (n : BitVec 4) : State :=
  match h with
  | .region r => s.updRegion r fun x => { x with barSel := n }
  | .steward v => s.updVd v fun x => { x with barSel := n }

/-- A write to BARCNT: the selection and the count, which waits while an episode has arrivals (R50). -/
def State.writeBarcnt (s : State) (t : Nat) (x : Word) : State :=
  let h := s.barHome t
  let n := BitVec.ofNat 4 (bits x 0 4)
  let c := BitVec.ofNat 13 (bits x 16 13)
  let b := s.barrier h n
  (s.selBarrier h n).setBarrier h n (if b.arrivals = 0 then { b with count := c, next := none } else { b with next := some c })

/-- BARCNT as SRD returns it: the count in force, not one that waits for the next episode (R50; log entry 88). -/
def State.readBarcnt (s : State) (t : Nat) : Word :=
  let h := s.barHome t
  let n := s.barSelOf h
  let b := s.barrier h n
  w64 (n.toNat + b.count.toNat * 2 ^ 16 + b.arrivals % 2 ^ 16 * 2 ^ 32)

/-! ### Wheels (R240, R242) -/

def wheelGet (l : List ((Nat × Nat) × BitVec 2048)) (k : Nat × Nat) : Option (BitVec 2048) :=
  (l.find? fun x => x.1 == k).map Prod.snd

/-- Type and index that WHSEL selects. -/
def State.whKey (s : State) : Nat × Nat := (s.whsel.toNat / 2 ^ 12 % 16, s.whsel.toNat % 2 ^ 12)

/-- A wheel as it stands in the current revolution. -/
def State.wheel (s : State) (k : Nat × Nat) : BitVec 2048 :=
  let now := (wheelGet s.wheels k).getD 0
  if s.wheelsAt < s.cycle / 1024 then (wheelGet s.wheelsNext k).getD now else now

/-- A wheel as WHDATA reads and writes it: with what takes effect next. -/
def State.wheelSet (s : State) (k : Nat × Nat) : BitVec 2048 :=
  (wheelGet s.wheelsNext k).getD (s.wheel k)

/-- A write to WHDATA: eight slots of the selected wheel and group from the next revolution. -/
def State.writeWhdata (s : State) (x : Word) : State :=
  let rev := s.cycle / 1024
  let s := if s.wheelsAt < rev then
      { s with
        wheels := s.wheelsNext ++ s.wheels.filter fun (w : (Nat × Nat) × BitVec 2048) => (wheelGet s.wheelsNext w.1).isNone
        wheelsNext := [], wheelsAt := rev }
    else s
  let k := s.whKey
  let g := s.whsel.toNat / 2 ^ 16 % 32
  let old := s.wheelSet k
  let new := (old &&& ~~~((BitVec.allOnes 64).setWidth 2048 <<< (64 * g))) ||| (x.setWidth 2048 <<< (64 * g))
  { s with wheelsNext := (k, new) :: s.wheelsNext.filter fun (w : (Nat × Nat) × BitVec 2048) => w.1 != k }

/-- A legal wheel selection (R242). -/
def whselOk (x : Word) : Bool :=
  let i := bits x 0 12
  bits x 21 43 == 0 && (match bits x 12 4 with
    | 0 => decide (i < 32)
    | 1 => decide (i < 64) && i / 8 != i % 8
    | 2 => decide (i < 2)
    | _ => false)

/-- A legal value of WHDATA: bits 6 and 5 of each entry are 0. -/
def whdataOk (x : Word) : Bool := x &&& 0x6060606060606060 == 0

/-! ### Reading (R49) -/

/-- VDCMD as read: the state, the last status and command (R234). -/
def VdState.code : VdState → Nat
  | .none => 0
  | .created => 1
  | .running => 2
  | .fenced => 3

def WinState.code : WinState → Nat
  | .free => 0
  | .offered => 1
  | .accepted => 2
  | .installing => 3
  | .live => 4
  | .closing => 5
  | .closed => 6

def Lvl.code : Lvl → Nat
  | .u => 0
  | .s => 1
  | .h => 2

/-- TIME (R49, R287). -/
def State.time (s : State) : Word := w64 (s.cycle * 10 / 7) + s.timebase

/-- ASTAT: V, D and F of each accumulator (R47). -/
def Core.astat (c : Core) : Nat :=
  (List.range 8).foldl (fun n i =>
    let r : AReg := Fin.ofNat 8 i
    n + wbit (c.rdA r).v (3 * i) + wbit (c.rdA r).d (3 * i + 1) + wbit (c.fBit r) (3 * i + 2)) 0

/-- The selected window's record; nothing for 0 (R275). -/
def State.winRec (s : State) : Window := if s.winsel = 0 then {} else s.wins.toList.getD s.winsel.toNat {}

/-- The value of a state register of tile t. What TASKID, TILEID and VDID read on a service core, and the generation in
TASKID outside a region, are the model's choice (log entry 87). -/
def State.srRead (s : State) (t : Nat) (n : Nat) : Word :=
  let c := (s.tileAt t).core
  let x := s.regionAt t >>= s.region
  let v := s.vd c.ofVd
  let d := s.vd s.vdsel.toNat
  match n with
  | 0x000 => w64 (t % 4096 + (match x with | some r => r.gen.toNat * 2 ^ 12 | none => 0))
  | 0x001 => w64 (t % 64 + t / 64 % 64 * 2 ^ 8)
  | 0x002 => match x with
    | some r => match r.place with
      | some (col, row) => w64 (col + row * 2 ^ 8 + r.w * 2 ^ 16 + r.h * 2 ^ 24)
      | none => 0
    | none => 0
  | 0x003 => w64 (c.ofVd % 32)
  | 0x004 => w64 (c.lvl.code + wbit c.inH 8)
  | 0x010 => c.fmode.setWidth 64
  | 0x011 => c.fstat.setWidth 64
  | 0x020 => match c.loops with
    | l :: _ => w64 (c.loops.length + l.count.toNat * 2 ^ 32)
    | [] => 0
  | 0x021 => w64 (c.rpCount.toNat + wbit c.rpPend 6)
  | 0x030 => w64 s.cycle
  | 0x031 => s.time
  | 0x040 => c.cause.setWidth 64
  | 0x041 => c.epc
  | 0x042 => c.eval
  | 0x043 => c.estep
  | 0x044 => c.trapv
  | 0x050 => w64 c.astat
  | 0x051 => c.tbPend.setWidth 64
  | 0x060 => s.readBarcnt t
  | 0x070 => v.s1root
  | 0x071 => v.tlbctl
  | 0x080 => c.slotcls.setWidth 64
  | 0x100 => s.whsel.setWidth 64
  | 0x101 => (s.wheelSet s.whKey).extractLsb' (64 * (s.whsel.toNat / 2 ^ 16 % 32)) 64
  | 0x102 => w64 ((s.vd s.c0vd.toNat).c0lim.toNat + s.c0vd.toNat * 2 ^ 32)
  | 0x110 => s.pwrnow.setWidth 64
  | 0x111 => s.tempmax.setWidth 64
  | 0x112 => s.pcap.setWidth 64
  | 0x113 => s.throt.setWidth 64
  | 0x114 => s.cecnt
  | 0x115 => s.timebase
  | 0x120 => s.vdsel.setWidth 64
  | 0x121 => d.rect
  | 0x122 => d.s2root
  | 0x123 => d.s1init
  | 0x124 => d.hatbox
  | 0x125 => d.hslots
  | 0x126 => d.disp
  | 0x127 => s.vdgbase
  | 0x128 => s.vdgcount.setWidth 64
  | 0x129 => w64 (s.vdOp.toNat + s.vdStatus.toNat * 2 ^ 4 + d.st.code * 2 ^ 8)
  | 0x130 => s.winsel.setWidth 64
  | 0x131 =>
    let r := s.winRec
    w64 (r.st.code + r.owner * 2 ^ 8 + r.peer * 2 ^ 16 + wbit r.w 24 + r.count.toNat % 2 ^ 32 * 2 ^ 32)
  | 0x132 => s.winRec.start
  | 0x133 => s.winRec.base
  | _ => 0

/-! ### Writing (R49, R59) -/

/-- Registers that only S and H reach, and those only H reaches. -/
def srLevel (n : Nat) : Lvl :=
  if 0x100 ≤ n then .h else if n = 0x044 ∨ n = 0x060 ∨ n = 0x070 ∨ n = 0x071 then .s else .u

/-- A level reaches a register. -/
def srReach (l : Lvl) (n : Nat) : Bool := decide ((srLevel n).code ≤ l.code)

/-- The levels at which SRD and SWR of a register execute (R49, R53). -/
def srModes (n : Nat) : Modes :=
  match srLevel n with
  | .u => .all
  | .s => .sh
  | .h => .h

/-- A register that ignores writes at a level (R49). -/
def srReadOnly (l : Lvl) (n : Nat) : Bool :=
  if n = 0x010 ∨ n = 0x011 ∨ n = 0x044 ∨ n = 0x060 ∨ n = 0x070 ∨ n = 0x071 ∨ n = 0x080 then false
  else if 0x040 ≤ n ∧ n ≤ 0x043 then l == .u
  else if n < 0x100 then true
  else n == 0x110 || n == 0x111 || n == 0x131 || n == 0x132 || n == 0x133

/-- A value that R49 accepts: no must-be-0 bit, no reserved field value. -/
def srValueOk (n : Nat) (x : Word) : Bool :=
  match n with
  | 0x010 => decide (x.toNat < 4)
  | 0x011 => decide (x.toNat < 64)
  | 0x041 | 0x044 => bits x 0 3 == 0
  | 0x060 => bits x 4 12 == 0 && bits x 29 35 == 0 && decide (bits x 16 13 ≤ 4096)
  | 0x043 => bits x 32 31 == 0
  | 0x070 => s1rootOk x
  | 0x071 => decide (x.toNat < 2)
  | 0x100 => whselOk x
  | 0x101 => whdataOk x
  | 0x102 => bits x 37 27 == 0 && bits x 16 16 == 0
  | 0x112 => bits x 16 48 == 0
  | 0x120 => decide (x.toNat < 32)
  | 0x121 => bits x 30 34 == 0 && bits x 22 2 == 0 && bits x 14 2 == 0 && bits x 6 2 == 0
  | 0x122 | 0x127 => bits x 48 16 == 0 && bits x 1 11 == 0
  | 0x124 => bits x 48 16 == 0 && bits x 0 17 == 0
  | 0x125 => bits x 16 48 == 0
  | 0x128 => bits x 32 32 == 0
  | 0x129 => bits x 12 52 == 0 && decide (1 ≤ bits x 0 4) && decide (bits x 0 4 ≤ 5)
  | 0x130 => decide (x.toNat < 97)
  | _ => true

/-- A write to C0LIM (R242). -/
def State.writeC0lim (s : State) (x : Word) : State :=
  ({ s with c0vd := BitVec.ofNat 5 (bits x 32 5) } : State).updVd (bits x 32 5) fun v =>
    { v with c0lim := BitVec.ofNat 16 (bits x 0 16) }

/-- A write to TIMEBASE, ignored from stage 5 on (R287). -/
def State.writeTimebase (s : State) (x : Word) : State := if 5 ≤ s.stage then s else { s with timebase := x }

/-- A write to THROT clears the bits that it writes as 1 (R287). -/
def State.clearThrot (s : State) (x : Word) : State := { s with throt := s.throt &&& ~~~(x.setWidth 2) }

/-- A register of the selected VD that CREATE reads changes in state NONE only (R234). -/
def State.writeIdleVd (s : State) (f : Vd → Vd) : State :=
  s.updVd s.vdsel.toNat fun v => if v.st = .none then f v else v

/-- A legal write to a state register of tile t, as it comes from elsewhere; a command of VDCMD takes its turn, and one that
is not complete goes on as VD_DESTROY (R235). -/
def State.srWrite (s : State) (t : Nat) (n : Nat) (x : Word) : State :=
  let core (f : Core → Core) := s.updCore t f
  let vd := (s.tileAt t).core.ofVd
  match n with
  | 0x010 => core fun c => { c with fmode := x.setWidth 3 }
  | 0x011 => core fun c => { c with fstat := x.setWidth 6 }
  | 0x040 => core fun c => { c with cause := x.setWidth 8 }
  | 0x041 => core fun c => { c with epc := x }
  | 0x042 => core fun c => { c with eval := x }
  | 0x043 => core fun c => { c with estep := x }
  | 0x044 => core fun c => { c with trapv := x }
  | 0x060 => s.writeBarcnt t x
  | 0x070 => s.writeS1root vd x
  | 0x071 => s.updVd vd fun v => { v with tlbctl := x }
  | 0x080 => core fun c => { c with slotcls := x.setWidth 2 }
  | 0x100 => { s with whsel := x.setWidth 21 }
  | 0x101 => s.writeWhdata x
  | 0x102 => s.writeC0lim x
  | 0x112 => { s with pcap := x.setWidth 16 }
  | 0x113 => s.clearThrot x
  | 0x114 => { s with cecnt := x }
  | 0x115 => s.writeTimebase x
  | 0x120 => { s with vdsel := x.setWidth 5 }
  | 0x121 => s.writeIdleVd fun v => { v with rect := x }
  | 0x122 => s.writeS2root s.vdsel.toNat x
  | 0x123 => s.updVd s.vdsel.toNat fun v => { v with s1init := x }
  | 0x124 => s.writeIdleVd fun v => { v with hatbox := x }
  | 0x125 => s.writeIdleVd fun v => { v with hslots := x }
  | 0x126 => s.updVd s.vdsel.toNat fun v => { v with disp := x }
  | 0x127 => { s with vdgbase := x }
  | 0x128 => { s with vdgcount := x.setWidth 32 }
  | 0x129 => (s.vdTurn none (bits x 0 4) s.vdsel.toNat).elim s Prod.snd
  | 0x130 => { s with winsel := x.setWidth 7 }
  | _ => s

end Sys2Proof.Machine
end

