-- ==== Sys2Proof/Machine/Slots.lean ====
section
/-!
DEFINITION. The tile window (R46, R47, R58 to R60, R177, R187, R188): what lies at each offset, which accesses it
takes, and what an 8-byte read or write of it does.
-/
namespace Sys2Proof.Machine

/-- What an offset of a tile window maps. -/
inductive Area where
  | store | regs | element | bound | ports | nothing
  deriving DecidableEq, Repr

def inRange (o lo n : Nat) : Bool := decide (lo ≤ o) && decide (o < lo + n)

/-- The area of an offset (R187); state registers that do not exist map nothing. -/
def areaOf (o : Nat) : Area :=
  if o < Config.tileStore then .store
  else if inRange o 0x400000 0x100 || inRange o 0x401000 0x800 || inRange o 0x402000 0x40 || inRange o 0x403000 0x40 ||
      inRange o 0x404000 0x2000 then .regs
  else if inRange o 0x408000 0x8000 then
    (if srnListed.contains (BitVec.ofNat 12 ((o - 0x408000) / 8)) then .regs else .nothing)
  else if inRange o 0x500000 0xE000 then .element
  else if inRange o 0x50E000 1032 then .bound
  else if inRange o 0x600000 0x10000 then .ports
  else .nothing

/-- The area as an access of tile t's window meets it: boundary tables lie in crown tiles only (R177). -/
def State.area (s : State) (t o : Nat) : Area :=
  match areaOf o with
  | .bound =>
    (match s.regionAt t >>= s.region with
     | some x => if x.crown = t then .bound else .nothing
     | none => .nothing)
  | a => a

/-- The rules of R58 for an access of n bytes; vec marks a vector access. None when it may go on. -/
def areaCheck (a : Area) (u : Use) (n : Nat) (vec : Bool) : Option (BitVec 8) :=
  match a with
  | .store => none
  | .nothing => some cPermission
  | .regs | .bound =>
    if u = .atomic then some cAtomicKind else if n ≠ 8 || vec then some cMisaligned else none
  | .element | .ports =>
    if u = .write then some cPermission else if u = .atomic then some cAtomicKind
    else if n ≠ 8 || vec then some cMisaligned else none

/-- An access to a state register slot by a level that does not reach the register (R49, R59). -/
def slotRefused (o : Nat) (l : Lvl) : Bool :=
  inRange o 0x408000 0x8000 && !srReach l ((o - 0x408000) / 8)

/-- A store to a slot that its level only reads: it retires and writes nothing (R49, R59). -/
def slotIgnored (o : Nat) (l : Lvl) : Bool :=
  inRange o 0x408000 0x8000 && srReadOnly l ((o - 0x408000) / 8)

/-! ### Tokens in the layout of R46 -/

def Kind.code : Kind → Nat
  | .data => 0
  | .bubble => 1
  | .mark => 2
  | .param => 3
def Kind.ofCode (n : Nat) : Kind :=
  match n with
  | 0 => .data
  | 1 => .bubble
  | 2 => .mark
  | _ => .param

/-- The metadata word of a token (R46). -/
def Token.meta (t : Token) : Word :=
  w64 (t.valid.toNat + wbit t.lr 16 + wbit t.ls 17 + t.kind.code * 2 ^ 18 + t.tag.toNat * 2 ^ 20 + t.fmt.toNat * 2 ^ 32)

/-- A token with the metadata of a word. -/
def Token.withMeta (t : Token) (x : Word) : Token :=
  { t with
    valid := x.setWidth 16, lr := x.getLsbD 16, ls := x.getLsbD 17, kind := Kind.ofCode (bits x 18 2)
    tag := x.extractLsb' 20 12, fmt := x.extractLsb' 32 5 }

/-- A doubleword of a token slot at a byte offset (R46). -/
def Token.slotWord (t : Token) (o : Nat) : Word :=
  if o < 64 then t.lanes.extractLsb' (8 * o) 64 else if o = 64 then t.meta else 0

/-- A token slot after a doubleword has been written to it; a reserved FMT makes the write void (R59). -/
def Token.setSlotWord (t : Token) (o : Nat) (x : Word) : Token :=
  if o < 64 then
    { t with lanes := (t.lanes &&& ~~~((BitVec.allOnes 64).setWidth 512 <<< (8 * o))) ||| (x.setWidth 512 <<< (8 * o)) }
  else if o = 64 && bits x 32 5 ≤ 0x14 then t.withMeta x
  else t

/-! ### Ports (R60, R124) -/

/-- Bits [lo, lo + n) of a frame. -/
def fbits (f : BitVec 256) (lo n : Nat) : Nat := (f.extractLsb' lo n).toNat

/-- Source of core input port p (R136). -/
def Fabric.portSource (x : Fabric) (p : Nat) : Nat := fbits x.sw[3] (126 - 6 * p) 6

/-- The source codes that the switch of a tile names (R136). -/
def Fabric.sources (x : Fabric) : List Nat :=
  ((List.range 8).map fun i => fbits x.sw[0] (234 - 30 * i) 6) ++
  ((List.range 8).map fun i => fbits x.sw[1] (234 - 30 * i) 6) ++
  ((List.range 16).map fun j => fbits x.sw[2] (234 - 6 * j) 6) ++
  ((List.range 4).map fun k => fbits x.sw[2] (138 - 6 * k) 6) ++
  ((List.range 16).map fun j => fbits x.sw[3] (234 - 6 * j) 6) ++
  [fbits x.sw[3] 138 6, fbits x.sw[3] 132 6] ++
  ((List.range 8).map fun p => fbits x.sw[3] (126 - 6 * p) 6)

/-- A core port is bound (R124): 0 to 7 inputs, 8 to 15 outputs. -/
def Fabric.bound (x : Fabric) (p : Nat) : Bool :=
  if p < 8 then x.portSource p != 0 else x.sources.contains (35 + (p - 8))

/-- The tokens queued at a core port. -/
def Fabric.portQueue (x : Fabric) (p : Nat) : List Token :=
  if p < 8 then x.inQ.toList.getD p [] else x.outQ.toList.getD (p - 8) []

/-! ### Reading and writing (R45 to R47, R59) -/

/-- A doubleword of an accumulator slot (R47). -/
def Acc.slotWord (a : Acc) (o : Nat) : Word :=
  a.el.toList.getD (o / 4 + 1) 0 ++ a.el.toList.getD (o / 4) 0
def Acc.setSlotWord (a : Acc) (o : Nat) (x : Word) : Acc :=
  { el := (a.el.setIfInBounds (o / 4) (x.setWidth 32)).setIfInBounds (o / 4 + 1) (x.extractLsb' 32 32), v := true, d := true }

/-- A doubleword of a table slot: four entries (R45). -/
def tableWord (t : BitVec 256) (o : Nat) : Word := t.extractLsb' (8 * o) 64
def setTableWord (t : BitVec 256) (o : Nat) (x : Word) : BitVec 256 :=
  (t &&& ~~~((BitVec.allOnes 64).setWidth 256 <<< (8 * o))) ||| (x.setWidth 256 <<< (8 * o))

/-- The doubleword at an aligned offset of tile t's window outside the tile store. -/
def State.slotRead (s : State) (t o : Nat) : Word :=
  let x := s.tileAt t
  let c := x.core
  if inRange o 0x400000 0x100 then c.rdG (Fin.ofNat 32 ((o - 0x400000) / 8))
  else if inRange o 0x401000 0x800 then (c.rdV (Fin.ofNat 16 ((o - 0x401000) / 128))).slotWord ((o - 0x401000) % 128)
  else if inRange o 0x402000 0x40 then w64 (wbit (c.rdP (Fin.ofNat 8 ((o - 0x402000) / 8))) 0)
  else if inRange o 0x403000 0x40 then
    tableWord (c.tb.toList.getD ((o - 0x403000) / 32) 0) ((o - 0x403000) % 32)
  else if inRange o 0x404000 0x2000 then
    (c.rdA (Fin.ofNat 8 ((o - 0x404000) / 1024))).slotWord ((o - 0x404000) % 1024)
  else if inRange o 0x408000 0x8000 then s.srRead t ((o - 0x408000) / 8)
  else if inRange o 0x500000 0xE000 then
    let k := (o - 0x500000) / 0x1000
    let b := (o - 0x500000) % 0x1000
    let f : BitVec 256 :=
      if k < 4 then (if b < 32 then (x.fab.slots.toList.getD k {}).frame else 0)
      else if k < 8 then (if b < 32 then (x.fab.mus.toList.getD (k - 4) {}).frame else 0)
      else if k < 12 then
        let a := x.fab.ags.toList.getD ((k - 8) / 2) {}
        if k % 2 = 0 then (if b < 32 then a.f0 else if b < 64 then a.f1 else 0) else 0
      else if k = 12 && b < 128 then x.fab.sw.toList.getD (b / 32) 0
      else 0
    f.extractLsb' (8 * (b % 32)) 64
  else if inRange o 0x50E000 1032 then
    match s.regionAt t >>= s.region with
    | some r =>
      let b := o - 0x50E000
      if b < 0x200 then r.entryTab.extractLsb' (8 * b) 64
      else if b < 0x400 then r.exitTab.extractLsb' (8 * (b - 0x200)) 64
      else r.btCtl.setWidth 64
    | none => 0
  else if inRange o 0x600000 0x10000 then
    let p := (o - 0x600000) / 0x1000
    let b := (o - 0x600000) % 0x1000
    let q := x.fab.portQueue p
    if b = 0xF00 then w64 (q.length % 16 + wbit (x.fab.bound p) 8)
    else if b < 1024 && b / 128 < q.length then (q.getD (b / 128) {}).slotWord (b % 128)
    else 0
  else 0

/-- A store to the boundary tables of tile t's region; a nonzero must-be-0 bit makes it void (R177). -/
def State.boundWrite (s : State) (t b : Nat) (x : Word) : State :=
  match s.regionAt t with
  | none => s
  | some r =>
    if b < 0x400 then
      if x &&& 0x7F007F007F007F00 ≠ 0 then s
      else
        let put (tab : BitVec 4096) (o : Nat) : BitVec 4096 :=
          (tab &&& ~~~((BitVec.allOnes 64).setWidth 4096 <<< (8 * o))) ||| (x.setWidth 4096 <<< (8 * o))
        s.updRegion r fun y =>
          if b < 0x200 then { y with entryTab := put y.entryTab b } else { y with exitTab := put y.exitTab (b - 0x200) }
    else if x.toNat < 4 then s.updRegion r fun y => { y with btCtl := x.setWidth 2 }
    else s

/-- A write to a doubleword at an aligned offset of tile t's window outside the tile store, as it lands at the
target (R59). The level has been judged at the writer. -/
def State.slotWrite (s : State) (t o : Nat) (x : Word) : State :=
  if inRange o 0x400000 0x100 then
    let r := (o - 0x400000) / 8
    s.updCore t fun c => if r = 0 then c else { c with g := c.g.setIfInBounds r x }
  else if inRange o 0x401000 0x800 then
    let r := (o - 0x401000) / 128
    s.updCore t fun c =>
      let y := (c.v.toList.getD r {}).setSlotWord ((o - 0x401000) % 128) x
      { c with v := c.v.setIfInBounds r y }
  else if inRange o 0x402000 0x40 then
    s.updCore t fun c => c.wrP (Fin.ofNat 8 ((o - 0x402000) / 8)) (x.getLsbD 0)
  else if inRange o 0x403000 0x40 then
    let r := (o - 0x403000) / 32
    s.updCore t fun c =>
      let y := setTableWord (c.tb.toList.getD r 0) ((o - 0x403000) % 32) x
      { c with tb := c.tb.setIfInBounds r y }
  else if inRange o 0x404000 0x2000 then
    let r : AReg := Fin.ofNat 8 ((o - 0x404000) / 1024)
    s.updCore t fun c =>
      if c.fBit r then { c with heldAcc := c.heldAcc ++ [(o - 0x404000, x)] }
      else c.wrA r ((c.rdA r).setSlotWord ((o - 0x404000) % 1024) x)
  else if inRange o 0x408000 0x8000 then
    let n := (o - 0x408000) / 8
    if srValueOk n x then s.srWrite t n x else s
  else if inRange o 0x50E000 1032 then s.boundWrite t (o - 0x50E000) x
  else s

/-- The held writes to accumulator slots whose F bit is clear land, in order (R59). -/
def landHeld (c : Core) : List (Nat × Word) → Core × List (Nat × Word)
  | [] => (c, [])
  | (o, x) :: r =>
    let a : AReg := Fin.ofNat 8 (o / 1024)
    if c.fBit a then
      let q := landHeld c r
      (q.1, (o, x) :: q.2)
    else landHeld (c.wrA a ((c.rdA a).setSlotWord (o % 1024) x)) r

/-- A core after its held writes have been looked at. -/
def Core.land (c : Core) : Core :=
  let q := landHeld c c.heldAcc
  { q.1 with heldAcc := q.2 }

end Sys2Proof.Machine
end

