-- ==== Sys2Proof/Machine/Access.lean ====
section
/-!
DEFINITION. Accesses: their checks at issue (R341, R423), their entry into an order buffer, when they may leave it
(R209 to R222), the wheels on their way (R240, R241), what they do at their home (R205, R343) and how a reply
reaches a register (R206, R208).
-/
namespace Sys2Proof.Machine

/-! ### Checks at issue (R341) -/

/-- The result of the checks: a place, a fault with EVAL the address, or a wait. -/
inductive Checked where
  | ok (p : Spot) (s : State)
  | fault (cause : BitVec 8)
  | wait

/-- Who a task on the core in focus is, for its data accesses (R191, R258). -/
def State.me (s : State) : Asker :=
  let c := s.core
  ⟨s.cur, c.vd, c.lvl == .u || c.inH, c.lvl == .h⟩

/-- The checks of an access of n bytes with the given alignment; vec marks a vector access, sc an SC access, and lvl
the privilege of the writer (R59). -/
def State.check (s : State) (k : Asker) (lvl : Lvl) (u : Use) (va : Word) (n align : Nat) (vec sc : Bool) : Checked :=
  if !canonical va then .fault cTranslation
  else if va.toNat % align ≠ 0 then .fault cMisaligned
  else match localOff va with
    | some off =>
      let a := s.area k.tile off
      match areaCheck a u n vec with
      | some e => .fault e
      | none =>
        if a = .regs && slotRefused off lvl then .fault cPermission
        else if a = .store && Config.tileStore < off + n then .fault cPermission
        else if u = .atomic && decide (Config.tiles ≤ k.tile) then .fault cAtomicKind
        else if sc then .fault cOrderKind
        else .ok ⟨localPa k.tile off, 1, 3, 0, va.toNat, 1⟩ s
    | none =>
      match s.translate k u va with
      | .error .wait => .wait
      | .error (.fault e) => .fault e
      | .ok (p, s') =>
        if p.kind = 3 && isTilePa p.pa then
          let (t, off) := tileOfPa p.pa
          let a := s.area t off
          match areaCheck a u n vec with
          | some e => .fault e
          | none =>
            if a = .regs && slotRefused off lvl then .fault cPermission
            else if a = .store && Config.tileStore < off + n then .fault cPermission
            else if u = .atomic && p.ord = 2 then .fault cAtomicKind
            else if sc then .fault cOrderKind else .ok p s'
        else if p.kind = 3 && !ioFits p.pa n then .fault cStage2Translation
        else if u = .atomic && (p.kind = 2 || p.kind = 3 || p.ord = 2) then .fault cAtomicKind
        else if sc && p.kind ≠ 0 then .fault cOrderKind
        else .ok p s'

/-- An access to the register slots, ports or element windows of the issuing tile takes effect in its turn (R59). -/
def ownSlots (t : Nat) (pa : Nat) : Bool :=
  isTilePa pa && (tileOfPa pa).1 == t && decide (Config.tileStore ≤ (tileOfPa pa).2)

/-- A store whose target ignores it (R49, R59). -/
def Spot.ignored (p : Spot) (lvl : Lvl) : Bool :=
  isTilePa p.pa && slotIgnored (tileOfPa p.pa).2 lvl

/-! ### Class and wheels (R51, R240, R241) -/

/-- The class of a request: that asked for, unless it ranks above the region's (R51). -/
def State.reqClass (s : State) (t : Nat) (asked : Nat) : BitVec 2 :=
  match s.regionAt t >>= s.region with
  | some x => BitVec.ofNat 2 (max asked x.aged)
  | none => BitVec.ofNat 2 asked

/-- Fabric die of a tile (R4). -/
def dieOf (t : Nat) : Nat := t / 64 / 16 * 2 + t % 64 / 32

/-- I/O die of a service core (R4). -/
def ioDieOf (t : Nat) : Nat := (t - Config.tiles) / 4

/-- The wheels on the path of an access from a tile or a service core: the port of the I/O die that a service core's
request leaves, the link between fabric dies, then the port of the stack, or that of IO0 for what is behind it (R240).
The tile mesh has no wheel (log entry 79). -/
def wheelPath (t pa : Nat) : List (Nat × Nat) :=
  let link (d : Nat) : List (Nat × Nat) := if t < Config.tiles && dieOf t ≠ d then [(1, 8 * dieOf t + d)] else []
  let out : List (Nat × Nat) := if Config.tiles ≤ t then [(2, ioDieOf t)] else []
  let io (d : Nat) : List (Nat × Nat) := if out = [(2, d)] then [] else out ++ [(2, d)]
  match homeOf pa with
  | .hbm st _ => out ++ link (st / 4) ++ [(0, st)]
  | .felt d _ => out ++ link d
  | .host | .io => io 0
  | .store h _ | .slots h => if Config.tiles ≤ h then io (ioDieOf h) else out

/-- Entry i of a wheel: its owner (R242). -/
def wheelOwner (w : BitVec 2048) (i : Nat) : Option Nat :=
  let e := (w.extractLsb' (8 * i) 8).toNat
  if 128 ≤ e then some (e % 32) else none

/-- A VD owns some slot of a wheel. -/
def ownsSlot (w : BitVec 2048) (v : Nat) : Bool := (List.range 256).any fun i => wheelOwner w i == some v

/-- The group of R241 in which a request stands in a slot; none when it may not use the slot. -/
def slotGroup (w : BitVec 2048) (i : Nat) (vd : Nat) (cls : BitVec 2) : Option Nat :=
  if wheelOwner w i = some vd then some (if cls = 0 then 0 else if cls = 1 then 1 else 2)
  else if 2 ≤ cls.toNat || !ownsSlot w vd then some 3
  else none

/-- The slot that every wheel is in (R240). -/
def State.slotNow (s : State) : Nat := s.cycle / 4 % 256

/-- Slots of this revolution in which a resource has served a region (R241). -/
def State.slotsGot (s : State) (k : Nat × Nat) (r : Nat) : Nat :=
  match s.wheelGot.find? fun x => x.1 == (k, r) with
  | some (_, rev, n) => if rev = s.cycle / 1024 then n else 0
  | none => 0

/-- A resource serves a request of a VD, a region and a group in the current slot. -/
def State.takeSlot (s : State) (k : Nat × Nat) (vd : Nat) (region : Option Nat) (group : Option Nat) : State :=
  { s with
    wheelUsed := (k, s.cycle / 4) :: s.wheelUsed.filter fun (x : (Nat × Nat) × Nat) => x.1 != k
    wheelLast := if group = some 3 then (k, vd) :: s.wheelLast.filter fun (x : (Nat × Nat) × Nat) => x.1 != k else s.wheelLast
    wheelGot := match region with
      | some r => ((k, r), s.cycle / 1024, s.slotsGot k r + 1) :: s.wheelGot.filter fun x => x.1 != (k, r)
      | none => s.wheelGot }

/-! ### Entering the order buffer (R206, R219, R220) -/

/-- An access enters the order buffer of its party. -/
def State.enterAccess (s : State) (a : Access) : State :=
  { s with accs := s.accs ++ [{ a with id := s.nextId }], nextId := s.nextId + 1 }

/-- The common fields of an access by the task in focus. -/
def State.taskAccess (s : State) (kind : AccKind) (va : Word) (p : Spot) (n : Nat) (o : Ord) (sp : Scope) : Access :=
  { id := 0, party := .task s.cur, vd := s.core.vd
    gen := match s.core.owner with
      | some x => x.2
      | none => 0
    region := s.regionAt s.cur, kind := kind, va := va, pa := p.pa, size := n, ord := o, scope := sp
    page := if o = .strm then 2 else p.ord, win := p.win
    cls := s.reqClass s.cur s.core.slotcls.toNat
    needs := wheelPath s.cur p.pa }

/-- An access of the party stands in its order buffer. -/
def State.accsOf (s : State) (p : Party) : List Access := s.accs.filter fun a => a.party == p

/-- The order buffer of the task in focus is empty: macro-ops (R110), and instructions that read and write memory in
their own turn, wait for it (log entry 7). -/
def State.drained (s : State) : Bool := (s.accsOf (.task s.cur)).isEmpty

/-! ### Scopes (R212) -/

/-- The tile from which a party issues. -/
def State.partyTile (s : State) (p : Party) : Nat :=
  match p with
  | .task t | .unit t _ | .gather t _ => t
  | .thread i => match s.threads.find? fun x => x.id == i with
    | some x => x.tile
    | none => 0
  | .inbound _ => 0

/-- The home of an access lies within a scope of its party (R212). -/
def State.inScope (s : State) (sp : Scope) (a : Access) : Bool :=
  let t := s.partyTile a.party
  let h := homeOf a.pa
  match sp with
  | .sys => true
  | .tile => h.tile == some t || (decide (Config.tiles ≤ t) && h == .io)
  | .rgn =>
    (match a.region >>= s.region, h.tile with
     | some x, some q => x.covers q
     | none, some q => q == t
     | _, none => false)
  | .vd =>
    a.win == 0 && (match h with
      | .host | .io => false
      | _ => true)

/-! ### Leaving the order buffer (R209 to R222) -/

def Access.reads (a : Access) : Bool :=
  match a.kind with
  | .load | .atom _ => true
  | _ => false
def Access.writes (a : Access) : Bool :=
  match a.kind with
  | .store | .atom _ => true
  | _ => false
def Access.isFence (a : Access) : Bool :=
  match a.kind with
  | .fence _ => true
  | _ => false
def Access.isPerformed (a : Access) : Bool := a.st == .performed
def Access.acquires (a : Access) : Bool := a.reads && (a.ord == .acq || a.ord == .ar)
def Access.releases (a : Access) : Bool := a.writes && (a.ord == .rel || a.ord == .ar)
/-- Where a region's notify word lies: in the tile of its parent task, while that holds its tile (R31, R39). -/
def State.notifyPa (s : State) (x : Region) : Option Nat :=
  match x.parent with
  | none => some (windowPa x.parentTile + x.notifyOff)
  | some (q, _) =>
    match s.region q with
    | some y => if y.place.isSome then some (windowPa (y.tileOf x.parentTile) + x.notifyOff) else none
    | none => none

/-- Where the notify word of the worker on a core lies (R35, R37). -/
def State.workerWord (s : State) (c : Core) : Option Nat :=
  match c.task with
  | some k => if k.role = .worker then (s.region k.region).map fun x => windowPa (x.tileOf k.caller) + k.notifyOff else none
  | none => none

/-- n bytes at an address meet m bytes at another. -/
def bytesMeet (pa n qa m : Nat) : Bool := decide (pa < qa + m) && decide (qa < pa + n)

/-- A completion or notify word that some thread, worker or region has yet to write meets n bytes at the address (R38,
R227). -/
def State.joinWord (s : State) (pa n : Nat) : Bool :=
  s.threads.any (fun t => bytesMeet pa n (localPa t.tile t.comp) 4) ||
  s.known.any (fun t => (s.workerWord (s.tileAt t).core).any fun q => bytesMeet pa n q 8) ||
  s.regions.any fun x => x.st != .done && (s.notifyPa x).any fun q => bytesMeet pa n q 8

def Access.overlaps (a b : Access) : Bool := bytesMeet a.pa a.size b.pa b.size

/-- A memory unit of the fabric: its accesses to one address are performed in order on every page (R127). -/
def Party.isUnit : Party → Bool
  | .unit _ _ => true
  | _ => false

/-- The function of an inbound party. -/
def Party.isInbound : Party → Bool
  | .inbound _ => true
  | _ => false

/-- Payload accesses of an engine thread and record reads of GATHER are mutually unordered (R203, R226). -/
def Party.unordered : Party → Bool
  | .thread _ | .gather _ _ => true
  | _ => false

/-- The earlier access or fence y holds the later access x of its party. -/
def State.holds (s : State) (y x : Access) : Bool :=
  match y.kind with
  | .fence .full => s.inScope y.scope x
  | .fence .rel => x.writes && s.inScope y.scope x
  | .fence .acq => x.ord != .strm && s.inScope y.scope x
  | .fence .fetch => false
  | _ =>
    (!y.isPerformed && (y.ord == .sc || x.ord == .sc)) ||
    (!y.isPerformed && y.acquires && x.ord != .strm && (s.inScope y.scope x || s.joinWord y.pa y.size)) ||
    (!y.isPerformed && x.releases && s.inScope x.scope y) ||
    (let k := min y.page.toNat x.page.toNat
     x.ord != .strm && y.ord != .strm && (k == 0 || ((k == 1 || x.party.isUnit) && y.overlaps x)))

/-- The condition under which a fence leaves, over an earlier access y (R222). -/
def State.fenceHeld (s : State) (k : FenceKind) (sp : Scope) (y : Access) : Bool :=
  !y.isFence && !y.isPerformed && s.inScope sp y && (match k with
    | .full | .rel => true
    | .acq => y.reads
    | .fetch => y.writes)

/-- The accesses of a's party that were issued before it. -/
def earlier (l : List Access) (a : Access) : List Access :=
  (l.takeWhile fun b => b.id != a.id).filter fun b => b.party == a.party

/-- The access is that of a number, or has taken it in by a merge (R210). -/
def Access.answersFor (a : Access) (i : Nat) : Bool := a.id == i || a.merged.contains i

/-- Every access of a list of numbers has been performed. -/
def State.allPerformed (s : State) (l : List Nat) : Bool :=
  l.all fun i => !s.accs.any fun b => b.answersFor i && !b.isPerformed

/-- An access may leave its order buffer. -/
def State.mayLeave (s : State) (a : Access) : Bool :=
  let e := earlier s.accs a
  a.st == .buffered &&
  (match a.kind with
   | .fence k => !e.any fun y => s.fenceHeld k a.scope y
   | _ => a.party.unordered || !e.any fun y => s.holds y a) &&
  s.allPerformed a.after

/-- An access that the task in focus issues and that is performed in the same turn may leave (R206, R209). -/
def State.mayLeaveNow (s : State) (a : Access) : Bool :=
  !(s.accsOf (.task s.cur)).any fun y => s.holds y { a with id := s.nextId }

/-- Every earlier access of the task in focus within a scope has been performed: a release (R223, R41, R42). -/
def State.released (s : State) (sp : Scope) : Bool :=
  (s.accsOf (.task s.cur)).all fun a => a.isFence || a.isPerformed || !s.inScope sp a

/-- A change to one access. -/
def State.updAcc (s : State) (id : Nat) (f : Access → Access) : State :=
  { s with accs := s.accs.map fun a => if a.id = id then f a else a }

def State.acc (s : State) (id : Nat) : Option Access := s.accs.find? fun a => a.id == id
def State.dropAcc (s : State) (id : Nat) : State := { s with accs := s.accs.filter fun a => a.id != id }

/-- A store that may merge: UO or streaming, not of the host port, whose writes are performed block by block (R291), and
not to a device, where it would be two accesses (R210, R216; log entries 12 and 68). -/
def Access.mergeable (a : Access) : Bool :=
  a.kind == .store && a.page == 2 && !a.party.isInbound && (match homeOf a.pa with
    | .slots _ | .io => false
    | _ => true)

/-- A later store b of one party to the 64-byte block of store a, on the way to one queue, may merge into it (R210): b is
younger than a and than all that a has taken in. -/
def Access.mergesWith (a b : Access) : Bool :=
  a.mergeable && b.mergeable && a.party == b.party && a.pa / 64 == b.pa / 64 && a.cls == b.cls && a.win == b.win &&
  (a.id :: a.merged).all fun i => decide (i < b.id)

/-- Store a with the bytes of the later store b, which stay where both write (R210). -/
def Access.merge (a b : Access) : Access :=
  let lo := min a.pa b.pa
  let hi := max (a.pa + a.size) (b.pa + b.size)
  let put (x : Access) (v : BitVec 512) : BitVec 512 := v <<< (8 * (x.pa - lo))
  { a with
    pa := lo, size := hi - lo, mask := put a a.mask ||| put b b.mask
    data := (put a a.data &&& ~~~put b b.mask) ||| (put b b.data &&& put b b.mask)
    merged := a.merged ++ b.id :: b.merged }

/-- The later store y may leave in one access with x: what holds it is x at most, in the order of a unit's accesses to one
address, which the merged access keeps; a release waits for x too (R127, R210, R214). -/
def State.mayJoin (s : State) (x y : Access) : Bool :=
  s.allPerformed y.after && (if y.releases then s else s.dropAcc x.id).mayLeave y

/-- The stores of a list that may leave together with access a join it, the eldest first (R210). -/
def State.mergeIn (s : State) (a : Access) : List Nat → State
  | [] => s
  | i :: l =>
    match s.acc a.id, s.acc i with
    | some x, some y =>
      (if x.mergesWith y && s.mayJoin x y then (s.dropAcc i).updAcc a.id fun z => z.merge y else s).mergeIn a l
    | _, _ => s

/-- The move Leave: a fence goes, and a fetch fence discards the instruction cache; an access enters its queue. -/
def State.leave (s : State) (a : Access) : State :=
  match a.kind, a.party with
  | .fence .fetch, .task t => (s.dropAcc a.id).updCore t fun c => { c with icache := [] }
  | .fence _, _ => s.dropAcc a.id
  | _, _ =>
    { s.updAcc a.id fun b => { b with st := .queued, seq := s.seqNext, born := s.cycle } with seqNext := s.seqNext + 1 }

/-- Two accesses ride in one queue: the same source, home and class (R204). -/
def Access.sameQueue (a b : Access) : Bool :=
  a.party == b.party && homeOf a.pa == homeOf b.pa && a.cls == b.cls

/-- The access stands at the head of its queue and has passed every wheel (R206, R207). -/
def State.mayArrive (s : State) (a : Access) : Bool :=
  a.st == .queued && a.needs.isEmpty &&
  !s.accs.any fun b => b.st == .queued && b.sameQueue a && decide (b.seq < a.seq)

/-! ### Requests at a wheel (R241) -/

/-- A request that the resource may serve next: queued, first of its network queue, this resource next on its way. -/
def State.atWheel (s : State) (k : Nat × Nat) (a : Access) : Bool :=
  a.st == .queued && a.needs.head? == some k &&
  !s.accs.any fun b => b.st == .queued && b.sameQueue a && decide (b.seq < a.seq)

/-- Its group in the current slot of a wheel (R241). -/
def State.groupNow (s : State) (k : Nat × Nat) (a : Access) : Option Nat :=
  slotGroup (s.wheel k) s.slotNow a.vd a.cls

/-- How far a VD's turn is from the resource's last in group 4: the round goes by VD number, with H behind (R241). -/
def State.turnOf (s : State) (k : Nat × Nat) (vd : Nat) : Nat :=
  let last := match s.wheelLast.find? fun x => x.1 == k with
    | some x => x.2
    | none => Config.vds
  (vd + 2 * (Config.vds + 1) - last - 1) % (Config.vds + 1)

/-- Between two requests of a VD, that of the first region may go: the region has had no more of the revolution's slots for
its share than the other, and a region with share 0 gives way to one with a share (R241; log entry 59). -/
def State.sharesOk (s : State) (k : Nat × Nat) (a b : Option Nat) : Bool :=
  match a, b with
  | some r, some q =>
    let share (n : Nat) : Nat := match s.region n with
      | some x => x.share
      | none => 0
    r == q || share q == 0 || (share r != 0 && decide (s.slotsGot k r * share q ≤ s.slotsGot k q * share r))
  | _, _ => true

/-- In the current slot no waiting request goes before one of a VD, a region and a group: none of an earlier group waits,
the turn of the VD has come in group 4, and so has that of the region within the VD. -/
def State.firstAt (s : State) (k : Nat × Nat) (vd : Nat) (region : Option Nat) (n : Nat) : Bool :=
  s.accs.all fun b => !s.atWheel k b || (match s.groupNow k b with
    | none => true
    | some m => decide (n < m) || (n == m && (n != 3 || decide (s.turnOf k vd ≤ s.turnOf k b.vd)) &&
        (vd != b.vd || s.sharesOk k region b.region)))

/-- The resource serves the request in this slot: it has served none in it, and no request goes before. -/
def State.mayServe (s : State) (k : Nat × Nat) (a : Access) : Bool :=
  s.atWheel k a && !s.wheelUsed.contains (k, s.cycle / 4) && (s.groupNow k a).any fun n => s.firstAt k a.vd a.region n

/-- The move Arrive. -/
def State.arrive (s : State) (a : Access) : State :=
  { s.updAcc a.id fun b => { b with st := .arrived, seq := s.seqNext } with seqNext := s.seqNext + 1 }

/-! ### Performing at the home node (R205, R217, R219, R267, R270, R343) -/

/-- A physical address of a tile window beyond tile store. -/
def isSlotPa (pa : Nat) : Bool := isTilePa pa && decide (Config.tileStore ≤ (tileOfPa pa).2)

/-- A core stands at an instruction boundary: no instruction of it is between two steps or reads (R59, R90). -/
def Core.atBoundary (c : Core) : Bool := (c.stepAt.isNone && c.readings.isEmpty) || c.status != .run

/-- An instruction of core t has begun and goes on in its next turn: a WKEY, a FRZ, or a write of VDCMD (R235, R274,
R371). -/
def State.busy (s : State) (t : Nat) : Bool :=
  (s.tileAt t).core.freezing || s.wkey == some t || s.vdBusy.any fun q => q.1 == some t

/-- Core t stands at an instruction boundary (R59). -/
def State.atBoundary (s : State) (t : Nat) : Bool := (s.tileAt t).core.atBoundary && !s.busy t

/-- Offset of VDCMD's slot in a tile window. -/
def vdcmdSlot : Nat := 0x408000 + 8 * 0x129

/-- A slot of a tile takes an access from elsewhere: at an instruction boundary, and VDCMD's when no command is in progress
(R59, R235). -/
def State.slotOpen (s : State) (t off : Nat) : Bool := s.atBoundary t && (off != vdcmdSlot || s.vdBusy.isNone)
def State.slotsOpen (s : State) (pa : Nat) : Bool := !isSlotPa pa || s.slotOpen (tileOfPa pa).1 (tileOfPa pa).2

/-- 1 ms in ACLK (R256, R288). -/
def requestLimit : Nat := 700000

/-- A request that has been outstanding for longer than 1 ms is performed no more: it raises MACHINE_CHECK (R256). -/
def State.overdue (s : State) (a : Access) : Bool := decide (a.born + requestLimit < s.cycle) && decide (a.vd < Config.vds)

/-- The node may perform an access: it has arrived in its time, its leaf is not being re-encrypted, a write of register slots
meets an instruction boundary of their core, and for SC the node holds the ring token with work left in this visit, in arrival
order (R217). -/
def State.mayPerform (s : State) (a : Access) : Bool :=
  a.st == .arrived && !s.stalled a.pa && (a.kind == .load || s.slotsOpen a.pa) && !s.overdue a &&
  (a.ord != .sc || ((homeOf a.pa).ring == some s.ringAt && decide (s.ringDone < 4) &&
    !s.accs.any fun b => b.st == .arrived && b.ord == .sc && homeOf b.pa == homeOf a.pa && decide (b.seq < a.seq)))

/-- What an atomic writes, from the old value and the operand, in n bytes; none writes nothing (R342, R343). The
signed forms of min and max are for operand sizes of their suffix. -/
def atomValue (op : AtomOp) (n : Nat) (old x : Nat) (cmp : Word) : Option Nat :=
  let w := 8 * n
  let m : Nat := 2 ^ w
  let s (v : Nat) : Int := if v < 2 ^ (w - 1) then v else (v : Int) - m
  let f : Fmt := if n = 2 then .bf16 else .fp32
  match op with
  | .add => some ((old + x) % m)
  | .and => some (old &&& x)
  | .or => some (old ||| x)
  | .xor => some (old ^^^ x)
  | .min => some (if s x < s old then x else old)
  | .max => some (if s old < s x then x else old)
  | .minu => some (min old x)
  | .maxu => some (max old x)
  | .swap => some x
  | .cas => if old = cmp.toNat % m then some x else none
  | .fmax => some (pickLane f true (BitVec.ofNat 32 old) (BitVec.ofNat 32 x)).1.toNat
  | .fadd => some (addLane f .rne (BitVec.ofNat 32 old) (BitVec.ofNat 32 x)).1.toNat

/-- MSI-X trigger page of a function (R280, R281). -/
def triggerFn (pa : Nat) : Option Nat :=
  let o := pa - (Config.ioBase + 0x1000000)
  if Config.ioBase + 0x1000000 ≤ pa && o < 33 * 0x1000 then some (o / 0x1000) else none

/-- OUTBASE of a function (R279). -/
def State.outbase (s : State) (f : Nat) : Nat := s.rd (Config.ioBase + 0x2000000 + f * 0x100 + 0x80) 8 / 2 ^ 40 * 2 ^ 40

/-- Bytes of host memory as a completion returns them: free values (R279; log entry 5). -/
def hostBytes (tick a : Nat) : Nat → Nat
  | 0 => 0
  | n + 1 => (Config.hostByte tick a).toNat + 256 * hostBytes tick (a + 1) n

/-- n bytes that a load from host memory returns: all ones where its completion carries an error (R376). -/
def hostLoad (tick a n : Nat) : Nat := if Config.hostFails tick then 2 ^ (8 * n) - 1 else hostBytes tick a n

/-- A read at the home: the bytes, and the state after. -/
def State.homeRead (s : State) (vd pa n : Nat) : Nat × State :=
  match homeOf pa with
  | .host => (hostLoad s.tick (pa - Config.hostBase) n, { s with
      tick := s.tick + 1, sent := s.sent ++ [.load (fnOf vd) (pa - Config.hostBase + s.outbase (fnOf vd)) n] })
  | .slots t => ((s.slotRead t (tileOfPa pa).2).toNat, s)
  | _ => (s.rd pa n, s)

/-- Pending vectors of function f that are not masked are sent, and their pending bits clear (R280, R282). -/
def State.sendPending (s : State) (f : Nat) : List Nat → State
  | [] => s
  | v :: l =>
    let byte := mailbox f + 0xF000 + v / 8
    let old := s.rd byte 1
    (if old / 2 ^ (v % 8) % 2 = 1 && s.rd (mailbox f + 0xE000 + 16 * v + 12) 1 % 2 = 0 then
      { s.wr byte 1 (old - 2 ^ (v % 8)) with sent := s.sent ++ [.msix f v] } else s).sendPending f l

/-- After a write of n bytes of the I/O die resources: the vectors whose entries in an MSI-X table it touched may be due. -/
def State.tableWritten (s : State) (pa n : Nat) : State :=
  let o := pa - Config.ioBase
  let i := o % 0x10000
  if o < 33 * 0x10000 && 0xE000 ≤ i && i < 0xF000 then
    s.sendPending (o / 0x10000) ((List.range 256).filter fun v =>
      decide (16 * v < i - 0xE000 + n) && decide (i - 0xE000 < 16 * v + 16))
  else s

/-- The bits of a byte of the I/O die resources that hold what is written: the reserved bits of a status pair, of an
inbound window entry and of an outbound base word read 0 (R12, R277, R279, R282). -/
def ioByteMask (pa : Nat) : Nat :=
  let o := pa - Config.ioBase
  let w := o - 0x2000000
  if o < 33 * 0x10000 then (if o % 0x10000 = 2 then 7 else 255)
  else if 0x2000000 ≤ o && w < 33 * 0x100 then
    (if w % 0x100 < 0x80 then (if w % 8 < 2 then 255 else if w % 8 < 7 then 0 else 0xE0) else if w % 8 < 5 then 0 else 255)
  else 255
def ioMask (pa : Nat) : Nat → Nat
  | 0 => 0
  | n + 1 => ioByteMask pa + 256 * ioMask (pa + 1) n

/-- A masked write at the home. -/
def State.homeWrite (s : State) (vd pa n x mask : Nat) : State :=
  match homeOf pa with
  | .host => if mask = 0 then s else
    { s with sent := s.sent ++ [.posted (fnOf vd) (pa - Config.hostBase + s.outbase (fnOf vd)) (BitVec.ofNat 512 x)
        (BitVec.ofNat 512 mask) n] }
  | .slots t => if mask = 0 then s else s.slotWrite t (tileOfPa pa).2 (BitVec.ofNat 64 x)
  | .io =>
    match triggerFn pa with
    | some f => if n = 4 && x < 256 then s.msix f x else s
    | none => (s.commit pa n x (mask &&& ioMask pa n)).tableWritten pa n
  | _ => if mask = 0 then s else s.commit pa n x mask

/-- A write covers its block: one access that writes every byte of it (R267). -/
def Access.coversBlock (a : Access) : Bool := a.kind == .store && a.size == 64 && a.mask == BitVec.allOnes 512

/-- A fault of the task on any core, at the instruction boundary it has reached. -/
def State.raiseAt (s : State) (t : Nat) (cause : BitVec 8) (eval : Word) : State :=
  let f := s.focus t
  (f.raise cause eval f.core.pc 0).focus s.cur

/-- INTEGRITY on the party of an access: the accessing VD is fenced (R270). An H access stops its core. -/
def State.integrity (s : State) (a : Access) : State :=
  let s := s.dropAcc a.id
  match a.party with
  | .task t => s.raiseAt t cIntegrity a.va
  | .inbound f => if a.kind == .store then (s.fence a.vd cIntegrity).countDropped f else s.fence a.vd cIntegrity
  | _ => s.fence a.vd cIntegrity

/-- A register write enters a tile only under the tile's owner: its VD and generation (R255). H carries no
generation. -/
def State.ingress (s : State) (a : Access) : Bool :=
  match homeOf a.pa with
  | .slots t => a.vd == Config.vds || (s.tileAt t).core.owner == some (a.vd, a.gen)
  | _ => true

/-- The move Perform: one access at its home. -/
def State.perform (s : State) (a : Access) : State :=
  let s := if a.ord = .sc then { s with ringDone := s.ringDone + 1 } else s
  if (match a.kind with
      | .store => s.writeBad a.pa a.coversBlock
      | _ => s.isBad a.pa) then s.integrity a
  else
    let mark (s : State) (v : Nat) : State :=
      { s.updAcc a.id fun b => { b with st := .performed, val := BitVec.ofNat 512 v, seq := s.seqNext } with
        seqNext := s.seqNext + 1 }
    match a.kind with
    | .load =>
      let (v, s) := s.homeRead a.vd a.pa a.size
      mark s v
    | .store => mark (if s.ingress a then s.homeWrite a.vd a.pa a.size a.data.toNat a.mask.toNat else s) 0
    | .atom op =>
      let old := s.rd a.pa a.size
      match atomValue op a.size old (a.data.toNat % 2 ^ (8 * a.size)) a.cmp with
      | some v => mark (s.commit a.pa a.size v (fullMask a.size)) old
      | none => mark s old
    | .fence _ => s

/-! ### Replies (R206, R208, R255) -/


/-- The value of a loaded register from its bytes (R331, R342). -/
def loadValue (n : Nat) (sx : Bool) (v : Nat) : Word :=
  let x := v % 2 ^ (8 * n)
  if sx && 2 ^ (8 * n - 1) ≤ x then BitVec.ofInt 64 ((x : Int) - 2 ^ (8 * n)) else w64 x

/-- A packed token of a format (R70, R424). -/
def unpackToken (f : Fmt) (v : BitVec 512) : Token :=
  Token.fresh f (fun _ => true) fun i => BitVec.ofNat 32 (v.toNat / 2 ^ (i * f.width) % 2 ^ f.width)

/-- Bytes in an element as R423 counts them, and of a packed token (R69). -/
def elemBytes (f : Fmt) : Nat := max 1 (f.width / 8)
def packedBytes (f : Fmt) : Nat := 2 * f.width

/-- Lane i of a record: the value at its place among the lanes present (R296). -/
def sparseLane (f : Fmt) (mask vals : Nat) (i : Nat) : Lane :=
  if mask.testBit i then
    let k := (List.range i).countP fun j => mask.testBit j
    BitVec.ofNat 32 (vals / 2 ^ (8 * elemBytes f * k) % 2 ^ (8 * elemBytes f))
  else 0

/-- The indices of the M by N part (R96). -/
def partIndices (m n : Nat) : List Nat := (List.range (m * n)).map fun i => 16 * (i / n) + i % n

/-- Elements of the M by N part from a string of words, row by row (R107). -/
def fillPart (el : Vector Lane 256) (x : Nat) : List Nat → Vector Lane 256
  | [] => el
  | i :: r => fillPart (el.setIfInBounds i (BitVec.ofNat 32 x)) (x / 2 ^ 32) r

/-- Register code of the destination of a load (R314); 48 to 55 stand for p, 56 to 63 for a. -/
def Dest.code : Dest → Option Nat
  | .g r _ _ => if r = 0 then Option.none else some r.val
  | .v r _ | .lanes r _ _ | .sparse r _ _ => some (32 + r.val)
  | .pred r _ _ => if r = 0 then Option.none else some (48 + r.val)
  | .acc r _ _ => some (56 + r.val)
  | .none => Option.none

/-- No register of a list awaits a load. -/
def Core.settled (c : Core) (l : List Nat) : Bool :=
  c.pend.all fun p => match p.dest.code with
    | some n => !l.contains n
    | none => true

/-- A load whose last part has come writes its register. -/
def Core.finish (c : Core) (p : Pending) : Core :=
  match p.dest with
  | .none => c
  | .g r n sx => if r = 0 then c else { c with g := c.g.set r (loadValue n sx p.got) }
  | .v r f => { c with v := c.v.set r (unpackToken f (BitVec.ofNat 512 p.got)) }
  | .lanes r f valid =>
    { c with v := c.v.set r (Token.fresh f (fun i => valid.getLsbD i) fun i => laneOf (BitVec.ofNat 512 p.got) i) }
  | .sparse r f mask => { c with v := c.v.set r (Token.fresh f (fun _ => true) (sparseLane f mask p.got)) }
  | .acc r m n => c.wrA r { el := fillPart (c.rdA r).el p.got (partIndices m n), v := true, d := true }
  | .pred r f n =>
    if (List.range n).all fun i => f.isZeroLane (BitVec.ofNat 32 (p.got / 2 ^ (i * f.width) % 2 ^ f.width)) then c
    else c.wrP r false

/-- The bytes of access a as they stand in what a load gathers: parts still out, and the value so far. -/
def gathered (a : Access) (parts : List (Nat × Nat)) (got : Nat) : List (Nat × Nat) × Nat :=
  match parts.find? fun q => a.answersFor q.1 with
  | some (_, o) => (parts.filter fun q => !a.answersFor q.1, got ||| (a.val.toNat % 2 ^ (8 * a.size)) <<< o)
  | none => (parts, got)
def Pending.take (p : Pending) (a : Access) : Pending :=
  let r := gathered a p.parts p.got
  { p with parts := r.1, got := r.2 }
def Reading.take (p : Reading) (a : Access) : Reading :=
  let r := gathered a p.parts p.got
  { parts := r.1, got := r.2 }

/-- The reply of one access to the loads and the reads that wait for it. -/
def Core.reply (c : Core) (a : Access) : Core :=
  let l := c.pend.map fun p => p.take a
  let done := l.filter fun p => p.parts.isEmpty
  done.foldl (fun c p => c.finish p)
    { c with pend := l.filter fun p => !p.parts.isEmpty, readings := c.readings.map fun p => p.take a }

/-- The reply of an access is the first of those with its source, home and class: replies ride in queues too (R204,
R207). -/
def State.mayReply (s : State) (a : Access) : Bool :=
  a.isPerformed && !s.accs.any fun b => b.isPerformed && b.sameQueue a && decide (b.seq < a.seq)

/-- The reply reaches the tile that issued it: dropped when VD and generation are not the tile's (R255). -/
def State.taskReply (s : State) (t : Nat) (a : Access) : State :=
  let c := (s.tileAt t).core
  let mine := match c.owner with
    | some o => o == (a.vd, a.gen)
    | none => decide (Config.tiles ≤ t) || a.region.isNone
  if mine then s.updCore t fun c => c.reply a else s

end Sys2Proof.Machine
end

