-- ==== Sys2Proof/Machine/Scalar.lean ====
section
/-!
DEFINITION. Scalar loads, stores and atomics (R331, R332, R341 to R344, R376, R406, R407): the effective address,
the checks at issue, and the access that enters the order buffer. What it does at its home is in Access.
-/
namespace Sys2Proof.Machine

/-- Bytes of a size code (R331). -/
def szBytes : Sz → Nat
  | .b | .bu => 1
  | .h | .hu => 2
  | .w | .wu => 4
  | .d | .du => 8

/-- The size code sign-extends (R331). -/
def szSigned : Sz → Bool
  | .b | .h | .w => true
  | _ => false

/-- The effective address (R341). -/
def State.ea (s : State) (base idx : GReg) (size : Nat) (off : BitVec 22) : Word :=
  s.g base + (if idx = 0 then 0 else s.g idx * BitVec.ofNat 64 size) + off.signExtend 64

/-- A load or atomic that will write a g register enters the order buffer (R206, R208). -/
def State.launchG (s : State) (a : Access) (t : GReg) (n : Nat) (sx : Bool) : State :=
  let c := s.core
  let p : Pending := { dest := if t = 0 then .none else .g t n sx, parts := [(s.nextId, 0)] }
  (s.setCore { c with pend := dropG c.pend t ++ [p] }).enterAccess a

/-- A checked access, or the fault or wait that takes its place. -/
def checked (s : State) (ea : Word) (c : Checked) (k : Spot → State → Act) : Act :=
  match c with
  | .fault e => fault s e ea
  | .wait => .wait s
  | .ok p s' => k p s'

/-- The register whose slot lies at an offset of the tile window, by its code (R314). -/
def slotReg (o : Nat) : Option Nat :=
  if inRange o 0x400000 0x100 then some ((o - 0x400000) / 8)
  else if inRange o 0x401000 0x800 then some (32 + (o - 0x401000) / 128)
  else if inRange o 0x402000 0x40 then some (48 + (o - 0x402000) / 8)
  else if inRange o 0x404000 0x2000 then some (56 + (o - 0x404000) / 1024)
  else none

/-- An access to the task's own slots acts in its turn (R59) once it may leave (R206) and the register awaits no load
(R208). -/
def State.ownSlotReady (s : State) (a : Access) : Bool :=
  s.mayLeaveNow a && s.core.settled (slotReg (tileOfPa a.pa).2).toList

/-- LD (R376). A load of the task's own slots returns the value as of the previous instruction. -/
def ldOp (sz : Sz) (o : Ord) (sp : Scope) (t base idx : GReg) (off : BitVec 22) (s : State) : Act :=
  let n := szBytes sz
  let ea := s.ea base idx n off
  checked s ea (s.check s.me s.core.lvl .read ea n n false (o == .sc)) fun p s =>
    let a := s.taskAccess .load ea p n o sp
    if ownSlots s.cur p.pa then
      if s.ownSlotReady a then s.retG t (s.slotRead s.cur (tileOfPa p.pa).2) else .wait s
    else .retire (s.launchG a t n (szSigned sz))
def execLd (c : Guard) (sz : Sz) (o : Ord) (sp : Scope) (t base idx : GReg) (off : BitVec 22) (s : State) : Out :=
  s.go .all false c (ldOp sz o sp t base idx off)

/-- The instruction goes on in its next turn with the word that it has issued (R67, R90). -/
def State.hold (s : State) : State := s.setCore { s.core with opWord := s.ir }

/-- Every macro-op of the task has finished its last step (R52). -/
def Core.stepsDone (c : Core) : Bool := c.inflight.isEmpty && c.stepAt.isNone

/-- The instruction waits until the accesses of a VD that stand now, and its engine threads, are done (R198). -/
def State.awaitVd (s : State) (vd : Nat) : Act :=
  .wait (s.setCore { s.core with status := .tlbi (s.outstanding vd) (s.threadsOut vd) })

/-- A write of a legal value to state register k by the core in focus, with SWR or through its slot: FSTAT waits for the
macro-ops, a root for its invalidation, and VDCMD for its command (R49, R52, R59, R194, R234, R235). -/
def State.ownSrWrite (s : State) (k : Nat) (x : Word) : Act :=
  if k = 0x011 && !s.core.stepsDone then .wait s
  else if k = 0x070 then (s.writeS1root s.core.ofVd x).awaitVd s.core.ofVd
  else if k = 0x122 then (s.writeS2root s.vdsel.toNat x).awaitVd s.vdsel.toNat
  else if k = 0x129 then
    match s.vdTurn (some s.cur) (bits x 0 4) s.vdsel.toNat with
    | some r => if r.1 then .retire r.2 else .wait r.2.hold
    | none => .wait s
  else .retire (s.srWrite s.cur k x)

/-- A write to a register slot of the core in focus; a value that a state register does not take is ignored (R59). -/
def State.ownSlotWrite (s : State) (off : Nat) (x : Word) : Act :=
  if inRange off 0x408000 0x8000 then
    (if srValueOk ((off - 0x408000) / 8) x then s.ownSrWrite ((off - 0x408000) / 8) x else .retire s)
  else .retire (s.slotWrite s.cur off x)

/-- A store to the task's own slots, and what the instruction does besides (R59); a store that its target ignores writes
nothing. -/
def State.ownStore (s : State) (p : Spot) (x : Word) (k : State → State) : Act :=
  if p.ignored s.core.lvl then .retire (k s)
  else match s.ownSlotWrite (tileOfPa p.pa).2 x with
  | .retire t => .retire (k t)
  | .wait t => .wait (k t)
  | r => r

/-- ST (R406). -/
def stOp (sz : Sz) (o : Ord) (sp : Scope) (t base idx : GReg) (off : BitVec 22) (s : State) : Act :=
  let n := szBytes sz
  let ea := s.ea base idx n off
  let lvl := s.core.lvl
  checked s ea (s.check s.me lvl .write ea n n false (o == .sc)) fun p s =>
    let a := s.taskAccess .store ea p n o sp
    if ownSlots s.cur p.pa then
      if s.ownSlotReady a then s.ownStore p (s.g t) id else .wait s
    else .retire (s.enterAccess { a with
      data := BitVec.ofNat 512 ((s.g t).toNat % 2 ^ (8 * n))
      mask := if p.ignored lvl then 0 else BitVec.ofNat 512 (fullMask n) })
def execSt (c : Guard) (sz : Sz) (o : Ord) (sp : Scope) (t base idx : GReg) (off : BitVec 22) (s : State) : Out :=
  s.go .all false c (stOp sz o sp t base idx off)

/-- Any atomic (R343): the old value goes to g[T], extended by sx. -/
def atomOp (op : AtomOp) (n : Nat) (sx : Bool) (o : Ord) (sp : Scope) (t base i : GReg) (off : BitVec 22) (s : State) :
    Act :=
  let ea := s.ea base 0 n off
  checked s ea (s.check s.me s.core.lvl .atomic ea n n false (o == .sc)) fun p s =>
    .retire (s.launchG { s.taskAccess (.atom op) ea p n o sp with data := (s.g i).setWidth 512, cmp := s.g t } t n sx)

/-- AADD (R342). -/
def execAadd (c : Guard) (sz : Sz) (o : Ord) (sp : Scope) (t base i : GReg) (off : BitVec 22) (s : State) : Out :=
  s.go .all false c (atomOp .add (szBytes sz) (szSigned sz) o sp t base i off)
/-- AAND (R342). -/
def execAand (c : Guard) (sz : Sz) (o : Ord) (sp : Scope) (t base i : GReg) (off : BitVec 22) (s : State) : Out :=
  s.go .all false c (atomOp .and (szBytes sz) (szSigned sz) o sp t base i off)
/-- AOR (R342). -/
def execAor (c : Guard) (sz : Sz) (o : Ord) (sp : Scope) (t base i : GReg) (off : BitVec 22) (s : State) : Out :=
  s.go .all false c (atomOp .or (szBytes sz) (szSigned sz) o sp t base i off)
/-- AXOR (R342). -/
def execAxor (c : Guard) (sz : Sz) (o : Ord) (sp : Scope) (t base i : GReg) (off : BitVec 22) (s : State) : Out :=
  s.go .all false c (atomOp .xor (szBytes sz) (szSigned sz) o sp t base i off)
/-- AMIN (R342): unsigned for .WU and .DU. -/
def execAmin (c : Guard) (sz : Sz) (o : Ord) (sp : Scope) (t base i : GReg) (off : BitVec 22) (s : State) : Out :=
  s.go .all false c (atomOp (if sz == .wu || sz == .du then .minu else .min) (szBytes sz) (szSigned sz) o sp t base i off)
/-- AMAX (R342): unsigned for .WU and .DU. -/
def execAmax (c : Guard) (sz : Sz) (o : Ord) (sp : Scope) (t base i : GReg) (off : BitVec 22) (s : State) : Out :=
  s.go .all false c (atomOp (if sz == .wu || sz == .du then .maxu else .max) (szBytes sz) (szSigned sz) o sp t base i off)
/-- ASWAP (R342). -/
def execAswap (c : Guard) (sz : Sz) (o : Ord) (sp : Scope) (t base i : GReg) (off : BitVec 22) (s : State) : Out :=
  s.go .all false c (atomOp .swap (szBytes sz) (szSigned sz) o sp t base i off)
/-- ACAS (R342): g[T] is the comparand. -/
def execAcas (c : Guard) (sz : Sz) (o : Ord) (sp : Scope) (t base i : GReg) (off : BitVec 22) (s : State) : Out :=
  s.go .all false c (atomOp .cas (szBytes sz) (szSigned sz) o sp t base i off)
/-- AFMAX (R342, R343): the bits come back zero-extended. -/
def execAfmax (c : Guard) (sz : Sz) (o : Ord) (sp : Scope) (t base i : GReg) (off : BitVec 22) (s : State) : Out :=
  s.go .all false c (atomOp .fmax (szBytes sz) false o sp t base i off)
/-- AFADD (R342, R343): the bits come back zero-extended. -/
def execAfadd (c : Guard) (sz : Sz) (o : Ord) (sp : Scope) (t base i : GReg) (off : BitVec 22) (s : State) : Out :=
  s.go .all false c (atomOp .fadd (szBytes sz) false o sp t base i off)

end Sys2Proof.Machine
end

