-- ==== Sys2Proof/Machine/Sync.lean ====
section
/-!
DEFINITION. The SYNC group: fences (R221, R222, R369), WAITA and its wake (R224, R437, R438), and barriers (R50,
R223, R349, R350).
-/
namespace Sys2Proof.Machine

/-! ### Fences -/

/-- A fence enters the order buffer (R222). -/
def fenceOp (k : FenceKind) (sp : Scope) (s : State) : Act :=
  .retire (s.enterAccess { id := 0, party := .task s.cur, vd := s.core.vd, kind := .fence k, scope := sp })

/-- FENCE.FULL (R222). -/
def execFenceFull (c : Guard) (sp : Scope) (s : State) : Out := s.go .all false c (fenceOp .full sp)
/-- FENCE.REL (R222). -/
def execFenceRel (c : Guard) (sp : Scope) (s : State) : Out := s.go .all false c (fenceOp .rel sp)
/-- FENCE.ACQ (R222). -/
def execFenceAcq (c : Guard) (sp : Scope) (s : State) : Out := s.go .all false c (fenceOp .acq sp)
/-- FENCE.FETCH (R222). -/
def execFenceFetch (c : Guard) (sp : Scope) (s : State) : Out := s.go .all false c (fenceOp .fetch sp)

/-! ### WAITA -/

/-- An operation with another core in focus. -/
def State.onCore (s : State) (t : Nat) (f : State → State) : State := (f (s.focus t)).focus s.cur

/-- WAITA (R437): the read at the home bank and the arming are one step. -/
def waitaOp (k : WCond) (dword : Bool) (d a : GReg) (s : State) : Act :=
  let n := if dword then 8 else 4
  let ea := s.g a
  match localOff ea with
  | none => fault s cPermission ea
  | some off =>
    if Config.tileStore ≤ off then fault s cPermission ea
    else if ea.toNat % n ≠ 0 then fault s cMisaligned ea
    else
      let pa := localPa s.cur off
      let a : Access := { s.taskAccess .load ea ⟨pa, 1, 3, 0, ea.toNat, 1⟩ n .acq .tile with id := s.nextId }
      let x : Word := if dword then s.g d else (s.g d).setWidth 32 |>.setWidth 64
      if (s.accsOf (.task s.cur)).any fun y => s.holds y a then .wait s
      else if wcondHolds k (BitVec.ofNat 64 (s.rd pa n)) x then .retire s
      else .wait (s.setCore { s.core with status := .asleep pa n k x false })
def execWaita (c : Guard) (k : WCond) (dword : Bool) (d a : GReg) (s : State) : Out :=
  s.go .all false c (waitaOp k dword d a)

/-- The instruction at which the core in focus waits retires. -/
def State.resumeRetire (s : State) : State := (Act.retire (s.setCore { s.core with status := .run })).done

/-- WAITA_WAKE: a core whose condition a write has satisfied goes on (R224, R437). -/
def execWaitaWake (t : Nat) (s : State) : Out :=
  let ok := match (s.tileAt t).core.status with
    | .asleep _ _ _ _ hit => hit
    | _ => false
  s.event ok (s.onCore t State.resumeRetire)

/-! ### Barriers -/

/-- A task of the region runs on a core: it has started and its exit is not complete. -/
def Core.hasTask (c : Core) : Bool := c.task.isSome

/-- Arrivals that close an episode (R50, R350): a count of 0 stands for every task that has started and not exited. -/
def State.barTarget (s : State) (h : BarHome) (n : BitVec 4) : Nat :=
  let b := s.barrier h n
  if b.count ≠ 0 then b.count.toNat
  else match h with
    | .region r => match s.region r with
      | some x => x.tilesOf.countP fun t => (s.tileAt t).core.hasTask
      | none => 1
    | .steward _ => 1

/-- The episode is due to close. -/
def State.barDue (s : State) (h : BarHome) (n : BitVec 4) : Bool :=
  let b := s.barrier h n
  decide (0 < b.arrivals) && decide (s.barTarget h n ≤ b.arrivals)

/-- One arrival, once the release is over; it waits for an episode that is still to close. -/
def State.arriveBar (s : State) (h : BarHome) (n : BitVec 4) : Act :=
  if !s.released .rgn || s.barDue h n then .wait s
  else
    let b := s.barrier h n
    let s := s.setBarrier h n { b with arrivals := b.arrivals + 1 }
    .wait (s.setCore { s.core with status := .barrier n })

/-- BAR (R349): an arrival, but a task that a handler has taken away from its BAR does not arrive a second time (R350). -/
def barOp (n : BitVec 4) (s : State) : Act :=
  let h := s.barHome s.cur
  match s.core.barAt with
  | some (m, pc, closed) =>
    if m = n && pc = s.core.pc then
      (if closed then .retire (s.setCore { s.core with barAt := none })
       else .wait (s.setCore { s.core with barAt := none, status := .barrier n }))
    else s.arriveBar h n
  | none => s.arriveBar h n
def execBar (c : Guard) (n : BitVec 4) (s : State) : Out := s.go .us false c (barOp n)

/-- The waiter leaves its barrier: at once, or when its stopped task goes on. An arrival that a handler has broken into is
over too, also when the task has arrived once more in that handler (R350). -/
def Core.leaveBar (c : Core) (n : BitVec 4) : Core :=
  let x : Core := { c with barAt := c.barAt.map fun b => if b.1 = n then (b.1, b.2.1, true) else b }
  if c.status == .barrier n then { x.retire with status := .run }
  else if c.status == .stopped && c.resume == .barrier n then { x.retire with resume := .run }
  else x

/-- The episode of barrier n closes: its arrivals are reset, a count written meanwhile takes effect, and every waiter
goes on (R50, R349). -/
def State.closeBar (s : State) (h : BarHome) (n : BitVec 4) : State :=
  let b := s.barrier h n
  let s1 := s.setBarrier h n { count := b.next.getD b.count, arrivals := 0, next := none }
  s1.mapCores fun t c => if s.barHome t = h then c.leaveBar n else c

/-- BAR_EPISODE_CLOSE: barrier n as tile t sees it. -/
def execBarEpisodeClose (t : Nat) (n : BitVec 4) (s : State) : Out :=
  let h := s.barHome t
  s.event (s.barDue h n) (s.closeBar h n)

end Sys2Proof.Machine
end

