-- ==== Sys2Proof/Machine/Vmem.lean ====
section
/-!
DEFINITION. Vector memory (R333, R423 to R426) and the sparse buffer (R292 to R298): parts and lanes, their checks
before any of them leaves, and the records of VSTZ and VLDZ.
-/
namespace Sys2Proof.Machine

/-! ### Several checked accesses -/

/-- Why an instruction does not go on: a fault with its EVAL, or a wait. -/
inductive Halt where
  | trap (cause : BitVec 8) (eval : Word)
  | wait
  deriving DecidableEq, Repr

/-- The end of an instruction that stops so, in the state before it. -/
def Halt.act (h : Halt) (s : State) : Act :=
  match h with
  | .trap e v => fault s e v
  | .wait => .wait s

/-- The parts of n bytes at an address, split at 64-byte blocks: address, bytes, offset (R220). -/
def blockParts : Nat → Word → Nat → Nat → List (Word × Nat × Nat)
  | 0, _, _, _ => []
  | k + 1, va, n, o =>
    let r := 64 - va.toNat % 64
    if n = 0 then []
    else if n ≤ r then [(va, n, o)]
    else (va, r, o) :: blockParts k (va + w64 r) (n - r) (o + r)

/-- The checks of R423, part by part. -/
def State.checkParts (s : State) (u : Use) (align : Nat) (vec : Bool) :
    List (Word × Nat × Nat) → Except Halt (List (Spot × Word × Nat × Nat) × State)
  | [] => .ok ([], s)
  | (va, n, o) :: r =>
    match s.check s.me s.core.lvl u va n align vec false with
    | .fault e => .error (.trap e va)
    | .wait => .error .wait
    | .ok p s =>
      match s.checkParts u align vec r with
      | .error e => .error e
      | .ok (l, s) => .ok ((p, va, n, o) :: l, s)

/-- Loads of checked parts enter the order buffer; the bit offset of each part is that of its bytes. -/
def State.enterLoads (s : State) (o : Ord) (sp : Scope) : List (Spot × Word × Nat × Nat) → State
  | [] => s
  | (p, va, n, _) :: r => (s.enterAccess (s.taskAccess .load va p n o sp)).enterLoads o sp r

/-- Stores of checked parts of one string of bits under a mask. -/
def State.enterStores (s : State) (o : Ord) (sp : Scope) (data mask : Nat) :
    List (Spot × Word × Nat × Nat) → State
  | [] => s
  | (p, va, n, off) :: r =>
    (s.enterAccess { s.taskAccess .store va p n o sp with
      data := BitVec.ofNat 512 (data / 2 ^ (8 * off) % 2 ^ (8 * n))
      mask := BitVec.ofNat 512 (mask / 2 ^ (8 * off) % 2 ^ (8 * n)) }).enterStores o sp data mask r

/-- Accesses of checked parts as the parts of a pending load: number and bit offset. -/
def pendParts (id : Nat) : List (Spot × Word × Nat × Nat) → List (Nat × Nat)
  | [] => []
  | (_, _, _, o) :: r => (id, 8 * o) :: pendParts (id + 1) r

/-- A load into a v register waits for its parts. -/
def State.pendV (s : State) (r : VReg) (d : Dest) (parts : List (Nat × Nat)) : State :=
  s.setCore { s.core with pend := dropV s.core.pend r ++ [{ dest := d, parts := parts }] }

/-! ### VLD and VST -/

/-- VLD (R424). -/
def vldOp (f : Fmt) (o : Ord) (sp : Scope) (t : VReg) (base idx : GReg) (off : BitVec 22) (s : State) : Act :=
  let n := packedBytes f
  match s.checkParts .read (elemBytes f) true (blockParts 2 (s.ea base idx n off) n 0) with
  | .error e => e.act s
  | .ok (ps, s) => .retire ((s.pendV t (.v t f) (pendParts s.nextId ps)).enterLoads o sp ps)
def execVld (c : Guard) (f : Fmt) (o : Ord) (sp : Scope) (t : VReg) (base idx : GReg) (off : BitVec 22) (s : State) :
    Out := s.go .all false c (vldOp f o sp t base idx off)

/-- The packed bits of a token, and the bits that its valid lanes have in it (R70, R425). -/
def packBits (x : Token) (f : Fmt) : Nat → Nat
  | 0 => 0
  | n + 1 => packBits x f n + (x.lane f n).toNat * 2 ^ (n * f.width)
def packMask (x : Token) (f : Fmt) : Nat → Nat
  | 0 => 0
  | n + 1 => packMask x f n + (if x.ok n then (2 ^ f.width - 1) * 2 ^ (n * f.width) else 0)

/-- VST (R425): the bits of invalid lanes stay. -/
def vstOp (f : Fmt) (o : Ord) (sp : Scope) (t : VReg) (base idx : GReg) (off : BitVec 22) (s : State) : Act :=
  let n := packedBytes f
  match s.mismatch [(t, .tag f)] with
  | some e => fault s cFormatTag e
  | none =>
    match s.checkParts .write (elemBytes f) true (blockParts 2 (s.ea base idx n off) n 0) with
    | .error e => e.act s
    | .ok (ps, s) => .retire (s.enterStores o sp (packBits (s.v t) f 16) (packMask (s.v t) f 16) ps)
def execVst (c : Guard) (f : Fmt) (o : Ord) (sp : Scope) (t : VReg) (base idx : GReg) (off : BitVec 22) (s : State) :
    Out := s.go .all false c (vstOp f o sp t base idx off)

/-! ### VLDX and VSTX -/

/-- The addresses of the active lanes, in ascending lane order, at byte 4 i of the lane string (R426). -/
def laneParts (s : State) (f : Fmt) (base : GReg) (x : Token) (off : BitVec 22) (active : Nat → Bool) :
    List (Word × Nat × Nat) :=
  ((List.range 16).filter active).map fun i =>
    (s.g base + off.signExtend 64 + (laneOf x.lanes i).setWidth 64 * w64 (elemBytes f), elemBytes f, 4 * i)

/-- VLDX (R426). -/
def vldxOp (f : Fmt) (o : Ord) (sp : Scope) (t : VReg) (base : GReg) (idx : VReg) (off : BitVec 22) (s : State) :
    Act :=
  let x := s.v idx
  match s.mismatch [(idx, .tag .idx32)] with
  | some e => fault s cFormatTag e
  | none =>
    match s.checkParts .read (elemBytes f) true (laneParts s f base x off x.ok) with
    | .error e => e.act s
    | .ok ([], s) => .retire (s.setV t (Token.fresh f (fun _ => false) fun _ => 0))
    | .ok (ps, s) => .retire ((s.pendV t (.lanes t f x.valid) (pendParts s.nextId ps)).enterLoads o sp ps)
def execVldx (c : Guard) (f : Fmt) (o : Ord) (sp : Scope) (t : VReg) (base : GReg) (idx : VReg) (off : BitVec 22)
    (s : State) : Out := s.go .all false c (vldxOp f o sp t base idx off)

/-- VSTX (R426). -/
def vstxOp (f : Fmt) (o : Ord) (sp : Scope) (t : VReg) (base : GReg) (idx : VReg) (off : BitVec 22) (s : State) :
    Act :=
  let x := s.v idx
  let y := s.v t
  match s.mismatch [(t, .tag f), (idx, .tag .idx32)] with
  | some e => fault s cFormatTag e
  | none =>
    match s.checkParts .write (elemBytes f) true (laneParts s f base x off fun i => x.ok i && y.ok i) with
    | .error e => e.act s
    | .ok (ps, s) => .retire (s.enterStores o sp y.lanes.toNat (2 ^ 512 - 1) ps)
def execVstx (c : Guard) (f : Fmt) (o : Ord) (sp : Scope) (t : VReg) (base : GReg) (idx : VReg) (off : BitVec 22)
    (s : State) : Out := s.go .all false c (vstxOp f o sp t base idx off)

/-! ### Reads that an instruction needs before it goes on -/

/-- The bytes of checked parts in the task's own slots, which are read at once (R58, R59); none while one of them must
wait. -/
def State.ownParts (s : State) (o : Ord) (sp : Scope) : List (Spot × Word × Nat × Nat) → Option Nat
  | [] => some 0
  | (p, va, n, off) :: r =>
    if !ownSlots s.cur p.pa then s.ownParts o sp r
    else if s.ownSlotReady (s.taskAccess .load va p n o sp) then
      (s.ownParts o sp r).map fun x => (s.slotRead s.cur (tileOfPa p.pa).2).toNat * 2 ^ (8 * off) ||| x
    else none

/-- The instruction at the pc waits for accesses that it has issued. -/
def State.awaitParts (s : State) (r : Reading) : Act :=
  .wait (s.setCore { s.core with readings := s.core.readings ++ [r], opWord := s.ir })

/-- Read number k of the instruction at the pc: parts with their alignment, checked, then loads of the task; the
instruction waits until the last of them has been answered, and goes on with their bytes (R206, R296, R358). -/
def State.reading (s : State) (k : Nat) (o : Ord) (sp : Scope) (align : Nat) (vec : Bool) (parts : List (Word × Nat × Nat))
    (f : State → Nat → Act) : Act :=
  match s.core.readings[k]? with
  | some r => if r.parts.isEmpty then f s r.got else .wait s
  | none =>
    match s.checkParts .read align vec parts with
    | .error h => h.act s
    | .ok (ps, s1) =>
      match s1.ownParts o sp ps with
      | none => .wait s
      | some x =>
        let qs := ps.filter fun q => !ownSlots s1.cur q.1.pa
        (s1.enterLoads o sp qs).awaitParts { parts := pendParts s1.nextId qs, got := x }

/-- Consecutive aligned doublewords as parts. -/
def dwordParts (va : Word) (n : Nat) : List (Word × Nat × Nat) :=
  (List.range n).map fun i => (va + w64 (8 * i), 8, 8 * i)

/-- The doublewords of what was read. -/
def dwordsOf (n x : Nat) : List Word := (List.range n).map fun i => w64 (x / 2 ^ (64 * i))

/-! ### Reads in the turn of the instruction (log entry 7) -/

/-- Checked parts are read at once: their bytes as one number. -/
def State.readParts (s : State) : List (Spot × Word × Nat × Nat) → Except Halt (Nat × State)
  | [] => .ok (0, s)
  | (p, va, n, o) :: r =>
    if s.isBad p.pa then .error (.trap cIntegrity va)
    else if s.stalled p.pa then .error .wait
    else
      let (v, s) := s.homeRead s.core.vd p.pa n
      match s.readParts r with
      | .error e => .error e
      | .ok (w, s) => .ok (v % 2 ^ (8 * n) * 2 ^ (8 * o) + w, s)

/-- n bytes at an address, read by the task in focus in this turn; vec as in the checks. -/
def State.readNow (s : State) (va : Word) (n align : Nat) (vec : Bool) : Except Halt (Nat × State) :=
  match s.checkParts .read align vec (blockParts (n / 64 + 2) va n 0) with
  | .error e => .error e
  | .ok (ps, s) => s.readParts ps

/-- Consecutive aligned doublewords, read one by one. -/
def State.readDwords (s : State) (va : Word) : Nat → Except Halt (List Word × State)
  | 0 => .ok ([], s)
  | n + 1 =>
    match s.readNow va 8 8 false with
    | .error e => .error e
    | .ok (x, s) =>
      match s.readDwords (va + 8) n with
      | .error e => .error e
      | .ok (l, s) => .ok (w64 x :: l, s)

/-! ### Sparse buffers (R292 to R298) -/

/-- The descriptor of a sparse buffer (R292). -/
structure SparseDesc where
  capacity : Nat
  count : Nat
  length : Nat
  poff : Nat
  deriving DecidableEq, Repr

/-- A well-formed descriptor of a format from its three doublewords (R292). -/
def sparseDesc (f : Fmt) (l : List Word) : Option SparseDesc :=
  let d i := l.getD i (0 : Word)
  let x : SparseDesc := ⟨bits (d 0) 32 32, bits (d 1) 0 32, bits (d 1) 32 32, bits (d 2) 0 32⟩
  if bits (d 0) 0 32 = f.tag.toNat && bits (d 2) 32 32 = 0 && x.count % 16 = 0 && x.capacity % 2 = 0 &&
      x.length % 2 = 0 && x.length ≤ x.capacity && x.poff % 2 = 0 && 32 ≤ x.poff then some x else none

/-- The record of a token: its bytes after the mask, its mask, and how many lanes it holds (R293). -/
def sparseRecord (x : Token) (f : Fmt) : Nat → List Byte × Nat × Nat
  | 0 => ([], 0, 0)
  | i + 1 =>
    let (l, m, k) := sparseRecord x f i
    if x.ok i && !f.isZeroLane (x.lane f i) then
      (l ++ toBytes (elemBytes f) (x.lane f i).toNat, m + 2 ^ i, k + 1) else (l, m, k)

/-- Length of a record of k lanes (R293). -/
def recordBytes (f : Fmt) (k : Nat) : Nat := (2 + elemBytes f * k + 1) / 2 * 2

/-- VSTZ (R295, R297, R298). -/
def vstzOp (f : Fmt) (o : Ord) (sp : Scope) (t : VReg) (base idx : GReg) (off : BitVec 22) (s : State) : Act :=
  let d := s.g base + off.signExtend 64
  if d.toNat % 8 ≠ 0 then fault s cMisaligned d
  else match s.mismatch [(t, .tag f)] with
  | some e => fault s cFormatTag e
  | none =>
    if o == .rel && !s.released sp then .wait s
    else s.reading 0 .plain .tile 8 false (dwordParts d 3) fun s1 desc =>
      match sparseDesc f (dwordsOf 3 desc) with
      | none => fault s cSparseFormat d
      | some x =>
        let (vals, mask, k) := sparseRecord (s.v t) f 16
        let n := recordBytes f k
        if x.capacity < x.length + n then fault s cSparseOverrun d
        else
          let p := d + w64 (x.poff + x.length)
          match s1.checkParts .write 1 true (blockParts 3 p n 0) with
          | .error e => e.act s
          | .ok (ps, s2) =>
            match s2.checkParts .write 8 false [(d + 8, 8, 0)] with
            | .error e => e.act s
            | .ok (qs, s3) =>
              let first := s3.nextId
              let ord := if o == .strm then Ord.strm else Ord.plain
              let s4 := s3.enterStores ord .tile (mask + ofBytes vals * 2 ^ 16) (fullMask n) ps
              let ids := (List.range ps.length).map fun i => first + i
              let total := x.length + n
              match qs with
              | [] => .retire s4
              | (q, va, _, _) :: _ =>
                let w := (x.count + 16) % 2 ^ 32 + total * 2 ^ 32
                if ownSlots s3.cur q.pa then
                  -- a descriptor in the task's own slots: once the record has been performed
                  match s3.core.readings[1]? with
                  | none => s4.awaitParts { parts := pendParts first ps }
                  | some r =>
                    if r.parts.isEmpty && s3.core.stepsDone && s3.ownSlotReady (s3.taskAccess .store va q 8 .plain .tile) then
                      s3.ownStore q (w64 w) fun t => t.setG idx (w64 total)
                    else .wait s
                else
                  let s5 := s4.enterAccess { s4.taskAccess .store va q 8 .plain .tile with
                    data := BitVec.ofNat 512 w, mask := BitVec.ofNat 512 (fullMask 8), after := ids }
                  .retire (s5.setG idx (w64 total))
def execVstz (c : Guard) (f : Fmt) (o : Ord) (sp : Scope) (t : VReg) (base idx : GReg) (off : BitVec 22) (s : State) :
    Out := s.go .us false c (vstzOp f o sp t base idx off)

/-- VLDZ (R296 to R298): the descriptor, then the mask, then the values, whose bytes the register awaits. -/
def vldzOp (f : Fmt) (o : Ord) (sp : Scope) (t : VReg) (base idx : GReg) (off : BitVec 22) (s : State) : Act :=
  let d := s.g base + off.signExtend 64
  if d.toNat % 8 ≠ 0 then fault s cMisaligned d
  else s.reading 0 o sp 8 false (dwordParts d 3) fun s1 desc =>
    match sparseDesc f (dwordsOf 3 desc) with
    | none => fault s cSparseFormat d
    | some x =>
      let c := (s.g idx).toNat
      if c % 2 = 1 || x.length < c + 2 then fault s cSparseFormat d
      else
        let a := d + w64 (x.poff + c)
        s1.reading 1 .plain .tile 1 true (blockParts 2 a 2 0) fun s2 mask =>
          let k := (List.range 16).countP fun j => mask.testBit j
          let n := recordBytes f k
          if x.length < c + n then fault s cSparseFormat d
          else match s2.checkParts .read 1 true (blockParts 3 (a + 2) (elemBytes f * k) 0) with
          | .error e => e.act s
          | .ok ([], s3) => .retire ((s3.setV t (Token.fresh f (fun _ => true) fun _ => 0)).setG idx (w64 (c + n)))
          | .ok (ps, s3) =>
            .retire (((s3.pendV t (.sparse t f mask) (pendParts s3.nextId ps)).enterLoads .plain .tile ps).setG idx
              (w64 (c + n)))
def execVldz (c : Guard) (f : Fmt) (o : Ord) (sp : Scope) (t : VReg) (base idx : GReg) (off : BitVec 22) (s : State) :
    Out := s.go .us false c (vldzOp f o sp t base idx off)

end Sys2Proof.Machine
end

