-- ==== Sys2Proof/Machine/Tile.lean ====
section
/-!
DEFINITION. The TILE group: the macro-ops RDOT, DDOT and RANK, one step a turn (R89 to R105, R109 to R111), the
arrival of their results (R90), and ACLR, ALD, AST and TPRED (R106 to R108, R345, R411).
-/
namespace Sys2Proof.Machine

/-! ### Shapes and checks (R92, R93) -/

/-- The fields of a shape register (R92). -/
structure Shape where
  m : Nat
  n : Nat
  k : Nat
  off : Nat
  deriving DecidableEq, Repr

def shapeOf (e : Word) : Shape := ⟨bits e 0 8, bits e 8 8, bits e 16 16, bits e 32 32⟩

/-- The limits of R92; RANK ignores M, and ALD, AST and TPRED ignore K. -/
def Shape.ok (x : Shape) (useM useK : Bool) : Bool :=
  (!useM || decide (x.m ≤ 16)) && decide (x.n ≤ 16) && (!useK || x.k % 32 == 0)

/-- An operand of the issue checks: address, bytes, alignment. -/
abbrev Operand := Word × Nat × Nat

/-- The first operand that does not lie in tile store, or is misaligned (R93). The rule orders its checks but not the
operands: they are judged one after another, and EVAL is the base of the one that fails (log entry 92). -/
def operandFault : List Operand → Option (BitVec 8 × Word)
  | [] => none
  | (va, n, al) :: r =>
    match localOff va with
    | none => some (cPermission, va)
    | some off =>
      if Config.tileStore < off + n then some (cPermission, va)
      else if off % al ≠ 0 then some (cMisaligned, va)
      else operandFault r

/-- The address of a tile-store offset in the local window. -/
def storeVa (off : Nat) : Word := w64 (Config.localBase + off)

/-- How many of n bytes at a tile-store offset lie in tile store. -/
def inTileStore (off n : Nat) : Nat := min n (Config.tileStore - off)

/-- The bytes of an operand as one number. The issue checks keep operands inside tile store; where a resume runs without
them, a byte outside reads 0 (log entry 95). -/
def State.operand (s : State) (va : Word) (o n : Nat) : Nat :=
  let off := va.toNat - Config.localBase + o
  s.rd (localPa s.cur off) (if va.toNat < Config.localBase then 0 else inTileStore off n)

/-! ### Exact sums (R96, R97, R104) -/

/-- The sum of exact products by IEEE 754, whatever their order; an exactly zero sum is +0. The flag is invalid. -/
def sumExact (l : List (XVal × Bool)) : XVal × Bool :=
  let inv := l.any Prod.snd
  let pos := l.any fun x => x.1 == .inf false
  let neg := l.any fun x => x.1 == .inf true
  if l.any fun x => x.1.isNaN then (.qnan, inv || (pos && neg))
  else if pos && neg then (.qnan, true)
  else if pos then (.inf false, inv)
  else if neg then (.inf true, inv)
  else
    let t := l.foldl (fun a x => (a.add x.1 .rne).1) (.fin false 0 0)
    (if t.isZero then .fin false 0 0 else t, inv)

/-- The exponent of a nonzero finite value (R96). -/
def expOf : XVal → Option Int
  | .fin _ 0 _ => none
  | .fin _ m e => some (m.log2 + e)
  | _ => none

/-- The largest exponent over a list of values; 0 when all are zero. -/
def maxLog : List XVal → Int
  | [] => 0
  | x :: r =>
    match expOf x, r.any fun y => (expOf y).isSome with
    | none, _ => maxLog r
    | some e, false => e
    | some e, true => max e (maxLog r)

/-- An activation aligned to the group's exponent, truncated toward zero (R96). -/
def alignAct (e : Int) (x : XVal) : Int :=
  match x with
  | .fin neg m q => (if neg then -1 else 1) * (m * pow2Num (q + 26 - e) / pow2Den (q + 26 - e) : Nat)
  | _ => 0

/-- Gsum of R96. With the codes in their order the difference form equals the direct sum over the group, exactly
(R96, R101), so the order of the codes does not matter here. -/
def gsum : List Int → List Int → Int
  | c :: cs, a :: as => c * a + gsum cs as
  | _, _ => 0

/-- The contribution of one row and column of a group (R96, R97). The rule gives the sign of a zero contribution only for
32 zero activations; every zero contribution is +0 (log entry 93). -/
def rdotContrib (act : Fmt) (codes : List Int) (xs : List XVal) (scale : XVal) : XVal × Bool :=
  let odd (x : XVal) : Bool := x.isNaN || x.isInf
  if odd scale || xs.any odd then
    let t := sumExact ((codes.zip xs).map fun p => (XVal.ofInt p.1).mul p.2)
    let u := t.1.mul scale
    (u.1, t.2 || u.2 || scale.isSNaN)
  else
    let e := if act = .int8 then 26 else maxLog xs
    let g := gsum codes (xs.map fun x => if act = .int8 then x.at 0 else alignAct e x)
    let u := (XVal.fin (decide (g < 0)) g.natAbs (e - 26)).mul scale
    (if u.1.isZero then .fin false 0 0 else u.1, false)

/-- The contribution in INT32 mode (R98). -/
def rdotContribInt (codes : List Int) (xs : List XVal) : XVal := XVal.ofInt (gsum codes (xs.map fun x => x.at 0))

/-! ### Results on their way to an accumulator (R90, R96, R98) -/

/-- An INT32 element after an exact contribution, saturated (R98). -/
def addInt32 (old : Lane) (x : XVal) : Lane × BitVec 6 :=
  let v := old.toInt + x.at 0
  if v < -2147483648 then (BitVec.ofInt 32 (-2147483648), flOverflow)
  else if 2147483647 < v then (BitVec.ofInt 32 2147483647, flOverflow)
  else (BitVec.ofInt 32 v, 0)

/-- An FP32 element after an exact contribution: one rounding to nearest (R79, R96). -/
def addFp32 (old : Lane) (x : XVal) : Lane × BitVec 6 :=
  let t := (fp32 old).add x .rne
  let r := f32.roundX t.1 .rne false
  (BitVec.ofNat 32 r.1, r.2 ||| flagIf t.2 flInvalid)

/-- The contributions of a step, in order. -/
def addAll (i32 : Bool) (el : Vector Lane 256) (fl : BitVec 6) : List (Nat × XVal) → Vector Lane 256 × BitVec 6
  | [] => (el, fl)
  | (i, x) :: r =>
    let old := el[i]?.getD 0
    let n := if i32 then addInt32 old x else addFp32 old x
    addAll i32 (el.setIfInBounds i n.1) (fl ||| n.2) r

/-- Elements set to 0. -/
def clearAll (el : Vector Lane 256) : List Nat → Vector Lane 256
  | [] => el
  | i :: r => clearAll (el.setIfInBounds i 0) r

/-- A step's result reaches its accumulator (R90, R96). -/
def Core.applyStep (c : Core) (r : StepResult) : Core :=
  let a := c.rdA r.acc
  let x := addAll r.i32 (clearAll a.el r.clear) 0 r.adds
  { c.wrA r.acc { el := x.1, v := a.v || r.last, d := a.d || (r.last && r.setD) } with
    fstat := c.fstat ||| x.2 ||| r.flags }

/-- The oldest result on its way arrives; writes held on an accumulator whose F bit falls land (R59, R90). -/
def Core.macroResult (c : Core) : Core :=
  match c.inflight with
  | [] => c
  | r :: rest => ({ c.applyStep r with inflight := rest } : Core).land

/-- MACRO_STEP_RESULT (R90). -/
def execMacroStepResult (t : Nat) (s : State) : Out :=
  s.event (!(s.tileAt t).core.inflight.isEmpty) (s.updCore t Core.macroResult)

/-! ### The course of a macro-op (R90, R109 to R111) -/

/-- What a step does: a state, or a bad table or code at a tile-store offset. -/
inductive StepOut where
  | ok (s : State)
  | bad (off : Nat)

/-- A macro-op: its checks at a start at step 0, how many steps it has, its effect with no step, its effect when a
resume finds no step left, and its step. -/
structure MacroOp where
  acc : Option AReg
  check : Option (BitVec 8 × Word)
  wait : Bool
  total : Nat
  zero : State → State
  done : State → State
  step : Nat → State → StepOut

/-- The next step to run: that of a macro-op in progress, or that of ESTEP (R109). -/
def Core.firstStep (c : Core) : Nat :=
  match c.stepAt with
  | some t => t
  | none => if c.estep.getLsbD 63 then bits c.estep 0 32 else 0

/-- One turn of a macro-op (R90, R109, R392). A resume above step 0 makes no issue check, and its step runs on the
addresses and indices that its operands give, whatever they are; what lies outside tile store reads 0 and is not written
(R109; log entry 95). Each step reads its operands at one
moment (log entry 97). -/
def MacroOp.run (x : MacroOp) (s : State) : Act :=
  let c := s.core
  let first := c.firstStep
  let starting := c.stepAt.isNone
  match (if starting && first = 0 then x.check else none) with
  | some (cause, eval) => fault s cause eval
  | none =>
    if starting && (!s.drained || x.wait) then .wait s
    else
      let s1 := s.setCore { c with estep := c.estep &&& 0x7FFFFFFFFFFFFFFF, stepAcc := x.acc }
      if x.total = 0 then .retire (x.zero s1)
      else if x.total ≤ first then .retire (x.done s1)
      else match x.step first s1 with
        | .bad off =>
          if !c.inflight.isEmpty then .wait (s1.setCore { s1.core with stepAt := some first, opWord := s1.ir })
          else .trap (s1.setCore { s1.core with stepAt := none }) cNmMetadata (w64 off) (w64 (first % 2 ^ 32 + 2 ^ 63))
        | .ok s2 =>
          if first + 1 = x.total then .retire s2
          else .wait (s2.setCore { s2.core with stepAt := some (first + 1), opWord := s2.ir })

/-- A result leaves for its accumulator. -/
def State.sendResult (s : State) (r : StepResult) : State :=
  s.setCore { s.core with inflight := s.core.inflight ++ [r] }

/-- The effect of a zero dimension (R111). -/
def zeroShape (ad : AReg) (x : Shape) (acc : Bool) (s : State) : State :=
  let clears := x.m ≠ 0 && x.n ≠ 0 && !acc
  s.sendResult { acc := ad, adds := [], clear := if clears then partIndices x.m x.n else [], last := true, setD := clears }

/-- V and D when a resume finds no step left. -/
def noStepLeft (ad : AReg) (s : State) : State := s.sendResult { acc := ad, adds := [], last := true }

/-- ACC_STATE at issue (R47). -/
def accUndefined (s : State) (ad : AReg) (acc : Bool) : Bool := acc && !(s.core.rdA ad).v && !s.core.fBit ad

/-- The checks of R93 in their order. -/
def issueCheck (shapeOk : Bool) (e : Word) (accBad : Bool) (ad : Nat) (ops : List Operand) : Option (BitVec 8 × Word) :=
  if !shapeOk then some (cTileShape, e)
  else if accBad then some (cAccState, w64 ad)
  else operandFault ops

/-- A guard that a macro-op in progress has already passed. -/
def macroGuard (s : State) (c : Guard) : Guard := if s.core.stepAt.isSome then ⟨0, false⟩ else c

/-! ### RDOT and RANK (R94 to R101, R391, R392) -/

/-- The 32 codes of column n and group g (R95). -/
def codesAt (s : State) (b : Word) (wt : Fmt) (r : Nat) : List Int :=
  let x := s.operand b (r * 4 * wt.width) (4 * wt.width)
  (List.range 32).map fun j => wt.int (BitVec.ofNat 32 (x / 2 ^ (j * wt.width) % 2 ^ wt.width))

/-- The columns of octet o (R96). -/
def octet (n o : Nat) : List Nat := (List.range 8).filterMap fun i => if 8 * o + i < n then some (8 * o + i) else none

/-- A stored table is valid for its codes (R100). -/
def tableValid (codes : List Int) (table : Nat) : Bool :=
  let e := (List.range 32).map fun i => table / 2 ^ (5 * i) % 32
  (List.range 32).all (fun j => e.contains j) &&
  (List.range 31).all fun i => decide (codes.getD (e.getD i 0) 0 ≤ codes.getD (e.getD (i + 1) 0) 0)

/-- Stable ascending order of codes (R96): how many codes stand before code j, and the order itself. -/
def rankOf (codes : List Int) (j : Nat) : Nat :=
  let c := codes.getD j 0
  (List.range 32).countP fun i => decide (codes.getD i 0 < c) || (codes.getD i 0 == c && decide (i < j))
def orderTable (codes : List Int) : Nat :=
  (List.range 32).foldl (fun t j => t + j * 2 ^ (5 * rankOf codes j)) 0

/-- The activations of row m in group g (R95). -/
def actsAt (s : State) (a : Word) (act : Fmt) (k m g : Nat) : List XVal :=
  let sz := elemBytes act
  let x := s.operand a ((m * k + 32 * g) * sz) (32 * sz)
  (List.range 32).map fun j => act.value (BitVec.ofNat 32 (x / 2 ^ (8 * sz * j) % 2 ^ (8 * sz)))

/-- Step t of RDOT (R96 to R98, R101). Of several invalid tables EVAL names that of the lowest column (log entry 93). -/
def rdotStep (act wt : Fmt) (acc i32 pt : Bool) (ad : AReg) (a b sc : Word) (x : Shape) (t : Nat) (s : State) : StepOut :=
  let groups := x.k / 32
  let octets := (x.n + 7) / 8
  let g := t / octets
  let cols := (octet x.n (t % octets)).map fun n => (n, codesAt s b wt (n * groups + g))
  let table (n : Nat) : Nat := x.off + (n * groups + g) * 20
  let bad := cols.find? fun p => pt && !tableValid p.2 (s.operand (storeVa (table p.1)) 0 20)
  match bad with
  | some p => .bad (table p.1)
  | none =>
    let rows := (List.range x.m).map fun m => (m, actsAt s a act x.k m g)
    let cells := rows.flatMap fun r => cols.map fun p => (16 * r.1 + p.1, r.2, p)
    let contrib (q : Nat × List XVal × (Nat × List Int)) : XVal × Bool :=
      if i32 then (rdotContribInt q.2.2.2 q.2.1, false)
      else rdotContrib act q.2.2.2 q.2.1
        (Fmt.bf16.value (BitVec.ofNat 32 (s.operand sc ((q.2.2.1 * groups + g) * 2) 2)))
    let out := cells.map fun q => (q.1, contrib q)
    .ok (s.sendResult {
      acc := ad, adds := out.map fun q => (q.1, q.2.1)
      clear := if !acc && g = 0 then cells.map fun q => q.1 else []
      i32 := i32, last := t + 1 = octets * groups
      flags := flagIf (out.any fun q => q.2.2) flInvalid })

/-- RDOT (R392). -/
def rdotOp (act wt : Fmt) (acc i32 pt : Bool) (ad : AReg) (a b sc e : GReg) (s : State) : Act :=
  let x := shapeOf (s.g e)
  let groups := x.k / 32
  let total := if x.m = 0 then 0 else (x.n + 7) / 8 * groups
  let ops : List Operand := if total = 0 then [] else
    [(s.g a, x.m * x.k * elemBytes act, elemBytes act), (s.g b, x.n * groups * 4 * wt.width, 4)] ++
    (if i32 then [] else [(s.g sc, x.n * groups * 2, 2)]) ++
    (if pt then [(storeVa x.off, x.n * groups * 20, 1)] else [])
  let op : MacroOp := {
    acc := some ad
    check := issueCheck (x.ok true true) (s.g e) (accUndefined s ad acc) ad.val ops
    wait := false, total := total, zero := zeroShape ad x acc, done := noStepLeft ad
    step := rdotStep act wt acc i32 pt ad (s.g a) (s.g b) (s.g sc) x }
  op.run s
def execRdot (c : Guard) (act wt : Fmt) (acc i32 pt : Bool) (ad : AReg) (a b sc e : GReg) (s : State) : Out :=
  s.go .us false (macroGuard s c) (rdotOp act wt acc i32 pt ad a b sc e)

/-- Step t of RANK: the tables of one octet and group, each after its codes have been read (R99, R391). -/
def rankStep (wt : Fmt) (b : Word) (x : Shape) (t : Nat) (s : State) : StepOut :=
  let groups := x.k / 32
  let octets := (x.n + 7) / 8
  let g := t / octets
  let tables := (octet x.n (t % octets)).map fun n =>
    (x.off + (n * groups + g) * 20, orderTable (codesAt s b wt (n * groups + g)))
  .ok (tables.foldl (fun s p => s.commit (localPa s.cur p.1) (inTileStore p.1 20) p.2 (fullMask 20)) s)

/-- RANK (R391). -/
def rankOp (wt : Fmt) (b e : GReg) (s : State) : Act :=
  let x := shapeOf (s.g e)
  let groups := x.k / 32
  let total := (x.n + 7) / 8 * groups
  let ops : List Operand := if total = 0 then [] else
    [(s.g b, x.n * groups * 4 * wt.width, 4), (storeVa x.off, x.n * groups * 20, 1)]
  let op : MacroOp := {
    acc := none, check := issueCheck (x.ok false true) (s.g e) false 0 ops, wait := false, total := total
    zero := fun s => s, done := fun s => s, step := rankStep wt (s.g b) x }
  op.run s
def execRank (c : Guard) (wt : Fmt) (b e : GReg) (s : State) : Out :=
  s.go .us false (macroGuard s c) (rankOp wt b e)

/-! ### DDOT (R102 to R105) -/

/-- Element i of a record of a format at a bit offset of an operand. -/
def elemAt (s : State) (va : Word) (f : Fmt) (i : Nat) : Lane :=
  let bit := i * f.width
  BitVec.ofNat 32 (s.operand va (bit / 8) 5 / 2 ^ (bit % 8) % 2 ^ f.width)

/-- The value of a B element; a CB4 code stands for its entry of tb0 (R77, R103). -/
def bValue (s : State) (f : Fmt) (x : Lane) : XVal :=
  if f = .cb4 then Fmt.bf16.value (((s.core.tb[0]).extractLsb' (16 * (x.toNat % 16)) 16).setWidth 32) else f.value x

/-- The positions of the stored values of a group: 2:4 codes 0 to 5 (R103). -/
def pairOf (code : Nat) : Option (List Nat) :=
  [[0, 1], [0, 2], [0, 3], [1, 2], [1, 3], [2, 3]][code]?

/-- The positions named by a 4:8 group of 12 bits; none when one is repeated (R105). -/
def quadOf (x : Nat) : Option (List Nat) :=
  let l := (List.range 4).map fun i => x / 2 ^ (3 * i) % 8
  if l.Nodup then some l else none

/-- Positions within a chunk of 16 along K of the eight values stored for it in column n, and the offset of the first
bad code (R103, R105). The bad code of a 4:8 group with a repeated index is the whole group of 12 bits (log entry 93). -/
def sparsePositions (s : State) (sp : Sparsity) (md : Word) (k n chunk : Nat) : Except Nat (List Nat) :=
  let base := md.toNat - Config.localBase
  let groups : List (Nat × Nat × Option (List Nat)) :=
    match sp with
    | .sp48 => (List.range 2).map fun i =>
        let bit := 12 * (2 * chunk + i)
        let o := n * (3 * k / 16) + bit / 8
        (o, 8 * i, quadOf (s.operand md o 2 / 2 ^ (bit % 8) % 2 ^ 12))
    | _ => (List.range 4).map fun i =>
        let q := 4 * chunk + i
        let o := n * (k / 8) + q / 2
        (o, 4 * i, pairOf (s.operand md o 1 / 2 ^ (4 * (q % 2)) % 16))
  match groups.find? fun g => g.2.2.isNone with
  | some g => .error (base + g.1)
  | none => .ok (groups.flatMap fun g => (g.2.2.getD []).map fun p => g.2.1 + p)

/-- The 16 values of B in a chunk of column n along K, missing ones zero (R103, R104). -/
def bChunk (s : State) (fb : Fmt) (sp : Sparsity) (b md : Word) (k n chunk : Nat) : Except Nat (List XVal) :=
  match sp with
  | .dense => .ok ((List.range 16).map fun i => bValue s fb (elemAt s (b + w64 (n * k * fb.width / 8)) fb (16 * chunk + i)))
  | _ =>
    match sparsePositions s sp md k n chunk with
    | .error o => .error o
    | .ok ps =>
      let vals := (List.range 8).map fun i =>
        bValue s fb (elemAt s (b + w64 (n * (k / 2) * fb.width / 8)) fb (8 * chunk + i))
      .ok ((List.range 16).map fun p =>
        match (ps.zip vals).find? fun q => q.1 == p with
        | some q => q.2
        | none => .fin false 0 0)

/-- An E8M0 block scale of MX mode (R103); 1 otherwise. -/
def mxScale (s : State) (mx : Bool) (off : Nat) : XVal :=
  if mx then Fmt.e8m0.value (BitVec.ofNat 32 (s.operand (storeVa off) 0 1)) else .fin false 1 0

/-- Both operands are INT8, which selects INT32 accumulation (R102). -/
def ddotInt (fa fb : Fmt) : Bool := fa == .int8 && fb == .int8

/-- The exact sum of one chunk for one element (R104). -/
def chunkSum (xs bs : List XVal) (sa sb : XVal) : XVal × Bool :=
  sumExact ((xs.zip bs).map fun p =>
    let l := sa.mul p.1
    let r := sb.mul p.2
    let u := l.1.mul r.1
    (u.1, l.2 || r.2 || u.2))

/-- Columns with their B chunk, or the first bad metadata offset. -/
def bColumns (s : State) (fb : Fmt) (sp : Sparsity) (b md : Word) (k chunk : Nat) :
    List Nat → Except Nat (List (Nat × List XVal))
  | [] => .ok []
  | n :: r =>
    match bChunk s fb sp b md k n chunk with
    | .error o => .error o
    | .ok l =>
      match bColumns s fb sp b md k chunk r with
      | .error o => .error o
      | .ok rest => .ok ((n, l) :: rest)

/-- The contributions of one chunk, element by element. -/
def chunkAdds (s : State) (fa : Fmt) (mx : Bool) (a : Word) (x : Shape) (chunk : Nat)
    (cols : List (Nat × List XVal)) : List (Nat × (XVal × Bool)) :=
  let blk := chunk / 2
  (List.range x.m).flatMap fun m =>
    let row := (List.range 16).map fun i => fa.value (elemAt s (a + w64 (m * x.k * fa.width / 8)) fa (16 * chunk + i))
    let sa := mxScale s mx (x.off + m * (x.k / 32) + blk)
    cols.map fun p =>
      (16 * m + p.1, chunkSum row p.2 sa (mxScale s mx (x.off + x.m * (x.k / 32) + p.1 * (x.k / 32) + blk)))

/-- The chunks of a step, in increasing K: one when dense, two when sparse (R104). Of several bad codes EVAL names the
first by chunk, then column, then group (R105; log entry 93). -/
def ddotAdds (s : State) (fa fb : Fmt) (sp : Sparsity) (mx : Bool) (a b md : Word) (x : Shape) :
    List Nat → Except Nat (List (Nat × (XVal × Bool)))
  | [] => .ok []
  | ch :: r =>
    match bColumns s fb sp b md x.k ch (List.range x.n) with
    | .error o => .error o
    | .ok cols =>
      match ddotAdds s fa fb sp mx a b md x r with
      | .error o => .error o
      | .ok rest => .ok (chunkAdds s fa mx a x ch cols ++ rest)

/-- Step t of DDOT (R104, R105). -/
def ddotStep (fa fb : Fmt) (acc : Bool) (sp : Sparsity) (mx : Bool) (ad : AReg) (a b md : Word) (x : Shape) (total t : Nat)
    (s : State) : StepOut :=
  match ddotAdds s fa fb sp mx a b md x (if sp = .dense then [t] else [2 * t, 2 * t + 1]) with
  | .error o => .bad o
  | .ok out => .ok (s.sendResult {
      acc := ad, adds := out.map fun q => (q.1, q.2.1)
      clear := if !acc && t = 0 then partIndices x.m x.n else []
      i32 := ddotInt fa fb, last := t + 1 = total
      flags := flagIf (out.any fun q => q.2.2) flInvalid })

/-- DDOT (R363). -/
def ddotOp (fa fb : Fmt) (acc : Bool) (sp : Sparsity) (mx : Bool) (ad : AReg) (a b md e : GReg) (s : State) : Act :=
  let x := shapeOf (s.g e)
  let kb := if sp = .dense then x.k else x.k / 2
  let total := if x.m = 0 || x.n = 0 then 0 else if sp = .dense then x.k / 16 else x.k / 32
  let mdBytes : Nat := match sp with
    | .dense => 0
    | .sp24 => x.n * (x.k / 8)
    | .sp48 => x.n * (3 * x.k / 16)
  let ops : List Operand := if total = 0 then [] else
    [(s.g a, x.m * x.k * fa.width / 8, elemBytes fa), (s.g b, x.n * kb * fb.width / 8, 4)] ++
    (if sp = .dense then [] else [(s.g md, mdBytes, 1)]) ++
    (if mx then [(storeVa x.off, (x.m + x.n) * (x.k / 32), 2)] else [])
  let op : MacroOp := {
    acc := some ad
    check := issueCheck (x.ok true true) (s.g e) (accUndefined s ad acc) ad.val ops
    wait := fb = .cb4 && s.core.tbPend.getLsbD 0
    total := total, zero := zeroShape ad x acc, done := noStepLeft ad
    step := ddotStep fa fb acc sp mx ad (s.g a) (s.g b) (s.g md) x total }
  op.run s
def execDdot (c : Guard) (fa fb : Fmt) (acc : Bool) (sp : Sparsity) (mx : Bool) (ad : AReg) (a b md e : GReg) (s : State) :
    Out := s.go .us false (macroGuard s c) (ddotOp fa fb acc sp mx ad a b md e)

/-! ### ACLR, ALD, AST and TPRED (R106 to R108) -/

/-- ACLR (R107). -/
def aclrOp (ad : AReg) (s : State) : Act :=
  if s.core.fBit ad then .wait s
  else .retire (s.setCore (s.core.wrA ad { el := Vector.replicate 256 0, v := true, d := true }))
def execAclr (c : Guard) (ad : AReg) (s : State) : Out := s.go .us false c (aclrOp ad)

/-- Checked parts of an operand in tile store, split at 64-byte blocks (R93). -/
def storeParts (s : State) (va : Word) (n : Nat) : List (Spot × Word × Nat × Nat) :=
  (blockParts (n / 64 + 2) va n 0).map fun q =>
    (⟨localPa s.cur (q.1.toNat - Config.localBase), 1, 3, 0, q.1.toNat, 1⟩, q.1, q.2.1, q.2.2)

/-- A register awaits the bytes of an operand in tile store: plain loads of the task (R107, R411). -/
def State.loadOperand (s : State) (d : Dest) (va : Word) (n : Nat) : State :=
  let l := storeParts s va n
  (s.setCore { s.core with pend := s.core.pend ++ [{ dest := d, parts := pendParts s.nextId l }] }).enterLoads .plain .tile l

/-- ALD (R107): V and D are set at once, the elements as they come. -/
def aldOp (ad : AReg) (a e : GReg) (s : State) : Act :=
  let x := shapeOf (s.g e)
  let n := 4 * (x.m * x.n)
  match issueCheck (x.ok true false) (s.g e) false 0 (if n = 0 then [] else [(s.g a, n, 4)]) with
  | some (cause, eval) => fault s cause eval
  | none =>
    if s.core.fBit ad then .wait s
    else
      let s1 := s.setCore (s.core.wrA ad { s.core.rdA ad with v := true, d := true })
      .retire (if n = 0 then s1 else s1.loadOperand (.acc ad x.m x.n) (s.g a) n)
def execAld (c : Guard) (ad : AReg) (a e : GReg) (s : State) : Out := s.go .us false c (aldOp ad a e)

/-- The M by N part as a string of words, row by row. -/
def partString (el : Vector Lane 256) : List Nat → Nat
  | [] => 0
  | i :: r => (el[i]?.getD 0).toNat + 2 ^ 32 * partString el r

/-- AST (R107): it judges V after it has waited for F (R93, R106). -/
def astOp (ad : AReg) (a e : GReg) (s : State) : Act :=
  let x := shapeOf (s.g e)
  let n := 4 * (x.m * x.n)
  if !x.ok true false then fault s cTileShape (s.g e)
  else if s.core.fBit ad then .wait s
  else
    let acc := s.core.rdA ad
    match issueCheck true (s.g e) (!acc.v) ad.val (if n = 0 then [] else [(s.g a, n, 4)]) with
    | some (cause, eval) => fault s cause eval
    | none =>
      let s1 := s.enterStores .plain .tile (partString acc.el (partIndices x.m x.n)) (fullMask n)
        (if n = 0 then [] else storeParts s (s.g a) n)
      .retire (s1.setCore (s1.core.wrA ad { acc with d := false }))
def execAst (c : Guard) (ad : AReg) (a e : GReg) (s : State) : Out := s.go .us false c (astOp ad a e)

/-- TPRED (R108, R411): the predicate awaits the bytes of the tile. -/
def tpredOp (f : Fmt) (pd : PReg) (a e : GReg) (s : State) : Act :=
  let x := shapeOf (s.g e)
  let n := (x.m * x.n * f.width + 7) / 8
  match issueCheck (x.ok true false) (s.g e) false 0 (if n = 0 then [] else [(s.g a, n, elemBytes f)]) with
  | some (cause, eval) => fault s cause eval
  | none =>
    let s1 := s.setP pd true
    .retire (if n = 0 then s1 else s1.loadOperand (.pred pd f (x.m * x.n)) (s.g a) n)
def execTpred (c : Guard) (f : Fmt) (pd : PReg) (a e : GReg) (s : State) : Out := s.go .us false c (tpredOp f pd a e)

end Sys2Proof.Machine
end

