-- ==== Sys2Proof/Machine/Fabric.lean ====
section
/-!
DEFINITION. The stream fabric as a whole (chapter 07): the fields of frames, the inlets and outlets of a tile and
the routes between them (R123, R124, R136), the filters of a switch (R121, R122), the move of a token along a data
track (R115, R116), control tokens (R119, R120), tags that rows hold (R173 to R175), and faults of the fabric (R150).
-/
namespace Sys2Proof.Machine

/-! ### Fields of frames (R133 to R135) -/

def slotKind (f : BitVec 256) : Nat := fbits f 236 4
def slotIn (f : BitVec 256) (i : Nat) : Bool := f.getLsbD (232 + i)
def slotOut (f : BitVec 256) (o : Nat) : Bool := f.getLsbD (230 + o)
def slotCin (f : BitVec 256) : Bool := f.getLsbD 229
def slotCout (f : BitVec 256) : Bool := f.getLsbD 228
def slotRate (f : BitVec 256) : Nat := fbits f 224 4
/-- Parameter i of an operator frame (R133). -/
def slotParam (f : BitVec 256) (i : Nat) : BitVec 32 := f.extractLsb' (32 * i) 32

def muMode (f : BitVec 256) : Nat := fbits f 236 4
def muWait (f : BitVec 256) (i : Nat) : Bool := f.getLsbD (234 + i)
def muDoneOn (f : BitVec 256) : Bool := f.getLsbD 233
def muFmt (f : BitVec 256) : Nat := fbits f 228 5
def muOrd (f : BitVec 256) : Nat := fbits f 225 3
def muScope (f : BitVec 256) : Scope := Scope.ofCode (f.extractLsb' 223 2)
def muCred (f : BitVec 256) (i : Nat) : Nat := fbits f (219 - 4 * i) 4
def muOff (f : BitVec 256) : Nat := fbits f 195 20
def muSize (f : BitVec 256) : Nat := fbits f 181 14

def agDims (f : BitVec 256) : Nat := fbits f 238 2 + 1
def agOn (f : BitVec 256) : Bool := f.getLsbD 237
def agPen (f : BitVec 256) : Bool := f.getLsbD 236
def agMode (f : BitVec 256) : Nat := fbits f 234 2
def agBase (f : BitVec 256) : BitVec 48 := f.extractLsb' 176 48
def agRounds (f1 : BitVec 256) : Nat := fbits f1 112 16
/-- Extent and stride of dimension d, from the two halves (R135). -/
def agExt (f0 f1 : BitVec 256) (d : Nat) : BitVec 24 :=
  if d = 0 then f0.extractLsb' 152 24 else if d = 1 then f0.extractLsb' 96 24
  else if d = 2 then f1.extractLsb' 216 24 else f1.extractLsb' 160 24
def agStride (f0 f1 : BitVec 256) (d : Nat) : BitVec 32 :=
  if d = 0 then f0.extractLsb' 120 32 else if d = 1 then f0.extractLsb' 64 32
  else if d = 2 then f1.extractLsb' 184 32 else f1.extractLsb' 128 32

/-! ### Elements of a tile -/

def Fabric.slot (x : Fabric) (i : Nat) : Slot := x.slots[i]?.getD {}
def Fabric.mu (x : Fabric) (i : Nat) : MemUnit := x.mus[i]?.getD {}
def Fabric.ag (x : Fabric) (i : Nat) : AddrGen := x.ags[i]?.getD {}
def Fabric.track (x : Fabric) (k : Nat) : Track := x.tracks[k]?.getD {}
def Fabric.updSlot (x : Fabric) (i : Nat) (f : Slot → Slot) : Fabric :=
  { x with slots := x.slots.setIfInBounds i (f (x.slot i)) }
def Fabric.updMu (x : Fabric) (i : Nat) (f : MemUnit → MemUnit) : Fabric :=
  { x with mus := x.mus.setIfInBounds i (f (x.mu i)) }
def Fabric.updAg (x : Fabric) (i : Nat) (f : AddrGen → AddrGen) : Fabric :=
  { x with ags := x.ags.setIfInBounds i (f (x.ag i)) }
def Fabric.updTrack (x : Fabric) (k : Nat) (f : Track → Track) : Fabric :=
  { x with tracks := x.tracks.setIfInBounds k (f (x.track k)) }

def Slot.inQ (x : Slot) (i : Nat) : List Token := x.ins[i]?.getD []
def Slot.setIn (x : Slot) (i : Nat) (q : List Token) : Slot := { x with ins := x.ins.setIfInBounds i q }
def Slot.outQ (x : Slot) (o : Nat) : List Token := x.outs[o]?.getD []
def Slot.setOut (x : Slot) (o : Nat) (q : List Token) : Slot := { x with outs := x.outs.setIfInBounds o q }
/-- Appending tokens to an output, when it is enabled. -/
def Slot.emit (x : Slot) (o : Nat) (l : List Token) : Slot :=
  if slotOut x.frame o then x.setOut o (x.outQ o ++ l) else x
def Slot.reg (x : Slot) (i : Nat) : BitVec 32 := x.p[i]?.getD 0
/-- Its outputs hold nothing: a kind acts again only when the network has taken what it sent (R115). -/
def Slot.clear (x : Slot) : Bool := (x.outQ 0).isEmpty && (x.outQ 1).isEmpty
/-- The enabled data inputs. -/
def Slot.inputs (x : Slot) : List Nat := (List.range 4).filter fun i => slotIn x.frame i

def MemUnit.uses (x : MemUnit) (j : Nat) : Bool :=
  match j with
  | 0 => muMode x.frame == 1 || muMode x.frame == 3 || muMode x.frame == 4
  | 1 => muMode x.frame == 2 || muMode x.frame == 3
  | 2 => muMode x.frame != 0 && muWait x.frame 0
  | 3 => muMode x.frame != 0 && muWait x.frame 1
  | _ => false
def MemUnit.inQ (x : MemUnit) (j : Nat) : List Token :=
  match j with
  | 0 => x.data
  | 1 => x.addr
  | 2 => x.wait[0]
  | _ => x.wait[1]
def MemUnit.setIn (x : MemUnit) (j : Nat) (q : List Token) : MemUnit :=
  match j with
  | 0 => { x with data := q }
  | 1 => { x with addr := q }
  | 2 => { x with wait := x.wait.set 0 q }
  | _ => { x with wait := x.wait.set 1 q }

/-! ### Inlets, outlets and routes (R124, R136) -/

/-- Where a switch delivers. -/
inductive Inlet where
  | track (k : Nat)
  | slotIn (s i : Nat)
  | slotPar (s : Nat)
  | mu (u j : Nat)
  | agPar (a : Nat)
  | port (p : Nat)
  deriving DecidableEq, Repr

/-- Where a switch takes tokens from. -/
inductive Outlet where
  | track (k : Nat)
  | slotOut (s o : Nat)
  | muOut (u : Nat)
  | muDone (u : Nat)
  | ag (a : Nat)
  | port (p : Nat)
  deriving DecidableEq, Repr

/-- Every inlet of a tile with the source code that its switch names. -/
def Fabric.inlets (x : Fabric) : List (Inlet × Nat) :=
  ((List.range 8).map fun i => (.track i, fbits x.sw[0] (234 - 30 * i) 6)) ++
  ((List.range 8).map fun i => (.track (8 + i), fbits x.sw[1] (234 - 30 * i) 6)) ++
  ((List.range 16).map fun j => (.slotIn (j / 4) (j % 4), fbits x.sw[2] (234 - 6 * j) 6)) ++
  ((List.range 4).map fun k => (.slotPar k, fbits x.sw[2] (138 - 6 * k) 6)) ++
  ((List.range 16).map fun j => (.mu (j / 4) (j % 4), fbits x.sw[3] (234 - 6 * j) 6)) ++
  ((List.range 2).map fun a => (.agPar a, fbits x.sw[3] (138 - 6 * a) 6)) ++
  ((List.range 8).map fun p => (.port p, fbits x.sw[3] (126 - 6 * p) 6))

/-- The source of one inlet. -/
def Fabric.sourceOf (x : Fabric) (i : Inlet) : Nat :=
  match x.inlets.find? fun q => q.1 == i with
  | some q => q.2
  | none => 0

/-- The inlet takes part in routing (R123). -/
def Fabric.live (x : Fabric) (i : Inlet) : Bool :=
  match i with
  | .slotIn s j => (x.slot s).on && slotIn (x.slot s).frame j
  | .slotPar s => (x.slot s).on
  | .mu u j => (x.mu u).on && (x.mu u).uses j
  | .agPar a => (x.ag a).on && agPen (x.ag a).f0
  | _ => true

/-- Tokens at an inlet, and room for one more (R115). -/
def Fabric.inletQ (x : Fabric) (i : Inlet) : List Token :=
  match i with
  | .track k => (x.track k).q
  | .slotIn s j => (x.slot s).inQ j
  | .slotPar s => (x.slot s).par
  | .mu u j => (x.mu u).inQ j
  | .agPar a => (x.ag a).par
  | .port p => x.inQ[p]?.getD []
def Fabric.room (x : Fabric) (i : Inlet) : Bool :=
  match i with
  | .track k => decide ((x.track k).q.length < 2)
  | _ => decide ((x.inletQ i).length < 8)

/-- The neighbour in a direction N, E, S, W (R4, R136). -/
def neighbour (t d : Nat) : Option Nat :=
  match d with
  | 0 => if 64 ≤ t then some (t - 64) else none
  | 1 => if t % 64 < 63 then some (t + 1) else none
  | 2 => if t / 64 < 63 then some (t + 64) else none
  | _ => if 0 < t % 64 then some (t - 1) else none

/-- The tile and outlet that a source code of a tile names (R136). -/
def outletOf (t src : Nat) : Option (Nat × Outlet) :=
  if src = 0 then none
  else if src ≤ 16 then
    let d := (src - 1) / 4
    (neighbour t d).map fun n => (n, .track (4 * ((d + 2) % 4) + (src - 1) % 4))
  else if src < 25 then some (t, .slotOut ((src - 17) / 2) ((src - 17) % 2))
  else if src < 29 then some (t, .muOut (src - 25))
  else if src < 33 then some (t, .muDone (src - 29))
  else if src < 35 then some (t, .ag (src - 33))
  else if src < 43 then some (t, .port (src - 35))
  else none

def Fabric.outletQ (x : Fabric) (o : Outlet) : List Token :=
  match o with
  | .track k => (x.track k).q
  | .slotOut s j => (x.slot s).outQ j
  | .muOut u => (x.mu u).out
  | .muDone u => (x.mu u).done
  | .ag a => (x.ag a).out
  | .port p => x.outQ[p]?.getD []
def Fabric.setOutletQ (x : Fabric) (o : Outlet) (q : List Token) : Fabric :=
  match o with
  | .track k => x.updTrack k fun y => { y with q := q }
  | .slotOut s j => x.updSlot s fun y => y.setOut j q
  | .muOut u => x.updMu u fun y => { y with out := q }
  | .muDone u => x.updMu u fun y => { y with done := q }
  | .ag a => x.updAg a fun y => { y with out := q }
  | .port p => { x with outQ := x.outQ.setIfInBounds p q }

/-- The region whose fabric tile t belongs to, while it fires (R37, R246). -/
def State.firing (s : State) (t : Nat) : Option Nat :=
  match s.regionAt t with
  | none => none
  | some r =>
    match s.region r with
    | none => none
    | some x => if (x.st = .running || x.st = .placed) && x.stop ≠ .wave && (s.vd x.vd).st ≠ .fenced then some r else none

/-! ### Faults of the fabric (R150) -/

/-- EVAL of FABRIC: reason, track, index, class, row and column. -/
def fabricEval (reason track index cls row col : Nat) : Word :=
  w64 (reason * 2 ^ 24 + track * 2 ^ 20 + index * 2 ^ 18 + cls * 2 ^ 16 + row * 2 ^ 8 + col)


/-- FABRIC from an element of tile t: class 0 slot, 1 memory unit, 2 switch, 3 generator. -/
def State.fabricFault (s : State) (t cls index track reason : Nat) : State :=
  match s.regionAt t with
  | none => s
  | some r =>
    match s.region r with
    | none => s
    | some x => s.elemFault r cFabric (fabricEval reason track index cls (x.offOf t / 64) (x.offOf t % 64))

/-! ### Tags that rows hold (R175) -/

/-- The number of holders of a tag changes: up, or down to none. -/
def holdMore (l : List (Nat × Nat)) (tag n : Nat) : List (Nat × Nat) :=
  match l with
  | [] => if n = 0 then [] else [(tag, n)]
  | (k, c) :: r => if k = tag then (k, c + n) :: r else (k, c) :: holdMore r tag n
def holdLess (l : List (Nat × Nat)) (tag : Nat) : List (Nat × Nat) :=
  match l with
  | [] => []
  | (k, c) :: r => if k = tag then (if c ≤ 1 then r else (k, c - 1) :: r) else (k, c) :: holdLess r tag

/-- More copies of a row that holds an issued tag (R116, R175). -/
def State.tagCopies (s : State) (r : Nat) (x : Token) (n : Nat) : State :=
  if x.own then s.updRegion r fun y => { y with tagHeld := holdMore y.tagHeld x.tag.toNat n } else s
/-- A row has ended. -/
def State.tagEnd (s : State) (r : Nat) (x : Token) : State :=
  if x.own then s.updRegion r fun y => { y with tagHeld := holdLess y.tagHeld x.tag.toNat } else s
def State.tagEnds (s : State) (r : Nat) (l : List Token) : State := l.foldl (fun s x => s.tagEnd r x) s

/-- A BUBBLE with the tag of a row (R114). -/
def bubble (x : Token) (ls : Bool) : Token :=
  { lanes := 0, valid := 0, fmt := x.fmt, tag := x.tag, kind := .bubble, ls := ls, lr := true, own := x.own }

/-! ### Filters (R121, R122) -/

/-- The two filter entries of an outgoing track. -/
def Fabric.filter (x : Fabric) (k e : Nat) : BitVec 12 :=
  let f := if k < 8 then x.sw[0] else x.sw[1]
  f.extractLsb' ((if e = 0 then 222 else 210) - 30 * (k % 8)) 12

/-- The valid lanes of a token in lane order. -/
def validLanes (x : Token) : List Lane := ((List.range 16).filter x.ok).map fun i => laneOf x.lanes i
/-- A token of given lanes, valid from lane 0. -/
def packLanes (x : Token) (l : List Lane) (lr ls : Bool) : Token :=
  { x with lanes := payloadOf (fun i => l.getD i 0) 16, valid := validOf (fun i => decide (i < l.length)) 16, lr := lr, ls := ls }

/-- CMPCT: the held token carries the lanes of the row so far, at most 16, and its first token's TAG and FMT. -/
def cmpct (hold : List Token) (x : Token) : List Token × List Token :=
  let first := hold.headD { x with lanes := 0, valid := 0 }
  let l := validLanes first ++ validLanes x
  let full := packLanes first (l.take 16) false false
  if x.lr then
    if l.isEmpty then ([bubble first x.ls], [])
    else if 16 < l.length then ([full, packLanes first (l.drop 16) true x.ls], [])
    else ([packLanes first l true x.ls], [])
  else if 16 < l.length then ([full], [packLanes first (l.drop 16) false false])
  else ([], [packLanes first l false false])

/-- TRN16 of a whole group. -/
def transpose (g : List Token) : List Token :=
  (List.range 16).map fun i =>
    let a := g.getD i {}
    let z := g.getD 15 {}
    { a with
      lanes := payloadOf (fun j => laneOf (g.getD j {}).lanes i) 16
      valid := validOf (fun j => (g.getD j {}).ok i) 16
      lr := i = 15 && z.lr, ls := i = 15 && z.ls }

/-- A lane is zero for ZMASK (R121). -/
def zmaskZero (fmt : BitVec 5) (l : Lane) : Bool :=
  match Fmt.ofTag fmt with
  | none => l == 0
  | some .e8m0 => false
  | some f => f.isZeroLane (BitVec.ofNat 32 (l.toNat % 2 ^ f.width))

/-- One filter entry on one token: what leaves, and what it holds. An error is the reason of R150. A BUBBLE or PARAM token
that meets a CMPCT filter with lanes of an unfinished row passes, and the lanes stay (log entry 96). -/
def filterOne (e : BitVec 12) (hold : List Token) (x : Token) : Except Nat (List Token × List Token) :=
  let arg := (e.extractLsb' 0 8).toNat
  match (e.extractLsb' 8 4).toNat, x.kind with
  | 3, .bubble => if hold.isEmpty then .ok ([x], hold) else .error 10
  | 1, .data =>
    (match Fmt.ofTag x.fmt, Fmt.ofTag (BitVec.ofNat 5 (arg / 8)) with
     | some src, some dst =>
       if cvtSource src then
         .ok ([{ x with
           fmt := dst.tag
           lanes := payloadOf (fun i =>
             if x.ok i then (cvtLane src dst (RMode.ofField (arg % 8)) true (x.lane src i)).1 else 0) 16 }], hold)
       else .error 9
     | _, _ => .error 9)
  | 2, .data => .ok (cmpct hold x)
  | 3, .data =>
    if hold.length < 15 then
      if x.lr || hold.any fun y => y.fmt != x.fmt then .error 10 else .ok ([], hold ++ [x])
    else if hold.any fun y => y.fmt != x.fmt then .error 10
    else .ok (transpose (hold ++ [x]), [])
  | 4, .data =>
    .ok ([{ x with
      lanes := payloadOf (fun i => laneOf x.lanes (i ^^^ (arg % 16))) 16
      valid := validOf (fun i => x.ok (i ^^^ (arg % 16))) 16 }], hold)
  | 5, .data =>
    let keep i := x.ok i && !zmaskZero x.fmt (laneOf x.lanes i)
    .ok ([{ x with
      lanes := payloadOf (fun i => if x.ok i && !keep i then 0 else laneOf x.lanes i) 16, valid := validOf keep 16 }], hold)
  | _, _ => .ok ([x], hold)

/-- One filter entry on several tokens in order. -/
def filterAll (e : BitVec 12) (hold : List Token) : List Token → Except Nat (List Token × List Token)
  | [] => .ok ([], hold)
  | x :: r =>
    match filterOne e hold x with
    | .error n => .error n
    | .ok (l, h) =>
      match filterAll e h r with
      | .error n => .error n
      | .ok (m, h2) => .ok (l ++ m, h2)

/-! ### A token moves one hop (R115, R116) -/

/-- A token delivered at an inlet. A flush marker is absorbed at a parameter input (R379). An error is the reason
and the track of a filter's fault. -/
def Fabric.deliver (x : Fabric) (i : Inlet) (tok : Token) : Except (Nat × Nat) Fabric :=
  match i with
  | .track k =>
    (match filterAll (x.filter k 0) (x.track k).hold0 [tok] with
     | .error n => .error (n, k)
     | .ok (l, h0) =>
       match filterAll (x.filter k 1) (x.track k).hold1 l with
       | .error n => .error (n, k)
       | .ok (m, h1) => .ok (x.updTrack k fun y => { q := y.q ++ m, hold0 := h0, hold1 := h1 }))
  | .slotIn s j => .ok (x.updSlot s fun y => y.setIn j (y.inQ j ++ [tok]))
  | .slotPar s => .ok (if tok.kind = .mark && !tok.pm then x else x.updSlot s fun y => { y with par := y.par ++ [tok] })
  | .mu u j => .ok (x.updMu u fun y => y.setIn j (y.inQ j ++ [tok]))
  | .agPar a => .ok (if tok.kind = .mark && !tok.pm then x else x.updAg a fun y => { y with par := y.par ++ [tok] })
  | .port p => .ok { x with inQ := x.inQ.setIfInBounds p (x.inQ[p]?.getD [] ++ [tok]) }

def Fabric.deliverAll (x : Fabric) (tok : Token) : List Inlet → Except (Nat × Nat) Fabric
  | [] => .ok x
  | i :: r =>
    match x.deliver i tok with
    | .error e => .error e
    | .ok y => y.deliverAll tok r

/-- The inlets of a tile that a source code feeds. -/
def Fabric.fed (x : Fabric) (src : Nat) : List Inlet :=
  (x.inlets.filter fun q => q.2 == src && x.live q.1).map Prod.fst

/-- TRACK_HOP: the head of a source of tile t goes to every inlet that names it, when all have room. -/
def execTrackHop (t src : Nat) (s : State) : Out :=
  match s.firing t, outletOf t src with
  | some r, some (n, o) =>
    let x := (s.tileAt t).fab
    let dst := x.fed src
    let q := (s.tileAt n).fab.outletQ o
    (match q with
     | [] => .next s
     | tok :: rest =>
       if s.regionAt n = some r && !dst.isEmpty && dst.all x.room then
         let s1 := s.updFab n fun y => y.setOutletQ o rest
         match ((s1.tileAt t).fab).deliverAll tok dst with
         | .error (reason, k) => .next (s.fabricFault t 2 (k / 4) (k % 4) reason)
         | .ok y => .next ((s1.updFab t fun _ => y).tagCopies r tok (if tok.lr then dst.length - 1 else 0))
       else .next s)
  | _, _ => .next s

/-! ### Control tokens (R119, R120) -/

/-- Pair (s1, t1) ranks above (s2, t2) (R166). -/
def ranksAbove (s1 : BitVec 32) (t1 : BitVec 12) (s2 : BitVec 32) (t2 : BitVec 12) : Bool :=
  let a := fp32 s1
  let b := fp32 s2
  match a.isNaN, b.isNaN with
  | true, true => decide (t1 < t2)
  | true, false => false
  | false, true => true
  | false, false => b.lt a || (!a.lt b && decide (t1 < t2))

/-- Source i of the nine control routes of a tile: to N, E, S, W; into slots 0 to 3; into the core (R136). -/
def Fabric.ctlSource (x : Fabric) (i : Nat) : Nat := fbits x.sw[3] (64 - 4 * i) 4

/-- The enabled control inputs that a control source of a tile reaches: tile and input, 4 the core's (R123). Each tile
and source is followed once. -/
def ctlTargets (s : State) (r : Nat) : Nat → List (Nat × Nat) → List (Nat × Nat) → List (Nat × Nat)
  | 0, _, _ => []
  | _ + 1, _, [] => []
  | n + 1, seen, (t, c) :: rest =>
    if seen.contains (t, c) || s.regionAt t ≠ some r then ctlTargets s r n seen rest
    else
      let x := (s.tileAt t).fab
      let dst := (List.range 9).filter fun i => x.ctlSource i == c
      let here := (dst.filter fun i => i = 8 || (decide (4 ≤ i) && (x.slot (i - 4)).on && slotCin (x.slot (i - 4)).frame)).map
        fun i => (t, i - 4)
      let on := (dst.filter fun i => decide (i < 4)).filterMap fun d => (neighbour t d).map fun m => (m, 1 + (d + 2) % 4)
      here ++ ctlTargets s r n ((t, c) :: seen) (rest ++ on)

/-- A control token leaves the control output of a slot for every control input on its routes. -/
def State.sendCtl (s : State) (r t sl : Nat) (kill : Bool) (score : BitVec 32) (lo hi : BitVec 12) : State :=
  if slotCout ((s.tileAt t).fab.slot sl).frame then
    { s with ctlFlight := s.ctlFlight ++ ((ctlTargets s r 40000 [] [(t, 5 + sl)]).map fun q =>
        (q.1, q.2, kill, score, lo, hi)) }
  else s

/-- The pair of an arriving THRESH replaces the register when it ranks higher (R120). -/
def Ctl.thresh (c : Ctl) (score : BitVec 32) (tag : BitVec 12) : Ctl :=
  if ranksAbove score tag c.score c.tag then { c with score := score, tag := tag } else c
/-- An arriving KILL enters the queue, or is dropped when it is full (R120). -/
def Ctl.kill (c : Ctl) (lo hi : Nat) : Ctl := if c.kills.length < 8 then { c with kills := c.kills ++ [(lo, hi)] } else c

/-- A change to the control input i of a tile. -/
def Fabric.updCtl (x : Fabric) (i : Nat) (f : Ctl → Ctl) : Fabric :=
  if i < 4 then x.updSlot i fun y => { y with ctl := f y.ctl } else { x with ctl := f x.ctl }

/-- The i-th control token under way, of one type, arrives. -/
def State.ctlArrive (s : State) (i : Nat) (kill : Bool) : State :=
  match s.ctlFlight[i]? with
  | none => s
  | some (t, k, isKill, score, lo, hi) =>
    if isKill ≠ kill || (s.regionAt t).isNone then s
    else
      let s := { s with ctlFlight := s.ctlFlight.eraseIdx i }
      s.updFab t fun x => x.updCtl k fun c => if kill then c.kill lo.toNat hi.toNat else c.thresh score lo

/-- THRESH_ARRIVE (R120). -/
def execThreshArrive (i : Nat) (s : State) : Out := .next (s.ctlArrive i false)
/-- KILL_ARRIVE (R120). -/
def execKillArrive (i : Nat) (s : State) : Out := .next (s.ctlArrive i true)

end Sys2Proof.Machine
end

