-- ==== Sys2Proof/Machine/Image.lean ====
section
/-!
DEFINITION. Configuration images (R131 to R138): what the loader accepts, frame by frame, the legal parameter sets
of the operator kinds (R145, R152 to R163), rates and depths, and the installation of an image (R141, R173). Also
when a region is quiet (R139).
-/
namespace Sys2Proof.Machine

/-! ### Legal parameter sets -/

/-- The FP32 value is finite. -/
def fpFinite (x : BitVec 32) : Bool := !(fp32 x).isNaN && !(fp32 x).isInf
def fpPositive (x : BitVec 32) : Bool := fpFinite x && !(fp32 x).isZero && !(fp32 x).sign
/-- At least zero; a zero of either sign is. -/
def fpNonneg (x : BitVec 32) : Bool := fpFinite x && ((fp32 x).isZero || !(fp32 x).sign)

/-- The six lane formats by tag (R152). -/
def tagIs (ok : Fmt → Bool) (t : Nat) : Bool := (Fmt.ofTag (BitVec.ofNat 5 t)).any ok
def isPqFmt : Fmt → Bool
  | .uint8 => true
  | _ => false
/-- Candidate formats of SCORE in modes 00 and 01 (R154). -/
def isScoreFmt : Fmt → Bool
  | .fp32 | .bf16 | .fp16 | .fp8e4 | .fp8e5 | .int8 => true
  | _ => false
/-- Compare formats of FILTER (R159). -/
def isFilterFmt : Fmt → Bool
  | .fp32 | .bf16 | .fp16 | .int32 | .int16 | .int8 | .uint8 | .idx32 => true
  | _ => false
/-- Targets of an exact REDUCE (R161). -/
def isExactFmt : Fmt → Bool
  | .fp32 | .bf16 | .fp8e4 | .fp8e5 | .fp6e3 | .fp6e2 | .fp4 => true
  | _ => false

/-- Bits [lo, lo + n) of a parameter register. -/
def pbits (x : BitVec 32) (lo n : Nat) : Nat := (x.extractLsb' lo n).toNat

/-- Data inputs that a MAP function reads, as IN (R152). -/
def mapIns (fn : Nat) : Nat :=
  if fn = 5 then 7 else if (2 ≤ fn ∧ fn ≤ 4) ∨ fn = 6 ∨ fn = 7 then 3 else 1

/-- A kind accepts a set of parameters with its port enables: ins and outs are masks (R145, R147, R152 to R163). -/
def kindOk (kind ins outs : Nat) (cin cout : Bool) (rate : Nat) (p : Nat → BitVec 32) : Bool :=
  let zero (l : List Nat) : Bool := l.all fun i => p i == 0
  let p0 := p 0
  match kind with
  | 0 =>
    let fn := pbits p0 8 8
    let fmt := pbits p0 0 5
    pbits p0 16 16 == 0 && decide (pbits p0 5 3 ≤ 4) && tagIs Fmt.isLaneFmt fmt && decide (fn ≤ 0x0D) &&
    ins == mapIns fn && outs == 1 && !cout && zero [5, 6] && pbits (p 4) 4 28 == 0 &&
    (decide (fn < 0x0A) || tagIs Fmt.isWideFloat fmt) &&
    (fn != 0x0D || (fmt == 1 && fpPositive (p 1) && fpNonneg (p 2)))
  | 1 =>
    pbits p0 11 21 == 0 && pbits p0 8 2 != 3 && decide (pbits p0 5 3 ≤ 4) && tagIs Fmt.isLaneFmt (pbits p0 0 5) &&
    zero [1, 2, 3, 4, 5, 6] && ins == 1 && outs == 1 && !cout
  | 2 =>
    let d := pbits p0 19 13
    let mode := pbits p0 8 2
    decide (1 ≤ d) && decide (d ≤ 4096) && pbits p0 18 1 == 0 && pbits p0 16 2 != 3 && pbits p0 10 6 == 0 &&
    pbits p0 5 3 == 0 && mode != 3 && (if mode = 2 then tagIs isPqFmt (pbits p0 0 5) else tagIs isScoreFmt (pbits p0 0 5)) &&
    pbits (p 1) 20 12 == 0 && pbits (p 1) 0 2 == 0 && pbits (p 2) 20 12 == 0 && pbits (p 3) 12 20 == 0 &&
    zero [5, 6] && ins == 1 && outs == 1 && !cout && decide (1 ≤ rate)
  | 3 =>
    fpPositive p0 && fpFinite (p 1) && decide ((p 2).toNat ≤ 4) && zero [3, 4, 5, 6] && ins == 1 &&
    (outs == 1 || outs == 3) && decide (1 ≤ rate)
  | 4 =>
    decide (1 ≤ p0.toNat) && decide (p0.toNat ≤ 256) && zero [1, 2, 3, 4, 5, 6] && ins == 1 && outs == 1 && !cin &&
    decide (3 ≤ rate)
  | 5 =>
    pbits p0 16 16 == 0 && zero [1, 2, 3, 4, 5, 6] && ins != 0 && outs == 1 && !cout && decide (1 ≤ rate)
  | 6 =>
    pbits p0 7 25 == 0 && pbits p0 0 2 != 3 && zero [1, 2, 3, 4, 5, 6] && ins == 3 &&
    (outs == 1 || (outs == 3 && pbits p0 0 2 == 0)) && !cout && decide (3 ≤ rate)
  | 7 =>
    pbits p0 14 18 == 0 && decide (pbits p0 6 3 ≤ 5) && tagIs isFilterFmt (pbits p0 9 5) && zero [2, 3, 4, 5, 6] &&
    ins == 1 && outs == 1 && !cout && decide (1 ≤ rate)
  | 8 =>
    pbits p0 16 16 == 0 && tagIs (fun _ => true) (pbits p0 1 5) && pbits (p 2) 16 16 == 0 && pbits (p 3) 0 3 == 0 &&
    zero [4, 5, 6] && ins == 1 && outs == 1 && !cout && decide (2 ≤ rate)
  | 9 =>
    let exact := p0.getLsbD 10
    let n := pbits p0 12 9
    let fmt := pbits p0 0 5
    pbits p0 21 11 == 0 && pbits p0 8 2 != 3 && decide (pbits p0 5 3 ≤ 4) && zero [1, 2, 3, 4, 5, 6] &&
    [3, 5, 6, 7].contains (ins % 8) && outs == 1 && !cin && !cout &&
    (if exact then decide (1 ≤ n) && decide (n ≤ 256) && pbits p0 8 2 == 0 && ins / 8 == 1 && tagIs isExactFmt fmt
     else n == 0 && ins / 8 == 0 && tagIs Fmt.isLaneFmt fmt)
  | 10 =>
    pbits p0 15 17 == 0 && decide (pbits p0 12 3 ≤ 4) && tagIs Fmt.isWideFloat (pbits p0 5 5) &&
    tagIs Fmt.isNarrow (pbits p0 0 5) && zero [1, 2, 3, 4, 5, 6] && ins == 1 && (outs == 1 || outs == 3) && !cin &&
    !cout && decide (2 ≤ rate)
  | 11 =>
    pbits p0 6 26 == 0 && tagIs Fmt.isWideFloat (pbits p0 1 5) && fpPositive (p 1) && fpPositive (p 2) &&
    !(fp32 0x3F800000).lt (fp32 (p 2)) && ins == 1 && outs == 1 && !cin && !cout && decide (3 ≤ rate)
  | _ => false

/-- A frame's enables with a set of parameters. -/
def frameKindOk (f : BitVec 256) (p : Nat → BitVec 32) : Bool :=
  decide (slotRate f ≤ 3) &&
  kindOk (slotKind f) (fbits f 232 4) (fbits f 230 2) (slotCin f) (slotCout f) (slotRate f) p

/-- The kind takes KILL on an enabled control input (R145). -/
def takesKill (f : BitVec 256) : Bool := slotCin f && slotKind f != 3 && slotKind f != 4 && decide (slotKind f < 9)

/-! ### Frames one by one (reason 5) -/

/-- Address of a frame: column, row, class, index (R132). -/
def frameAddr (f : BitVec 256) : Nat × Nat × Nat × Nat := (fbits f 250 6, fbits f 244 6, fbits f 242 2, fbits f 240 2)

/-- A memory unit frame (R134). -/
def muFrameOk (f : BitVec 256) : Bool :=
  let m := muMode f
  let ls := m == 2 || m == 3
  decide (m ≤ 4) && (if ls then tagIs (fun _ => true) (muFmt f) else muFmt f == 0) &&
  (muOrd f == 0 || (muOrd f == 1 && m == 2) || (muOrd f == 2 && m == 3)) && muOff f % 128 == 0 &&
  decide (muOff f + 128 * muSize f ≤ Config.tileStore) && fbits f 0 181 == 0

/-- The first half of a generator by itself (R135). -/
def agHalf0Ok (f : BitVec 256) : Bool :=
  agMode f != 3 && (agMode f != 2 || agPen f) && fbits f 224 10 == 0 && fbits f 0 64 == 0 &&
  (decide (2 ≤ agDims f) || (fbits f 96 24 == 0 && fbits f 64 32 == 0))
/-- The second half against its first half (R135). -/
def agHalf1Ok (f0 f1 : BitVec 256) : Bool :=
  (if agMode f0 = 1 then agRounds f1 != 0 else agRounds f1 == 0) && fbits f1 0 112 == 0 &&
  (decide (3 ≤ agDims f0) || (fbits f1 216 24 == 0 && fbits f1 184 32 == 0)) &&
  (decide (4 ≤ agDims f0) || (fbits f1 160 24 == 0 && fbits f1 128 32 == 0))

/-- A filter entry (R121). -/
def filterOk (e : Nat) : Bool :=
  let arg := e % 256
  match e / 256 with
  | 0 | 2 | 3 | 5 => arg == 0
  | 1 => decide (1 ≤ arg / 8) && decide (arg / 8 ≤ 0x10) && arg / 8 != 9 && decide (arg % 8 ≤ 4)
  | 4 => decide (arg < 16)
  | _ => false

/-- A switch sub-frame (R136). -/
def switchOk (f : BitVec 256) (i : Nat) : Bool :=
  if i < 2 then
    (List.range 8).all fun k =>
      decide (fbits f (234 - 30 * k) 6 ≤ 42) && filterOk (fbits f (222 - 30 * k) 12) && filterOk (fbits f (210 - 30 * k) 12)
  else if i = 2 then
    ((List.range 20).all fun j => decide (fbits f (234 - 6 * j) 6 ≤ 42)) && fbits f 0 120 == 0
  else
    ((List.range 26).all fun j => decide (fbits f (234 - 6 * j) 6 ≤ 42)) &&
    ((List.range 9).all fun j => decide (fbits f (64 - 4 * j) 4 ≤ 8)) && fbits f 0 32 == 0

/-- A frame by its class; a generator half is judged with the other half of the image. -/
def frameOk (fs : List (BitVec 256)) (f : BitVec 256) : Bool :=
  let (c, r, cls, ix) := frameAddr f
  let find (i : Nat) : Option (BitVec 256) := fs.find? fun g => frameAddr g == (c, r, 3, i)
  match cls with
  | 0 => frameKindOk f (slotParam f)
  | 1 => muFrameOk f
  | 2 => switchOk f ix
  | _ =>
    if ix % 2 = 0 then agHalf0Ok f && ((find (ix + 1)).isSome || agHalf1Ok f 0)
    else agHalf1Ok ((find (ix - 1)).getD 0) f

/-! ### The configuration of a tile from an image -/

/-- The fabric of the tile at an offset, at the start of a bout (R132, R141). -/
def buildFabric (fs : List (BitVec 256)) (col row : Nat) : Fabric :=
  let find (cls i : Nat) : BitVec 256 := (fs.find? fun g => frameAddr g == (col, row, cls, i)).getD 0
  let has (cls i : Nat) : Bool := fs.any fun g => frameAddr g == (col, row, cls, i)
  { slots := Vector.ofFn fun i =>
      let f := find 0 i
      { frame := f, on := has 0 i, p := Vector.ofFn fun j => slotParam f j }
    mus := Vector.ofFn fun i =>
      let f := find 1 i
      { frame := f, on := muMode f != 0, cred := #v[muCred f 0, muCred f 1] }
    ags := Vector.ofFn fun i =>
      let f0 := find 3 (2 * i)
      let f1 := find 3 (2 * i + 1)
      { f0 := f0, f1 := f1, on := agOn f0, base := agBase f0, ext := Vector.ofFn fun d => agExt f0 f1 d }
    sw := Vector.ofFn fun i => find 2 i }

/-! ### Sources (reason 6) -/

/-- Fabrics of an image at its offsets, by offset row * 64 + column. -/
abbrev Grid := List (Nat × Fabric)
def gridOf (fs : List (BitVec 256)) (w h : Nat) : Grid :=
  (List.range (w * h)).map fun i => (tileNo (i % w) (i / w), buildFabric fs (i % w) (i / w))
def Grid.at (g : Grid) (o : Nat) : Option Fabric := (g.find? fun p => p.1 == o).map Prod.snd

/-- A source code of a tile of the grid names an enabled output. -/
def Grid.outputOn (g : Grid) (o src : Nat) : Bool :=
  match outletOf o src with
  | none => false
  | some (n, out) =>
    match g.at n with
    | none => false
    | some x =>
      match out with
      | .track k => x.sourceOf (.track k) != 0
      | .slotOut s j => (x.slot s).on && slotOut (x.slot s).frame j
      | .muOut u => muMode (x.mu u).frame == 1 || muMode (x.mu u).frame == 2
      | .muDone u => muMode (x.mu u).frame != 0 && muDoneOn (x.mu u).frame
      | .ag a => (x.ag a).on
      | .port _ => true
/-- A control source of a tile names an enabled output. -/
def Grid.ctlOn (g : Grid) (o c : Nat) : Bool :=
  if c < 5 then
    match neighbour o (c - 1) with
    | none => false
    | some n => match g.at n with
      | some x => x.ctlSource ((c - 1 + 2) % 4) != 0
      | none => false
  else match g.at o with
    | some x => (x.slot (c - 5)).on && slotCout (x.slot (c - 5)).frame
    | none => false

/-- An element's enabled inputs all have sources. -/
def Grid.inputsFed (g : Grid) (f : BitVec 256) : Bool :=
  let (c, r, cls, ix) := frameAddr f
  match g.at (tileNo c r) with
  | none => false
  | some x =>
    match cls with
    | 0 => (List.range 4).all (fun i => !slotIn f i || x.sourceOf (.slotIn ix i) != 0) &&
        (!slotCin f || x.ctlSource (4 + ix) != 0)
    | 1 => (List.range 4).all fun j => !(x.mu ix).uses j || x.sourceOf (.mu ix j) != 0
    | 3 => ix % 2 = 1 || !(agOn f && agPen f) || x.sourceOf (.agPar (ix / 2)) != 0
    | _ => true
/-- Every source that a switch sub-frame names is an enabled output. -/
def Grid.sourcesOn (g : Grid) (f : BitVec 256) : Bool :=
  let (c, r, cls, ix) := frameAddr f
  let o := tileNo c r
  let data (l : List Nat) : Bool := l.all fun lo => fbits f lo 6 == 0 || g.outputOn o (fbits f lo 6)
  if cls ≠ 2 then true
  else if ix < 2 then data ((List.range 8).map fun k => 234 - 30 * k)
  else if ix = 2 then data ((List.range 20).map fun j => 234 - 6 * j)
  else data ((List.range 26).map fun j => 234 - 6 * j) &&
    (List.range 9).all fun i => fbits f (64 - 4 * i) 4 == 0 || g.ctlOn o (fbits f (64 - 4 * i) 4)

/-! ### Rates and depths (R138, reason 7) -/

/-- Number of an element: tile offset * 32 + slot 0 to 3, unit 4 to 7, generator 8 and 9, then the core's ports as
elements of their own, inputs 10 to 17 and outputs 18 to 25 (R173, R244). -/
def Inlet.elem (i : Inlet) : Option Nat :=
  match i with
  | .track _ => none
  | .slotIn s _ | .slotPar s => some s
  | .mu u _ => some (4 + u)
  | .agPar a => some (8 + a)
  | .port p => some (10 + p)
def Outlet.elem (o : Outlet) : Option Nat :=
  match o with
  | .track _ => none
  | .slotOut s _ => some s
  | .muOut u | .muDone u => some (4 + u)
  | .ag a => some (8 + a)
  | .port p => some (18 + p)

/-- A data arc: its producer and the outlet, its consumer and the inlet, and its depth. -/
structure Arc where
  src : Nat
  out : Outlet
  dst : Nat
  inl : Inlet
  depth : Nat
  deriving DecidableEq, Repr

/-- The producer of a source code, and the hops to it. -/
def Grid.trace (g : Grid) : Nat → Nat → Nat → Nat → Option (Nat × Outlet × Nat)
  | 0, _, _, _ => none
  | k + 1, o, src, h =>
    match outletOf o src with
    | none => none
    | some (n, .track t) =>
      (match g.at n with
       | none => none
       | some x => g.trace k n (x.sourceOf (.track t)) (h + 1))
    | some (n, out) => some (n, out, h)

/-- Every data arc of a grid; a FIFO unit adds its slots to the arc that leaves it. -/
def Grid.arcs (g : Grid) : List Arc :=
  g.flatMap fun p => p.2.inlets.filterMap fun q =>
    match q.1.elem, g.trace (16 * g.length + 1) p.1 q.2 0 with
    | some e, some (n, out, h) =>
      let fifo := match out with
        | .muOut u => match g.at n with
          | some x => if muMode (x.mu u).frame = 1 then muSize (x.mu u).frame else 0
          | none => 0
        | _ => 0
      if p.2.live q.1 then some ⟨32 * n + (out.elem.getD 0), out, 32 * p.1 + e, q.1, 2 * h + 8 + fifo⟩ else none
    | _, _ => none

/-- Burst bound of an element (R138). -/
def Grid.burst (g : Grid) (e : Nat) : Nat :=
  if 10 ≤ e % 32 then 8
  else if 4 ≤ e % 32 then 1
  else match g.at (e / 32) with
    | some x => [1, 1, 16, 256].getD (slotRate (x.slot (e % 32)).frame) 256
    | none => 1

/-- A cycle that returns to element goal, through elements not yet seen, of no more depth than burst. -/
def badCycle (g : Grid) (arcs : List Arc) (goal : Nat) : Nat → List Nat → Nat → Nat → Nat → Bool
  | 0, _, _, _, _ => false
  | k + 1, seen, e, depth, burst =>
    arcs.any fun a => a.src == e && (
      if a.dst = goal then decide (depth + a.depth ≤ burst)
      else decide (goal < a.dst) && !seen.contains a.dst &&
        badCycle g arcs goal k (a.dst :: seen) a.dst (depth + a.depth) (burst + g.burst a.dst))

/-- Simple paths from an output of an element on: last inlet, depth, and the bursts strictly between. A path that comes
back to the element ends there. -/
def pathsFrom (g : Grid) (arcs : List Arc) (own : Nat) : Nat → List Nat → Arc → Nat → Nat → List (Nat × Inlet × Nat × Nat)
  | 0, _, _, _, _ => []
  | k + 1, seen, a, depth, burst =>
    (a.dst, a.inl, depth + a.depth, burst) ::
      (arcs.filter fun b => a.dst != own && b.src == a.dst && !seen.contains b.dst).flatMap fun b =>
        pathsFrom g arcs own k (b.dst :: seen) b (depth + a.depth) (burst + g.burst a.dst)

/-- Two paths from one output that meet at two inputs of one element, one too shallow for the other. -/
def badMeeting (g : Grid) (arcs : List Arc) (n : Nat) (out : Nat × Outlet) : Bool :=
  let ps := (arcs.filter fun a => a.src == out.1 && a.out == out.2).flatMap fun a =>
    pathsFrom g arcs out.1 n [a.dst] a 0 0
  ps.any fun p => ps.any fun q => p.1 == q.1 && p.2.1 != q.2.1 && decide (p.2.2.1 < q.2.2.2)

/-- The first element of a failing cycle or path; none when the image passes. -/
def Grid.rateFault (g : Grid) : Option Nat :=
  let arcs := g.arcs
  let elems := g.flatMap fun p => (List.range 26).map fun e => 32 * p.1 + e
  let n := elems.length + 1
  match elems.find? fun e => badCycle g arcs e n [e] e 0 (g.burst e) with
  | some e => some e
  | none => (arcs.find? fun a => badMeeting g arcs n (a.src, a.out)).map fun a => a.src

/-! ### The loader (R137) -/

/-- CRC-32C of bytes, reflected, from and to all ones (R131). -/
def crcByte (c : BitVec 32) (b : Byte) : BitVec 32 :=
  (List.range 8).foldl (fun c _ => if c.getLsbD 0 then (c >>> 1) ^^^ 0x82F63B78 else c >>> 1) (c ^^^ b.setWidth 32)
def crc32c (l : List Byte) : BitVec 32 := ~~~(l.foldl crcByte 0xFFFFFFFF)
def frameBytes (f : BitVec 256) : List Byte := toBytes 32 f.toNat

def hdrCount (h : BitVec 256) : Nat := fbits h 200 16
def hdrTags (h : BitVec 256) : Nat := fbits h 184 16

/-- The tag-issuing operators of an image in their order: offset and slot (R173). -/
def issuersOf (fs : List (BitVec 256)) (w h : Nat) : List (Nat × Nat) :=
  (List.range (w * h)).flatMap fun i => (List.range 4).filterMap fun s =>
    match fs.find? fun f => frameAddr f == (i % w, i / w, 0, s) with
    | some f => if slotKind f = 3 || (slotKind f = 2 && pbits (slotParam f 0) 16 2 = 1) then some (tileNo (i % w) (i / w), s)
        else none
    | none => none

/-- The first frame, from number i on, that a test finds. -/
def firstFrame (bad : BitVec 256 → Bool) (i : Nat) : List (BitVec 256) → Option Nat
  | [] => none
  | f :: r => if bad f then some i else firstFrame bad (i + 1) r
/-- The first frame whose address is outside the region or has been seen. -/
def firstAddr (w h : Nat) (seen : List (Nat × Nat × Nat × Nat)) (i : Nat) : List (BitVec 256) → Option Nat
  | [] => none
  | f :: r =>
    let a := frameAddr f
    if w ≤ a.1 || h ≤ a.2.1 || seen.contains a then some i else firstAddr w h (a :: seen) (i + 1) r

/-- Number of the frame of an element; 0 when it has none. -/
def frameNo (fs : List (BitVec 256)) (e : Nat) : Nat :=
  let o := e / 32
  let k := e % 32
  let cls := if k < 4 then 0 else if k < 8 then 1 else 3
  let ix := if k < 4 then k else if k < 8 then k - 4 else 2 * (k - 8)
  (firstFrame (fun f => k < 10 && frameAddr f == (o % 64, o / 64, cls, ix)) 1 fs).getD 0

/-- Reason 1: the header. -/
def headerOk (h : BitVec 256) : Bool :=
  fbits h 240 16 == 0xFFFF && fbits h 232 8 == 1 && fbits h 168 16 == 0 && fbits h 0 136 == 0

/-- The checks after the header's own, for a region of a shape and a tag budget: reason and frame (R137). -/
def loaderCheck (w h tags : Nat) (hd : BitVec 256) (fs : List (BitVec 256)) : Option (Nat × Nat) :=
  if crc32c (fs.flatMap frameBytes) ≠ hd.extractLsb' 136 32 then some (2, 0)
  else if fbits hd 224 8 ≠ w || fbits hd 216 8 ≠ h then some (3, 0)
  else match firstAddr w h [] 1 fs with
  | some i => some (4, i)
  | none =>
    match firstFrame (fun f => !frameOk fs f) 1 fs with
    | some i => some (5, i)
    | none =>
      let g := gridOf fs w h
      match firstFrame (fun f => !g.inputsFed f) 1 fs with
      | some i => some (6, i)
      | none =>
        match firstFrame (fun f => !g.sourcesOn f) 1 fs with
        | some i => some (6, i)
        | none =>
          match g.rateFault with
          | some e => some (7, frameNo fs e)
          | none =>
            let c := (issuersOf fs w h).length
            if tags < hdrTags hd || (1 ≤ c && hdrTags hd / c = 0) then some (8, 0) else none

/-- EVAL of CONFIG_REFUSED (R137). -/
def refusedEval (q : Nat × Nat) : Word := w64 (q.1 * 2 ^ 16 + q.2)

/-! ### Quiet (R139) -/

/-- The operator holds no partial row, no list and no table entry (R147). BOUND's history is none of these. -/
def Slot.idle (x : Slot) : Bool :=
  !x.op.inRow && x.op.toks.isEmpty && (slotKind x.frame == 3 || x.op.rows.isEmpty)

/-- Nothing of a fabric moves or waits: arcs, buffers, ports, holds, control queues, generators, units. -/
def Fabric.quiet (x : Fabric) : Bool :=
  (x.tracks.toList.all fun k => k.q.isEmpty && k.hold0.isEmpty && k.hold1.isEmpty) &&
  (x.inQ.toList.all List.isEmpty) && (x.outQ.toList.all List.isEmpty) &&
  (x.slots.toList.all fun y => !y.on || (y.ins.toList.all List.isEmpty && y.par.isEmpty && y.clear && y.ctl.kills.isEmpty &&
    y.idle)) &&
  (x.mus.toList.all fun y => y.data.isEmpty && y.addr.isEmpty && y.wait.toList.all List.isEmpty && y.out.isEmpty &&
    y.done.isEmpty && y.held.isEmpty && y.busy.isEmpty) &&
  (x.ags.toList.all fun y => !y.on || (y.ended && !y.running && y.par.isEmpty && y.out.isEmpty))

/-- The fabric of a tile issued an access. -/
def Party.fabricOf (p : Party) : Option Nat :=
  match p with
  | .unit t _ | .gather t _ => some t
  | _ => none

/-- The region is quiet. -/
def State.quietNow (s : State) (r : Nat) : Bool :=
  match s.region r with
  | none => true
  | some x =>
    (x.tilesOf.all fun t => (s.tileAt t).fab.quiet) &&
    (!s.accs.any fun a => a.party.fabricOf.any fun t => x.covers t) &&
    !s.ctlFlight.any fun q => x.covers q.1 && q.2.1 != 4

/-! ### Installing (R141, R173) -/

/-- Issuers with their ranges. -/
def makeIssuers (tags : Nat) (l : List (Nat × Nat)) : List Issuer :=
  let q := tags / l.length
  (List.range l.length).map fun i =>
    let a := l.getD i (0, 0)
    { tile := a.1, slot := a.2, base := i * q, q := q, cursor := i * q }

/-- Fabrics of a list of tiles are replaced. -/
def State.setFabrics (s : State) (x : Region) (fs : List (BitVec 256)) : List Nat → State
  | [] => s
  | t :: r =>
    let o := x.offOf t
    (s.updFab t fun _ => buildFabric fs (o % 64) (o / 64)).setFabrics x fs r

/-- A new configuration begins a bout: element state, tag space and deferred writes are new. With no frame every
element is off. -/
def State.install (s : State) (r : Nat) (image : Word) (tags : Nat) (fs : List (BitVec 256)) : State :=
  match s.region r with
  | none => s
  | some x =>
    let s1 := s.setFabrics x fs x.tilesOf
    let s2 := { s1 with ctlFlight := s1.ctlFlight.filter fun q => !x.covers q.1 }
    let s3 := s2.updRegion r fun y =>
      { y with
        bouts := y.bouts + 1, curImage := image, curTags := tags, issuers := makeIssuers tags (issuersOf fs x.w x.h)
        tagHeld := [], tagKilled := [] }
    s3.updRegion r fun y => { y with quiet := s3.quietNow r }

end Sys2Proof.Machine
end

