-- ==== Sys2Proof/Machine/Port.lean ====
section
/-!
DEFINITION. The PORT and FAB groups: the ports of a core (R366, R378, R429 to R432), parameters of elements (R374,
R385 to R387), kills and thresholds (R375, R409), configuration (R140, R141) and quiescence (R142).
-/
namespace Sys2Proof.Machine

/-! ### Boundary translation (R177, R178) -/

/-- The tag that a boundary table gives for a tag. -/
def boundTag (tab : BitVec 4096) (tag : BitVec 12) : Option (BitVec 12) :=
  let e := tab.extractLsb' (16 * (tag.toNat / 16)) 16
  if e.getLsbD 15 then some (BitVec.ofNat 12 (e.toNat % 256 * 16 + tag.toNat % 16)) else none

/-- A token on the entry or exit port of the tile in focus; an error is the EVAL of PORT. -/
def State.translateTag (s : State) (exit : Bool) (x : Token) : Except Word Token :=
  match s.regionAt s.cur >>= s.region with
  | none => .ok x
  | some r =>
    if r.crown = s.cur && r.btCtl.getLsbD (if exit then 1 else 0) && (x.kind = .data || x.kind = .bubble) then
      match boundTag (if exit then r.exitTab else r.entryTab) x.tag with
      | some t => .ok { x with tag := t }
      | none => .error (w64 (x.tag.toNat + wbit exit 12))
    else .ok x

/-- The tile in focus has another fabric. -/
def State.setFab (s : State) (x : Fabric) : State := { s with tile := { s.tile with fab := x } }

/-- A core input port gives up its head; a row that leaves through the exit port ends (R175). -/
def State.popPort (s : State) (port : Fin 8) (tok : Token) (rest : List Token) : State :=
  let s1 := s.setFab { s.tile.fab with inQ := s.tile.fab.inQ.set port rest }
  match s.regionAt s.cur with
  | some r =>
    if port = 7 && tok.lr && (s.region r).any fun x => x.crown == s.cur then s1.tagEnd r tok else s1
  | none => s1

/-! ### VPOP and DRAIN -/

/-- VPOP (R429): a pre-emption marker at the head is waited at, not popped. -/
def vpopOp (d : VG) (port : Fin 8) (s : State) : Act :=
  if !s.tile.fab.bound port then fault s cPort (w64 port)
  else match s.tile.fab.inQ[port] with
  | [] => .wait s
  | tok :: rest =>
    if tok.kind = .mark && tok.pm then .wait s
    else match (if port = 7 then s.translateTag true tok else .ok tok) with
    | .error e => fault s cPort e
    | .ok t =>
      let s1 := s.popPort port tok rest
      match d with
      | .v r => .retire (s1.setV r { t with own := false, pm := false })
      | .g r => .retire (s1.setG r (t.lanes.setWidth 64))
def execVpop (c : Guard) (d : VG) (port : Fin 8) (s : State) : Out := s.go .us false c (vpopOp d port)

/-- DRAIN (R366), one pop in a turn. -/
def drainOp (d : GReg) (port : Fin 8) (s : State) : Act :=
  if !s.tile.fab.bound port then fault s cPort (w64 port)
  else match s.tile.fab.inQ[port] with
  | [] => .wait s
  | tok :: rest =>
    if tok.kind = .mark && tok.pm then .wait s
    else
      let s1 := (s.popPort port tok rest).setG d (s.g d + 1)
      if tok.ls then .retire s1 else .wait s1
def execDrain (c : Guard) (d : GReg) (port : Fin 8) (s : State) : Out := s.go .us false c (drainOp d port)

/-! ### VPUSH and MARK -/

/-- A fence of the task stands in its order buffer (R432). -/
def State.fenced (s : State) : Bool := (s.accsOf (.task s.cur)).any Access.isFence

/-- Pushes of the region's tasks stall: markers have been appended (R244); a flush marker stalls from the request on
(R380). -/
def State.pushStalled (s : State) (mark : Bool) : Bool :=
  match s.regionAt s.cur >>= s.region with
  | some x => x.marked || (mark && x.stop != .no)
  | none => false

/-- A token goes out at a bound port, or waits. -/
def State.pushPort (s : State) (port : Fin 8) (tok : Token) : Act :=
  let q := s.tile.fab.outQ[port]
  if 8 ≤ q.length || s.fenced || s.pushStalled (tok.kind == .mark) then .wait s
  else .retire (s.setFab { s.tile.fab with outQ := s.tile.fab.outQ.set port (q ++ [tok]) })

/-- The token of VPUSH; a MARK carries no value (R114, R379, R431). -/
def pushToken (s : State) (x : VG) (lr ls : Bool) : Token :=
  let t : Token := match x with
    | .v r => s.v r
    | .g r => { lanes := (s.g r).setWidth 512, valid := 3, fmt := Fmt.bits.tag }
  let t := { t with lr := t.lr || lr, ls := t.ls || ls, own := false, pm := false }
  if t.kind = .bubble then { t with lr := true, valid := 0, lanes := 0 }
  else if t.kind = .mark then { t with valid := 0, lanes := 0, fmt := 0 } else t

/-- VPUSH (R431, R432). -/
def vpushOp (x : VG) (lr ls : Bool) (port : Fin 8) (s : State) : Act :=
  if !s.tile.fab.bound (8 + port) then fault s cPort (w64 (8 + port))
  else
    let t := pushToken s x lr ls
    match (if port = 7 then s.translateTag false t else .ok t) with
    | .error e => fault s cPort e
    | .ok t => s.pushPort port t
def execVpush (c : Guard) (x : VG) (lr ls : Bool) (port : Fin 8) (s : State) : Out :=
  s.go .us false c (vpushOp x lr ls port)

/-- MARK (R378). -/
def markOp (port : Fin 8) (s : State) : Act :=
  if !s.tile.fab.bound (8 + port) then fault s cPort (w64 (8 + port)) else s.pushPort port { kind := .mark }
def execMark (c : Guard) (port : Fin 8) (s : State) : Out := s.go .us false c (markOp port)

/-! ### Element addresses (R374) -/

/-- The fixed fields of an element address, and its offsets inside the region. -/
def elemOk (x : Region) (w : Word) : Bool :=
  bits w 27 37 == 0 && bits w 20 4 == 0 && bits w 14 2 == 0 && bits w 6 2 == 0 && decide (bits w 8 6 < x.h) &&
  decide (bits w 0 6 < x.w)
/-- The tile that an element address names. -/
def elemTile (x : Region) (w : Word) : Nat := x.tileOf (tileNo (bits w 0 6) (bits w 8 6))
/-- FABRIC on an element address: reason 4 (R375, R386). -/
def elemBad (s : State) (w : Word) : Act := fault s cFabric (w64 (4 * 2 ^ 24 + bits w 0 20))

/-- The set of registers of a slot with one replaced. -/
def Slot.withParam (x : Slot) (i : Nat) (v : BitVec 32) (j : Nat) : BitVec 32 := if j = i then v else x.reg j

/-- A value that a register of the slot could hold, whatever the others hold (R147). Only for MAP do the registers
bear on each other: there the others are taken as those of a plain function of the same inputs. -/
def Slot.valueOk (x : Slot) (i : Nat) (v : BitVec 32) : Bool :=
  if slotKind x.frame = 0 then
    let fn : BitVec 32 := if fbits x.frame 232 4 = 7 then 5 else if fbits x.frame 232 4 = 3 then 2 else 0
    frameKindOk x.frame fun j => if j = i then v else if j = 0 then fn <<< 8 ||| 1 else if j = 1 then 0x3F800000 else 0
  else frameKindOk x.frame (x.withParam i v)

/-- The write that a PARAM token of a slot stands for. -/
def paramWrite (t : Token) : Nat × BitVec 32 := ((laneOf t.lanes 0).toNat, laneOf t.lanes 1)
/-- A PARAM token that a slot accepts (R147). -/
def paramOk (t : Token) : Bool := t.kind == .param && decide ((laneOf t.lanes 0).toNat ≤ 6)
/-- The parameter tokens that have reached a slot, up to n of them, join its writes in their order. -/
def Slot.gather (x : Slot) : Nat → Slot
  | 0 => x
  | n + 1 =>
    match x.par with
    | t :: r => if paramOk t then ({ x with par := r, due := x.due ++ [paramWrite t] } : Slot).gather n else x
    | [] => x

/-- The write that a PARAM token of a generator stands for (R130). -/
def agWrite (t : Token) : Nat × Word := ((laneOf t.lanes 0).toNat, t.lanes.extractLsb' 32 64)
/-- A PARAM token at a generator: none when it is taken, else the reason of its fault. -/
def agBad (x : AddrGen) (t : Token) : Option Nat :=
  let w := agWrite t
  if t.kind ≠ .param || 4 < w.1 then some 3
  else if w.1 ≠ 0 && agDims x.f0 < w.1 && bits w.2 0 24 ≠ 0 then some 4 else none
/-- A generator takes a PARAM token: its write waits for the next round, which it may arm or make the last (R129). -/
def AddrGen.takeParam (x : AddrGen) (t : Token) : AddrGen :=
  let y := { x with due := x.due ++ [agWrite t] }
  if agMode x.f0 ≠ 2 then y
  else if t.lr then { y with armed := some t.ls }
  else if t.ls then (if x.running then { y with lastRound := true } else { y with ended := true })
  else y
/-- The tokens that have reached a generator and belong to its next round are taken. -/
def AddrGen.gather (x : AddrGen) : Nat → AddrGen
  | 0 => x
  | n + 1 =>
    match x.par with
    | t :: r =>
      if t.kind = .mark || x.armed.isSome || (agBad x t).isSome then x
      else (({ x with par := r } : AddrGen).takeParam t).gather n
    | [] => x
/-- A write to a generator's base or extents. -/
def AddrGen.put (x : AddrGen) (i : Nat) (v : Word) : AddrGen :=
  if i = 0 then { x with base := v.setWidth 48 } else { x with ext := x.ext.setIfInBounds (i - 1) (v.setWidth 24) }
/-- A legal value of a parameter of a generator (R135, R385). -/
def AddrGen.valueOk (x : AddrGen) (i : Nat) (v : Word) : Bool :=
  if i = 0 then bits v 48 16 == 0 else decide (i ≤ 4) && bits v 24 40 == 0 && (decide (i ≤ agDims x.f0) || v == 0)
def AddrGen.reg (x : AddrGen) (i : Nat) : Word :=
  if i = 0 then x.base.setWidth 64 else (x.ext[i - 1]?.getD 0).setWidth 64

/-! ### PARW and PARR -/

/-- The region of the tile in focus, or FABRIC. -/
def State.inRegion (s : State) (k : Nat → Region → Act) : Act :=
  match s.regionAt s.cur with
  | none => fault s cFabric 0
  | some r =>
    match s.region r with
    | some x => k r x
    | none => fault s cFabric 0

/-- PARW (R386); dfr marks PARW.DEF. -/
def parwOp (dfr : Bool) (d a : GReg) (s : State) : Act :=
  s.inRegion fun _ x =>
    let w := s.g d
    let v := s.g a
    let t := elemTile x w
    let par := bits w 24 3
    let ix := bits w 18 2
    if !elemOk x w then elemBad s w
    else match bits w 16 2 with
    | 0 =>
      let y := (s.tileAt t).fab.slot ix
      let u := v.setWidth 32
      if par = 7 || bits v 32 32 ≠ 0 || !y.on || !y.valueOk par u then elemBad s w
      else if dfr then
        .retire (s.updFab t fun f => f.updSlot ix fun y =>
          let z := y.gather (if slotKind y.frame = 2 && pbits (y.reg 0) 16 2 = 2 then 0 else y.par.length)
          { z with due := z.due ++ [(par, u)] })
      else if !y.idle || !frameKindOk y.frame (y.withParam par u) then elemBad s w
      else .retire (s.updFab t fun f => f.updSlot ix fun y => { y with p := y.p.setIfInBounds par u })
    | 3 =>
      let y := (s.tileAt t).fab.ag ix
      if 2 ≤ ix || 5 ≤ par || !y.on || !y.valueOk par v then elemBad s w
      else if dfr then .retire (s.updFab t fun f => f.updAg ix fun y =>
        let z := y.gather y.par.length
        { z with due := z.due ++ [(par, v)] })
      else if y.running then elemBad s w
      else .retire (s.updFab t fun f => f.updAg ix fun y => y.put par v)
    | _ => elemBad s w
def execParw (c : Guard) (d a : GReg) (s : State) : Out := s.go .us false c (parwOp false d a)
def execParwDef (c : Guard) (d a : GReg) (s : State) : Out := s.go .us false c (parwOp true d a)

/-- PARR (R387). -/
def parrOp (d a : GReg) (s : State) : Act :=
  s.inRegion fun _ x =>
    let w := s.g a
    let t := elemTile x w
    let par := bits w 24 3
    let ix := bits w 18 2
    if !elemOk x w then elemBad s w
    else match bits w 16 2 with
    | 0 =>
      let y := (s.tileAt t).fab.slot ix
      if par = 7 || !y.on then elemBad s w else s.retG d ((y.reg par).setWidth 64)
    | 3 =>
      let y := (s.tileAt t).fab.ag ix
      if 2 ≤ ix || 5 ≤ par || !y.on then elemBad s w else s.retG d (y.reg par)
    | _ => elemBad s w
def execParr (c : Guard) (d a : GReg) (s : State) : Out := s.go .us false c (parrOp d a)

/-! ### KILL and THRD -/

/-- A KILL names tags: they are not issued again in the bout (R174, R175). -/
def State.nameKilled (s : State) (r lo hi : Nat) : State :=
  s.updRegion r fun x => { x with tagKilled := x.tagKilled ++ [(lo, hi)] }

/-- KILL (R375). -/
def killOp (d a : GReg) (s : State) : Act :=
  s.inRegion fun r x =>
    let w := s.g d
    let v := s.g a
    let t := elemTile x w
    let ix := bits w 18 2
    let lo := bits v 0 12
    let hi := bits v 16 12
    let y := (s.tileAt t).fab.slot ix
    if !elemOk x w || bits w 24 3 ≠ 0 || bits w 16 2 ≠ 0 || !y.on || !takesKill y.frame ||
        bits v 12 4 ≠ 0 || bits v 28 36 ≠ 0 || hi < lo then elemBad s w
    else .retire ((s.updFab t fun f => f.updCtl ix fun k => k.kill lo hi).nameKilled r lo hi)
def execKill (c : Guard) (d a : GReg) (s : State) : Out := s.go .us false c (killOp d a)

/-- THRD (R409); k marks THRD.K. -/
def thrdOp (k : Bool) (d : GReg) (s : State) : Act :=
  s.inRegion fun _ _ =>
    let f := s.tile.fab
    if f.ctlSource 8 = 0 then fault s cPort 0xFFFF
    else if !k then s.retG d (w64 (f.ctl.tag.toNat * 2 ^ 32 + f.ctl.score.toNat))
    else match f.ctl.kills with
    | [] => s.retG d 0
    | (lo, hi) :: r =>
      (s.setFab { f with ctl := { f.ctl with kills := r } }).retG d (w64 (2 ^ 63 + hi * 2 ^ 16 + lo))
def execThrd (c : Guard) (d : GReg) (s : State) : Out := s.go .us false c (thrdOp false d)
def execThrdK (c : Guard) (d : GReg) (s : State) : Out := s.go .us false c (thrdOp true d)

/-! ### CFG and QWAIT -/

/-- A byte of an image in the local window lies in tile store (R141). -/
def imageHole (va : Word) : Bool :=
  match localOff va with
  | some o => decide (Config.tileStore ≤ o)
  | none => false

/-- One frame of an image, read as LD would. -/
def State.readFrame (s : State) (va : Word) : Except Halt (BitVec 256 × State) :=
  if imageHole va then .error (.trap cPermission va)
  else match s.readDwords va 4 with
  | .error e => .error e
  | .ok (l, s) =>
    .ok (l.getD 3 (0 : Word) ++ l.getD 2 (0 : Word) ++ l.getD 1 (0 : Word) ++ l.getD 0 (0 : Word), s)
def State.readFrames (s : State) (va : Word) : Nat → Except Halt (List (BitVec 256) × State)
  | 0 => .ok ([], s)
  | n + 1 =>
    match s.readFrame va with
    | .error e => .error e
    | .ok (f, s) =>
      match s.readFrames (va + 32) n with
      | .error e => .error e
      | .ok (l, s) => .ok (f :: l, s)

/-- The region's quiet state as a task observes it: reported by the tree, and so (R139, R143). -/
def State.seenQuiet (s : State) (r : Nat) : Bool := (s.region r).any (fun x => x.quiet) && s.quietNow r

/-- The image at an address is read, checked and installed (R137, R141). -/
def State.configure (s : State) (r : Nat) (x : Region) (va : Word) : Act :=
  if va = 0 then .retire (s.install r 0 0 [])
  else match s.readFrame va with
  | .error e => e.act s
  | .ok (h, s1) =>
    match s1.readFrames (va + 32) (hdrCount h) with
    | .error e => e.act s
    | .ok (fs, s2) =>
      if !headerOk h then fault s cConfigRefused (refusedEval (1, 0))
      else match loaderCheck x.w x.h x.tags h fs with
      | some q => fault s cConfigRefused (refusedEval q)
      | none => .retire (s2.install r va (hdrTags h) fs)

/-- CFG (R141): the ports of the region stall for no time, since reading, checking and installing are one turn. It waits
while the region is not quiet; the region can meanwhile be pre-empted, faulted or killed (R144). -/
def cfgOp (a : GReg) (s : State) : Act :=
  s.inRegion fun r x =>
    let va := s.g a
    if x.crown ≠ s.cur then fault s cFabric 0
    else if va.toNat % 32 ≠ 0 then fault s cMisaligned va
    else if !s.drained || !s.seenQuiet r then .wait s
    else s.configure r x va
def execCfg (c : Guard) (a : GReg) (s : State) : Out := s.go .us false c (cfgOp a)

/-- CFG_INSTALL: the CFG at which the core of region r's crown waits takes its turn. -/
def execCfgInstall (r : Nat) (s : State) : Out :=
  match s.region r with
  | none => .next s
  | some x =>
    let f := s.focus x.crown
    if x.place.isNone || f.core.status ≠ .run then .next s
    else match f.fetch f.core.pc with
    | .word w f =>
      (match decode w with
       | .ok (.cfg c a) => .next ((({ f with ir := w } : State).exec .us false c (cfgOp a)).focus s.cur)
       | _ => .next s)
    | _ => .next s

/-- What QWAIT writes (R142). -/
def State.quietWord (s : State) (r : Nat) (x : Region) : Word :=
  w64 (wbit (s.seenQuiet r) 0 + x.bouts.toNat * 2 ^ 16)
/-- QWAIT (R142); w marks QWAIT.W, which waits while the region is not quiet, until it is pre-empted, faulted or killed
(R144). -/
def qwaitOp (w : Bool) (d : GReg) (s : State) : Act :=
  s.inRegion fun r x => if w && !s.seenQuiet r then .wait s else s.retG d (s.quietWord r x)
def execQwait (c : Guard) (d : GReg) (s : State) : Out := s.go .us false c (qwaitOp false d)
def execQwaitW (c : Guard) (d : GReg) (s : State) : Out := s.go .us false c (qwaitOp true d)

/-- QUIESCENCE_REPORT: the tree reports the region's state (R139). -/
def execQuiescenceReport (r : Nat) (s : State) : Out :=
  .next (s.updRegion r fun x => { x with quiet := s.quietNow r })

end Sys2Proof.Machine
end

