-- ==== Sys2Proof/Machine/Oper.lean ====
section
/-!
DEFINITION. The common course of operator kinds (R145 to R149, R151): parameters at boundaries, kills, checks of
formats and row ends, and what a firing leaves; then MAP, PREFIX, FILTER, QUANT, REDUCE and SELECT (R152, R153, R159,
R161 to R163).
-/
namespace Sys2Proof.Machine

/-! ### One firing -/

/-- What a firing leaves: the slot, rows that ended, copies of rows that it made, and control tokens: KILL or THRESH,
score, tags. -/
structure Fire where
  slot : Slot
  ends : List Token := []
  more : List Token := []
  ctl : List (Bool × BitVec 32 × BitVec 12 × BitVec 12) := []

/-- Control tokens of a firing; a KILL names its tags (R174). -/
def State.sendAll (s : State) (r t sl : Nat) : List (Bool × BitVec 32 × BitVec 12 × BitVec 12) → State
  | [] => s
  | (kill, score, lo, hi) :: l =>
    let s1 := s.sendCtl r t sl kill score lo hi
    (if kill then s1.nameKilled r lo.toNat hi.toNat else s1).sendAll r t sl l

/-- A firing takes its place in the state. -/
def State.commitFire (s : State) (r t sl : Nat) (o : Fire) : State :=
  let s1 := s.updFab t fun k => k.updSlot sl fun _ => o.slot
  let s2 := o.more.foldl (fun s x => s.tagCopies r x 1) s1
  (s2.tagEnds r o.ends).sendAll r t sl o.ctl

/-- SCORE takes segment tokens on its parameter input (R154). -/
def Slot.segmented (x : Slot) : Bool := slotKind x.frame == 2 && pbits (x.reg 0) 16 2 == 2

/-- The parameter tokens that have reached the slot are taken; an error is the reason (R147). -/
def Slot.takeParams (x : Slot) : Except Nat Slot :=
  if x.segmented then .ok x
  else
    let y := x.gather x.par.length
    match y.par with
    | [] => .ok y
    | t :: _ => if t.kind = .mark then .ok y else .error 3

/-- A boundary: the writes that wait apply in their order, and the set is judged once (R147). -/
def Slot.boundary (x : Slot) : Except Nat Slot :=
  if x.due.isEmpty then .ok x
  else
    let p := x.due.foldl (fun (p : Vector (BitVec 32) 7) w => p.setIfInBounds w.1 w.2) x.p
    if frameKindOk x.frame fun i => p[i]?.getD 0 then .ok { x with p := p, due := [] } else .error 4

/-- The KILL queue is popped (R148). -/
def Slot.popKills (x : Slot) : Slot :=
  if takesKill x.frame then
    { x with op := { x.op with killed := x.op.killed ++ x.ctl.kills }, ctl := { x.ctl with kills := [] } }
  else x
/-- A tag lies in a range popped in the bout. -/
def Slot.isKilled (x : Slot) (tag : BitVec 12) : Bool :=
  x.op.killed.any fun q => decide (q.1 ≤ tag.toNat) && decide (tag.toNat ≤ q.2)

/-- A slot of a kind fires: its region runs, it is on and not stopped, and its outputs are clear. -/
def State.fire (s : State) (t sl kind : Nat) (f : State → Nat → Slot → Except Nat (State × Fire)) : Out :=
  match s.firing t with
  | none => .next s
  | some r =>
    let x := (s.tileAt t).fab.slot sl
    if 4 ≤ sl || !x.on || x.stopped || slotKind x.frame ≠ kind || !x.clear then .next s
    else match x.takeParams with
    | .error n => .next (s.fabricFault t 0 sl 0 n)
    | .ok y =>
      match f s r y with
      | .error n => .next (s.fabricFault t 0 sl 0 n)
      | .ok (s1, o) => .next (s1.commitFire r t sl o)

/-! ### Kinds that take one token from each input (R146, R148) -/

/-- The heads of inputs, when each has one. -/
def Slot.heads (x : Slot) (l : List Nat) : Option (List Token) :=
  if l.all fun i => !(x.inQ i).isEmpty then some (l.map fun i => (x.inQ i).headD {}) else none
/-- The heads are consumed. -/
def Slot.take (x : Slot) : List Nat → Slot
  | [] => x
  | i :: l => (x.setIn i ((x.inQ i).drop 1)).take l

/-- The tokens agree in LR and LS. -/
def agree : List Token → Bool
  | [] => true
  | a :: l => l.all fun b => a.lr == b.lr && a.ls == b.ls

/-- A DATA token carries a format. -/
def hasFmt (f : Fmt) (t : Token) : Bool := t.kind != .data || t.fmt == f.tag

/-- One token from each input of a row kind. At the first token of a row come the boundary and the kills; then the
formats and the row ends are checked; a dropped row gives nothing. The kind's own part sees whether the row begins. -/
def Slot.rowFire (x : Slot) (ins : Slot → List Nat) (want : Slot → Token → Bool)
    (f : Slot → Bool → Token → List Token → Except Nat Fire) : Except Nat Fire :=
  let first := !x.op.inRow
  match x.heads (ins x) with
  | none => .ok { slot := if first then x.popKills else x }
  | some [] => .ok { slot := x }
  | some (h :: l) =>
    if (h :: l).any fun t => t.kind == .mark then .ok { slot := x }
    else if (h :: l).any fun t => t.kind == .param then .error 3
    else match (if first then x.boundary else .ok x) with
    | .error n => .error n
    | .ok y =>
      if !(h :: l).all (want y) then .error 1
      else if !agree (h :: l) then .error 2
      else
        let y := if first then
            let z := y.popKills
            { z with op := { z.op with dropRow := z.isKilled h.tag } } else y
        let z := y.take (ins x)
        let z := { z with op := { z.op with inRow := !h.lr } }
        let whole (l : List Token) : List Token := if h.lr then l else []
        if y.op.dropRow then .ok { slot := z, ends := whole (h :: l) }
        else match f z first h l with
        | .error n => .error n
        | .ok o => .ok { o with ends := o.ends ++ whole l }

/-- A row kind that reads in0 only. -/
def Slot.rowFire1 (x : Slot) (want : Slot → Token → Bool) (f : Slot → Bool → Token → Except Nat Fire) : Except Nat Fire :=
  x.rowFire (fun _ => [0]) want fun y first h _ => f y first h

/-- A firing that does not touch the rest of the state. -/
def pureFire (f : Slot → Except Nat Fire) (s : State) (_r : Nat) (x : Slot) : Except Nat (State × Fire) :=
  match f x with
  | .error n => .error n
  | .ok o => .ok (s, o)

/-- The lane format that P0 names in [4:0]. -/
def fmtOf (n : Nat) : Fmt := (Fmt.ofTag (BitVec.ofNat 5 n)).getD .bits

/-! ### MAP (R152) -/

/-- min(max(x, lo), hi) over exact values as MAX and MIN choose; none stands for x itself (R152). -/
def clampPick (x lo hi : XVal) : Option XVal :=
  let m : Option XVal :=
    if x.isNaN then (if lo.isNaN then some .qnan else some lo) else if lo.isNaN then none else if x.ltz lo then some lo else none
  let v := m.getD x
  if v.isNaN then (if hi.isNaN then m else some hi) else if hi.isNaN then m else if hi.ltz v then some hi else m

/-- A MAP function of one lane. -/
def mapLane (fn : Nat) (f : Fmt) (mode : RMode) (p1 p2 : BitVec 32) (x y z : Lane) : Lane :=
  match fn with
  | 1 =>
    if f.isLaneInt then f.wrap (p1.toInt * f.int x + p2.toInt)
    else (f.roundLane ((fp32 p1).fma (f.value x) (fp32 p2) mode) mode).1
  | 2 => (addLane f mode x y).1
  | 3 => (subLane f mode x y).1
  | 4 => (mulLane f mode x y).1
  | 5 => (fmaLane f mode x y z).1
  | 6 => (pickLane f true x y).1
  | 7 => (pickLane f false x y).1
  | 8 =>
    if f.isLaneInt then f.wrap (min (max (f.int x) p1.toInt) p2.toInt)
    else match clampPick (f.value x) (fp32 p1) (fp32 p2) with
    | none => x
    | some v => (f.roundLane (v, false) mode).1
  | 9 => (pickLane f true x 0).1
  | 10 => (exp2Lane f mode x).1
  | 11 => (rcpLane f mode x).1
  | 12 => (rsqLane f mode x).1
  | _ => x

/-- The score of RERANK: P1 × s + clamp(b, 0, P2), rounded down. -/
def rerankScore (p1 p2 : BitVec 32) (s b : Lane) : Lane :=
  let c := (clampPick (fp32 b) (.fin false 0 0) (fp32 p2)).getD (fp32 b)
  toFp32 ((fp32 p1).fma (fp32 s) c .rdn).1 .rdn

/-- RERANK of a row's first token. -/
def rerank (x : Slot) (t : Token) : Token :=
  let k := pbits (x.reg 4) 0 4
  if t.ok 0 && t.ok k then
    { t with lanes := payloadOf (fun i =>
        if i = 0 then rerankScore (x.reg 1) (x.reg 2) (laneOf t.lanes 0) (laneOf t.lanes k) else laneOf t.lanes i) 16 }
  else t

/-- The result token of a MAP function. -/
def mapToken (x : Slot) (h : Token) (l : List Token) : Token :=
  let p0 := x.reg 0
  let f := fmtOf (pbits p0 0 5)
  let at_ (j i : Nat) : Lane := ((h :: l).getD j {}).lane f i
  h.result f (fun i => (h :: l).all fun t => t.ok i) fun i =>
    mapLane (pbits p0 8 8) f (RMode.ofField (pbits p0 5 3)) (x.reg 1) (x.reg 2) (at_ 0 i) (at_ 1 i) (at_ 2 i)

/-- MAP_FIRE. -/
def mapFire (x : Slot) : Except Nat Fire :=
  x.rowFire Slot.inputs (fun y t => pbits (y.reg 0) 8 8 == 13 || hasFmt (fmtOf (pbits (y.reg 0) 0 5)) t)
    fun y first h l =>
      let out := if h.kind ≠ .data then h
        else if pbits (y.reg 0) 8 8 = 13 then (if first then rerank y h else h) else mapToken y h l
      .ok { slot := y.emit 0 [out] }
def execMapFire (t sl : Nat) (s : State) : Out := s.fire t sl 0 (pureFire mapFire)

/-! ### PREFIX (R153) -/

/-- OP of PREFIX and REDUCE. -/
def redOpOf (n : Nat) : RedOp := if n = 0 then .sum else if n = 1 then .max else .min

/-- The running value after the first n lanes of a token. -/
def prefixRun (f : Fmt) (op : RedOp) (mode : RMode) (run : Lane) (x : Token) : Nat → Lane
  | 0 => run
  | n + 1 =>
    let r := prefixRun f op mode run x n
    if x.ok n then (redLane f op mode r (x.lane f n)).1 else r

/-- PREFIX_FIRE. -/
def prefixFire (x : Slot) : Except Nat Fire :=
  x.rowFire1 (fun y t => hasFmt (fmtOf (pbits (y.reg 0) 0 5)) t) fun y first h =>
    if h.kind ≠ .data then .ok { slot := y.emit 0 [h] }
    else
      let p0 := y.reg 0
      let f := fmtOf (pbits p0 0 5)
      let op := redOpOf (pbits p0 8 2)
      let mode := RMode.ofField (pbits p0 5 3)
      let run := if first then redIdentity f op else y.op.run
      let excl := p0.getLsbD 10
      let out := h.result f h.ok fun i => prefixRun f op mode run h (if excl then i else i + 1)
      .ok { slot := { y with op := { y.op with run := prefixRun f op mode run h 16 } }.emit 0 [out] }
def execPrefixFire (t sl : Nat) (s : State) : Out := s.fire t sl 1 (pureFire prefixFire)

/-! ### FILTER (R159) -/

/-- Conditions of FILTER. -/
def filterCond (n : Nat) : VCond :=
  match n with
  | 0 => .eq
  | 1 => .ne
  | 2 => .lt
  | 3 => .ge
  | 4 => .le
  | _ => .gt

/-- An element passes the comparison with P1. -/
def filterPass (x : Slot) (e : Lane) : Bool :=
  let p0 := x.reg 0
  let f := fmtOf (pbits p0 9 5)
  let c : XVal := if f.float.isSome then fp32 (x.reg 1) else if f = .uint8 || f = .idx32 then XVal.ofInt (x.reg 1).toNat
    else XVal.ofInt (x.reg 1).toInt
  let v : XVal := if f.float.isSome then f.value e else if f = .idx32 then XVal.ofInt e.toNat else XVal.ofInt (f.int e)
  (filterCond (pbits p0 6 3)).holds v c

/-- FILTER_FIRE: toks are the tokens of a row in lane mode of which no lane has passed yet; fresh is the decision on
the row in row mode, and in lane mode that a lane has passed. -/
def filterFire (x : Slot) : Except Nat Fire :=
  x.rowFire1 (fun y t => hasFmt (fmtOf (pbits (y.reg 0) 9 5)) t) fun y first h =>
    let p0 := y.reg 0
    let f := fmtOf (pbits p0 9 5)
    if h.kind ≠ .data then .ok { slot := { y with op := { y.op with toks := [] } }.emit 0 [h] }
    else
      let keep := p0.getLsbD 1
      let k := pbits p0 2 4
      if !p0.getLsbD 0 then
        let ok := if first then h.ok k && filterPass y (h.lane f k) else y.op.fresh
        let y := { y with op := { y.op with fresh := ok } }
        if ok then .ok { slot := y.emit 0 [h] }
        else if !h.lr then .ok { slot := y }
        else if keep then .ok { slot := y.emit 0 [bubble h h.ls] }
        else .ok { slot := if h.ls then y.emit 0 [{ bubble h true with own := false }] else y, ends := [h] }
      else
        let pass i := h.ok i && filterPass y (h.lane f i)
        let out : Token := { h with
          lanes := payloadOf (fun i => if h.ok i && !pass i then 0 else laneOf h.lanes i) 16, valid := validOf pass 16 }
        let held := if first then [] else y.op.toks
        let any := (!first && y.op.fresh) || out.valid ≠ 0
        let y := { y with op := { y.op with fresh := any, toks := if any || h.lr then [] else held ++ [out] } }
        if any then .ok { slot := y.emit 0 (held ++ [out]) }
        else if h.lr then .ok { slot := y.emit 0 [bubble h h.ls] }
        else .ok { slot := y }
def execFilterFire (t sl : Nat) (s : State) : Out := s.fire t sl 7 (pureFire filterFire)

/-! ### QUANT (R162) -/

/-- A block quantised: its tokens, and the token of its scale. -/
def quantBlock (p0 : BitVec 32) (l : List Token) : List Token × Token :=
  let src := fmtOf (pbits p0 5 5)
  let dst := fmtOf (pbits p0 0 5)
  let wide := p0.getLsbD 10
  let mode := RMode.ofField (pbits p0 12 3)
  let amax := l.foldl (fun a t => XVal.amax a (laneAmax t src 16)) (.fin false 0 0)
  let sc := (sclOf dst wide amax).1
  let kind : Fmt := if wide then .fp32 else .e8m0
  let last := l.getLastD {}
  (l.map fun t => t.result dst t.ok fun i => (qntLane src dst mode (kind.value sc) (t.lane src i)).1,
    last.result kind (fun i => i = 0) fun _ => sc)

/-- QUANT_FIRE: toks is the block in progress; a BUBBLE resets it (R146). -/
def quantFire (x : Slot) : Except Nat Fire :=
  x.rowFire1 (fun y t => hasFmt (fmtOf (pbits (y.reg 0) 5 5)) t) fun y _ h =>
    if h.kind ≠ .data then
      let y := { y with op := { y.op with toks := [] } }
      .ok { slot := (y.emit 0 [h]).emit 1 [h], more := if slotOut y.frame 1 then [h] else [] }
    else
      let l := y.op.toks ++ [h]
      if h.lr || !(y.reg 0).getLsbD 11 || l.length = 2 then
        let q := quantBlock (y.reg 0) l
        .ok { slot := ({ y with op := { y.op with toks := [] } }.emit 0 q.1).emit 1 [q.2]
              more := if slotOut y.frame 1 && h.lr then [h] else [] }
      else .ok { slot := { y with op := { y.op with toks := l } } }
def execQuantFire (t sl : Nat) (s : State) : Out := s.fire t sl 10 (pureFire quantFire)

/-! ### SELECT (R163) -/

/-- The elements of a row that count: number, value, bits. -/
def selectElems (f : Fmt) (l : List Token) : List (Nat × XVal × Lane) :=
  (List.range (16 * l.length)).filterMap fun e =>
    let t := l.getD (e / 16) {}
    let v := t.lane f (e % 16)
    if t.ok (e % 16) && !(f.value v).isNaN then some (e, f.value v, v) else none

/-- The largest element, the first of equal ones. -/
def argmax : List (Nat × XVal × Lane) → Option (Nat × XVal × Lane)
  | [] => none
  | a :: l =>
    match argmax l with
    | some b => if a.2.1.lt b.2.1 then some b else some a
    | none => some a

/-- The weight of an element, in units of 2^-149: VEXP2 of ((x - m) / T) log2 e. -/
def selectWeight (m tv x : XVal) : Nat :=
  match (x.add m.neg .rne).1, tv, fp32 0x3FB8AA3B with
  | .fin neg a e, .fin _ b q, .fin _ c k =>
    let y := (f32.round neg (a * c) b (e + k - q) .rne false).1
    ((fp32 (exp2Lane .fp32 .rne (BitVec.ofNat 32 y)).1).at (-149)).toNat
  | _, _, _ => 0

/-- Descending by weight, ascending by element. -/
def insertWeight (x : Nat × Nat) : List (Nat × Nat) → List (Nat × Nat)
  | [] => [x]
  | y :: l => if y.2 < x.2 || (y.2 = x.2 && x.1 < y.1) then x :: y :: l else y :: insertWeight x l

/-- The shortest list from the front whose sum reaches num / den of the whole. -/
def nucleus (num den sum : Nat) : List (Nat × Nat) → List (Nat × Nat)
  | [] => []
  | x :: l => if num ≤ (sum + x.2) * den then [x] else x :: nucleus num den (sum + x.2) l

/-- The first element whose running sum exceeds u / 2^53 of a total. -/
def pickAt (u total sum : Nat) : List (Nat × Nat) → Nat
  | [] => 0
  | [x] => x.1
  | x :: l => if u * total < (sum + x.2) * 2 ^ 53 then x.1 else pickAt u total (sum + x.2) l

/-- The generator of SELECT. -/
def selectMix (seed counter : Word) : Word :=
  let z := seed + counter * 0x9E3779B97F4A7C15
  let z := (z ^^^ (z >>> 30)) * 0xBF58476D1CE4E5B9
  let z := (z ^^^ (z >>> 27)) * 0x94D049BB133111EB
  z ^^^ (z >>> 31)

/-- The element sampled, none when the largest logit is infinite: then the weights have no value. -/
def sample (x : Slot) (l : List (Nat × XVal × Lane)) (m : XVal) : Option Nat :=
  if m.isInf then none
  else
    let w := (l.map fun a => (a.1, selectWeight m (fp32 (x.reg 1)) a.2.1)).foldr insertWeight []
    let total := (w.map Prod.snd).foldl Nat.add 0
    match fp32 (x.reg 2) with
    | .fin _ a e =>
      let n := nucleus (a * pow2Num e * total) (pow2Den e) 0 w
      let z := selectMix (x.reg 4 ++ x.reg 3) (x.reg 6 ++ x.reg 5)
      some (pickAt (bits z 11 53) ((n.map Prod.snd).foldl Nat.add 0) 0 n)
    | _ => none

/-- SELECT_FIRE: toks is the row in progress; a BUBBLE resets it (R146). A sampled index that has no value is a free one (log entry 5). -/
def selectFire (tick : Nat) (x : Slot) : Except Nat Fire :=
  x.rowFire1 (fun y t => hasFmt (fmtOf (pbits (y.reg 0) 1 5)) t) fun y _ h =>
    if h.kind ≠ .data then .ok { slot := { y with op := { y.op with toks := [] } }.emit 0 [h] }
    else if 256 ≤ y.op.toks.length then .error 5
    else
      let l := y.op.toks ++ [h]
      if !h.lr then .ok { slot := { y with op := { y.op with toks := l } } }
      else
        let y := { y with op := { y.op with toks := [] } }
        let first := l.headD h
        let es := selectElems (fmtOf (pbits (y.reg 0) 1 5)) l
        match argmax es with
        | none => .ok { slot := y.emit 0 [{ bubble first h.ls with fmt := first.fmt }] }
        | some m =>
          let smp := (y.reg 0).getLsbD 0
          let e := if smp then (sample y es m.2.1).getD (es.getD (Config.sampleIndex tick % es.length) m).1 else m.1
          let v := match es.find? fun a => a.1 == e with
            | some a => a.2.2
            | none => 0
          let next : Word := (y.reg 6 ++ y.reg 5) + 1
          let p := if smp then (y.p.setIfInBounds 5 (next.setWidth 32)).setIfInBounds 6 (next.extractLsb' 32 32) else y.p
          let out := first.result .idx32 (fun i => decide (i < 2)) fun i => if i = 0 then BitVec.ofNat 32 e else v
          .ok { slot := { y with p := p }.emit 0 [{ out with lr := true, ls := h.ls }] }
def execSelectFire (t sl : Nat) (s : State) : Out :=
  (s.fire t sl 11 fun s r x => pureFire (selectFire s.tick) { s with tick := s.tick + 1 } r x)

/-! ### REDUCE (R88, R161) -/

/-- Ceiling of log2. -/
def clog2 (n : Nat) : Nat := if n ≤ 1 then 0 else (n - 1).log2 + 1

/-- An input lane in an exact sum: the integer at the agreed exponent; none where R88 gives it no value. -/
def exactTerm (f : Fmt) (h : Nat) (e : Int) (x : Lane) : Option Int :=
  if f = .int32 then some (f.int x)
  else match f.value x with
  | .fin neg m q =>
    let r := (roundAt neg m 1 (q + 29 - h - e) 0 .rne).1
    some (if neg then -(r : Int) else r)
  | _ => none
def exactSum (h : Nat) (e : Int) (i : Nat) : List Token → Option Int
  | [] => some 0
  | t :: l =>
    match exactTerm t.format h e (t.lane t.format i), exactSum h e i l with
    | some a, some b => some (a + b)
    | _, _ => none

/-- Accepted on a data input of an exact node: a float, or INT32. -/
def exactInput (t : Token) : Bool :=
  t.kind != .data || (match Fmt.ofTag t.fmt with
    | some .int32 => true
    | some .e8m0 => false
    | some f => f.float.isSome
    | none => false)

/-- The combination of plain tokens, lane by lane in input order. -/
def plainLane (f : Fmt) (op : RedOp) (mode : RMode) (i : Nat) (acc : Lane) : List Token → Lane
  | [] => acc
  | t :: l => plainLane f op mode i (redLane f op mode acc (t.lane f i)).1 l

/-- The data inputs of REDUCE. -/
def reduceIns (x : Slot) : List Nat := x.inputs.filter fun i => decide (i < 3)

/-- An exact node's token: the agreed exponents of the block, the number of the token in it. A lane without a value is
free where the node is no root (log entry 5). -/
def exactToken (tick : Nat) (p0 : BitVec 32) (ex : Token) (k : Nat) (h : Token) (l : List Token) : Except Nat Token :=
  let root := p0.getLsbD 11
  let dst : Fmt := if root then fmtOf (pbits p0 0 5) else .int32
  let hh := clog2 (pbits p0 12 9)
  let code := (laneOf ex.lanes (k / 2)).toNat % 256
  let e : Int := (code : Int) - 127
  let ok i := ex.ok (k / 2) && (h :: l).all fun t => t.ok i
  let sum i := if code = 255 then none else exactSum hh e i (h :: l)
  if (List.range 16).any fun i => ok i && (match sum i with
      | some v => decide (v < -2147483648) || decide (2147483647 < v)
      | none => false) then .error 8
  else
    .ok (h.result dst ok fun i =>
      match sum i with
      | some v =>
        if root then
          (if v = 0 then 0 else ((dst.float.getD f32).roundX (.fin (decide (v < 0)) v.natAbs (e - 29 + hh)) .rne false).1)
        else BitVec.ofInt 32 v
      | none => if root && code = 255 then BitVec.ofNat 32 ((dst.float.getD f32).canonNan false)
        else BitVec.ofNat 32 ((Config.openLane tick i).toNat % 2 ^ dst.width))

/-- REDUCE_FIRE: exps are the agreed exponents in force, count the data tokens taken under them; fresh tells that a
stream begins. -/
def reduceFire (tick : Nat) (x : Slot) : Except Nat Fire :=
  let ins := reduceIns x
  match x.heads ins with
  | none => .ok { slot := x }
  | some [] => .ok { slot := x }
  | some (h :: l) =>
    if (h :: l).any fun t => t.kind == .mark then .ok { slot := x }
    else if (h :: l).any fun t => t.kind == .param then .error 3
    else match (if x.op.fresh then x.boundary else .ok x) with
    | .error n => .error n
    | .ok y =>
      let p0 := y.reg 0
      let exact := p0.getLsbD 10
      let f := fmtOf (pbits p0 0 5)
      if !(h :: l).all (if exact then exactInput else hasFmt f) then .error 1
      else if !agree (h :: l) then .error 2
      else
        let z := y.take ins
        let whole := if h.lr then l else []
        let fin (z : Slot) : Slot := { z with op := { z.op with fresh := h.ls, inRow := !h.lr } }
        if h.kind ≠ .data then .ok { slot := (fin z).emit 0 [h], ends := whole }
        else if !exact then
          let op := redOpOf (pbits p0 8 2)
          let mode := RMode.ofField (pbits p0 5 3)
          let out := h.result f (fun i => (h :: l).all fun t => t.ok i) fun i => plainLane f op mode i (h.lane f i) l
          .ok { slot := (fin z).emit 0 [out], ends := whole }
        else match y.op.exps, y.inQ 3 with
        | none, [] => .ok { slot := y }
        | none, e :: r =>
          if e.kind = .mark then .ok { slot := y }
          else if e.kind = .param then .error 3
          else if e.kind = .bubble then .ok { slot := y.setIn 3 r, ends := [e] }
          else if e.fmt ≠ Fmt.e8m0.tag then .error 1
          else .ok {
            slot := { y.setIn 3 r with op := { y.op with exps := some e, count := 0, fresh := false } }
            ends := if e.lr then [e] else [] }
        | some ex, _ =>
          match exactToken tick p0 ex y.op.count h l with
          | .error n => .error n
          | .ok out =>
            let last := y.op.count = 31
            let z := { z with op := { z.op with
              exps := if last then none else some ex, count := if last then 0 else y.op.count + 1 } }
            .ok { slot := (fin z).emit 0 [out], ends := whole }
def execReduceFire (t sl : Nat) (s : State) : Out :=
  (s.fire t sl 9 fun s r x => pureFire (reduceFire s.tick) { s with tick := s.tick + 1 } r x)

end Sys2Proof.Machine
end

