-- ==== Sys2Proof/Machine/Ranked.lean ====
section
/-!
DEFINITION. The ranked kinds (chapter 09): tag issuers (R173 to R175), SCORE, BOUND, TOPK, MERGE and JOIN (R154 to
R158).
-/
namespace Sys2Proof.Machine

/-! ### Tag issuers (R174, R175) -/

/-- The highest tag of the n tags from cur on that a KILL of the bout names. -/
def topKilled (l : List (Nat × Nat)) (cur n : Nat) : Option Nat :=
  l.foldl (fun m q =>
    if q.1 < cur + n ∧ cur ≤ q.2 then some (max (m.getD 0) (min q.2 (cur + n - 1))) else m) none

/-- The run of n tags that the cursor comes to; gone counts the tags that it has passed. -/
def findRun (l : List (Nat × Nat)) (base q n : Nat) : Nat → Nat → Nat → Option Nat
  | 0, _, _ => none
  | k + 1, cur, gone =>
    if base + q < cur + n then
      let g := gone + (base + q - cur)
      if q ≤ g then none else findRun l base q n k base g
    else match topKilled l cur n with
      | none => some cur
      | some m =>
        let g := gone + (m + 1 - cur)
        if q ≤ g then none else findRun l base q n k (m + 1) g

/-- The issuer of a slot. -/
def Region.issuer (x : Region) (t sl : Nat) : Option Issuer :=
  x.issuers.find? fun i => i.tile == x.offOf t && i.slot == sl
/-- The run that a slot's issuer comes to. -/
def Region.run (x : Region) (t sl n : Nat) : Option Nat :=
  match x.issuer t sl with
  | none => none
  | some i => if n = 0 || i.q < n then none else findRun x.tagKilled i.base i.q n (2 * i.q + 4) i.cursor 0
/-- The cursor passes a run. -/
def Region.advance (x : Region) (t sl cur : Nat) : Region :=
  { x with issuers := x.issuers.map fun i =>
      if i.tile == x.offOf t && i.slot == sl then { i with cursor := cur } else i }
/-- Every tag of a run is free. -/
def Region.runFree (x : Region) (first n : Nat) : Bool :=
  !x.tagHeld.any fun q => decide (first ≤ q.1) && decide (q.1 < first + n)
/-- Every tag of a run is issued. -/
def Region.issue (x : Region) (first n : Nat) : Region :=
  { x with tagHeld := (List.range n).foldl (fun l i => holdMore l (first + i) 1) x.tagHeld }

/-! ### SCORE (R154) -/

/-- The segment token before the first row of a segment; it overwrites what waits for P3 and P4. -/
def scoreSegment (x : Slot) : Except Nat Fire :=
  match x.par with
  | [] => .ok { slot := x.popKills }
  | t :: r =>
    let sel := (laneOf t.lanes 0).toNat
    let base := laneOf t.lanes 1
    if t.kind = .mark then .ok { slot := x }
    else if t.kind ≠ .param then .error 3
    else if t.ls && !t.lr then
      .ok { slot := { x with par := r, op := { x.op with ended := true } }.emit 0 [bubble {} true] }
    else if sel ≠ 3 then .error 3
    else if 4095 < base.toNat then .error 4
    else .ok { slot := { x with
      par := r, p := (x.p.setIfInBounds 3 base).setIfInBounds 4 (laneOf t.lanes 2)
      due := x.due.filter fun w => w.1 != 3 && w.1 != 4
      op := { x.op with seg := true, segLs := t.ls, count := 0 } } }

/-- A row begins: its tag, and whether it is dropped; none while no tag is free. -/
def scoreStart (s : State) (r t sl : Nat) (x : Slot) (h : Token) : Except Nat (Option (State × Slot)) :=
  let mode := pbits (x.reg 0) 16 2
  let d := pbits (x.reg 0) 19 13
  let lim := if pbits (x.reg 0) 8 2 = 2 then (x.reg 2).toNat + 1024 * d else (x.reg 1).toNat + 4 * d
  let go (s : State) (tag : BitVec 12) : Option (State × Slot) :=
    some (s, { x with op := { x.op with
      rowTag := tag, dropRow := x.isKilled tag, inRow := true, elem := 0, sum := .fin false 0 0, count := x.op.count + 1 } })
  if Config.tileStore < lim then .error 4
  else if mode = 0 then .ok (go s h.tag)
  else if mode = 2 then .ok (go s (BitVec.ofNat 12 ((x.reg 3).toNat + x.op.count)))
  else match s.region r with
  | none => .ok none
  | some y =>
    match y.run t sl 1 with
    | none => .error 4
    | some first =>
      if y.runFree first 1 then
        .ok (go (s.updRegion r fun y => (y.issue first 1).advance t sl (first + 1)) (BitVec.ofNat 12 first))
      else .ok none

/-- The term of one element of a row. -/
def scoreTerm (s : State) (t : Nat) (x : Slot) (e : Nat) (l : Lane) : XVal :=
  let word (off : Nat) : XVal := fp32 (BitVec.ofNat 32 (s.rd (windowPa t + off) 4))
  let f := fmtOf (pbits (x.reg 0) 0 5)
  match pbits (x.reg 0) 8 2 with
  | 2 => word ((x.reg 2).toNat + (256 * e + l.toNat % 256) * 4)
  | 1 =>
    let d := ((word ((x.reg 1).toNat + 4 * e)).add (f.value l).neg .rne).1
    (d.mul d).1.neg
  | _ => ((word ((x.reg 1).toNat + 4 * e)).mul (f.value l)).1

/-- The sum after the first n lanes of a token whose first element is e. -/
def scoreSum (s : State) (t : Nat) (x : Slot) (h : Token) (e : Nat) (sum : XVal) : Nat → XVal
  | 0 => sum
  | n + 1 =>
    let r := scoreSum s t x h e sum n
    if h.ok n then (r.add (scoreTerm s t x (e + n) (h.lane (fmtOf (pbits (x.reg 0) 0 5)) n)) .rne).1 else r

/-- One token of a row. -/
def scoreToken (s : State) (t : Nat) (x : Slot) (h : Token) (rest : List Token) : Except Nat Fire :=
  let d := pbits (x.reg 0) 19 13
  let mode := pbits (x.reg 0) 16 2
  let e := 16 * x.op.elem
  if (List.range 16).any fun i => h.ok i && decide (d ≤ e + i) then .error 5
  else
    let sum := if x.op.dropRow then x.op.sum else scoreSum s t x h e x.op.sum 16
    let z := { x.setIn 0 rest with op := { x.op with inRow := !h.lr, elem := x.op.elem + 1, sum := sum } }
    if !h.lr then .ok { slot := z }
    else
      let own := if mode = 0 then h.own else true
      let ls := if mode = 2 then h.ls && x.op.segLs else h.ls
      let z := if mode = 2 && h.ls then { z with op := { z.op with seg := false } } else z
      let row : Token := { tag := x.op.rowTag, own := own }
      let absorbed := if mode = 0 then [] else [h]
      if x.op.dropRow then .ok { slot := z, ends := row :: absorbed }
      else
        let score := if sum.isZero then 0 else toFp32 sum .rne
        let ord := x.reg 4 + BitVec.ofNat 32 (x.op.count - 1)
        let out := row.result .bits (fun i => decide (i < 2)) fun i => if i = 0 then score else ord
        .ok { slot := z.emit 0 [{ out with lr := true, ls := ls }], ends := absorbed }

/-- A segment token must be taken before the next row, by the registers in force (R154). -/
def Slot.needsSegment (x : Slot) : Bool := !x.op.inRow && x.segmented && !x.op.seg

/-- The end token waits on the parameter input. -/
def Slot.endWaits (x : Slot) : Bool :=
  match x.par with
  | t :: _ => t.kind == .param && t.ls && !t.lr
  | [] => false

/-- Before a row of in0: the boundary applies the writes that are due (R147), and then, where the registers now say
TAGMODE 10, the segment token is taken. The error is a reason; none while the token has not come. -/
def scoreOpen (x : Slot) : Except Nat (Option Fire) :=
  if x.op.inRow then .ok (some { slot := x })
  else match x.boundary with
  | .error n => .error n
  | .ok y =>
    if !y.needsSegment then .ok (some { slot := y.popKills })
    else match scoreSegment y with
    | .error n => .error n
    | .ok o => .ok (if o.slot.op.ended || o.slot.op.seg then some { o with slot := o.slot.popKills } else none)

/-- SCORE_FIRE; a BUBBLE resets the row in progress, whose issued tag then ends (R146, R175). Without a token on in0
the end token ends the stream, and a segment token that stands before a marker is taken. -/
def scoreFire (t sl : Nat) (s : State) (r : Nat) (x : Slot) : Except Nat (State × Fire) :=
  if x.op.ended then .ok (s, { slot := x.popKills })
  else match x.inQ 0 with
  | [] =>
    if x.needsSegment && x.endWaits then (scoreSegment x).map fun o => (s, o)
    else .ok (s, { slot := if x.op.inRow then x else x.popKills })
  | h :: rest =>
    if h.kind = .mark then
      if x.needsSegment then (scoreSegment x).map fun o => (s, o) else .ok (s, { slot := x })
    else if h.kind = .param then .error 3
    else match scoreOpen x with
    | .error n => .error n
    | .ok none => .ok (s, { slot := x })
    | .ok (some o) =>
      let y := o.slot
      if y.op.ended then .ok (s, o) else
      if h.kind = .bubble then
        let mode := pbits (y.reg 0) 16 2
        let left : List Token := if y.op.inRow && mode ≠ 0 then [{ tag := y.op.rowTag, own := true, lr := true }] else []
        let z := { y.setIn 0 rest with op := { y.op with inRow := false, elem := 0, sum := .fin false 0 0 } }
        if y.segmented && h.ls then
          .ok (s, {
            slot := { z with op := { z.op with seg := false } }.emit 0 [{ h with ls := z.op.segLs }], ends := left })
        else .ok (s, { slot := z.emit 0 [h], ends := left })
      else if !hasFmt (fmtOf (pbits (y.reg 0) 0 5)) h then .error 1
      else if y.op.inRow then (scoreToken s t y h rest).map fun o => (s, o)
      else match scoreStart s r t sl y h with
      | .error n => .error n
      | .ok none => .ok (s, { slot := x.popKills })
      | .ok (some (s1, z)) => (scoreToken s1 t z h rest).map fun o => (s1, o)
def execScoreFire (t sl : Nat) (s : State) : Out := s.fire t sl 2 (scoreFire t sl)

/-! ### BOUND (R155, R170) -/

/-- A parameter token: selector and value in lanes 0 to 2 (R130, R147). -/
def paramToken (sel : Nat) (a b : BitVec 32) (lr ls : Bool) : Token :=
  { Token.fresh .bits (fun i => decide (i < 3))
      (fun i => if i = 0 then BitVec.ofNat 32 sel else if i = 1 then a else b) with kind := .param, lr := lr, ls := ls }

/-- thr_up = (thr - b) / a, each step rounded down. -/
def thrUp (a b thr : BitVec 32) : BitVec 32 :=
  match fp32 (toFp32 ((fp32 thr).add (fp32 b).neg .rdn).1 .rdn), fp32 a with
  | .fin s m e, .fin _ n q => BitVec.ofNat 32 (f32.round s m n (e - q) .rdn false).1
  | v, _ => toFp32 v .rdn
/-- A bound strictly below thr_up; a NaN bound is not. -/
def boundBelow (bound thr : BitVec 32) : Bool :=
  !(fp32 bound).isNaN && !(fp32 thr).isNaN && (fp32 bound).lt (fp32 thr)

/-- The one PARAM that ends each enabled output. -/
def boundEnd (x : Slot) : Slot := (x.emit 0 [paramToken 0 0 0 false true]).emit 1 [paramToken 0 0 0 false true]

/-- An admitted header goes out once its tags are free: toks holds it, elem its first tag. A run of which a KILL has
named a tag meanwhile is given up, and the search goes on from it (R174, R175). An entry of the history that meets the
tags that are issued now leaves it: its rows have ended, and a KILL of it would name rows of the new block, which R172
and R179 exclude (log entry 90). -/
def boundAdmit (t sl : Nat) (s : State) (r : Nat) (x : Slot) : Except Nat (State × Fire) :=
  match x.op.toks, s.region r with
  | h :: _, some y =>
    let n := (laneOf h.lanes 3).toNat
    let first := x.op.elem
    if (topKilled y.tagKilled first n).isSome then
      match (y.advance t sl first).run t sl n with
      | none => .error 4
      | some f => .ok (s.updRegion r fun q => q.advance t sl (f + n), { slot := { x with op := { x.op with elem := f } } })
    else if !y.runFree first n then .ok (s, { slot := x })
    else
      let ext := pbits (x.reg 2) 0 3
      let base := (laneOf h.lanes 2).setWidth 16
      let pre := if ext = 0 then [] else [paramToken ext (laneOf h.lanes 3) 0 false false]
      let row : Row := { bits := (laneOf h.lanes 0).toNat, lo := first, hi := first + n - 1 }
      let hist := (x.op.rows.filter fun q => decide (q.hi < first) || decide (first + n ≤ q.lo)) ++ [row]
      let x1 := { x with op := { x.op with toks := [], rows := hist.drop (hist.length - 16) } }
      let x2 := x1.emit 0 (pre ++ [paramToken 0 (laneOf h.lanes 1) (base.setWidth 32) true h.ls])
      let x3 := x2.emit 1 [paramToken 3 (BitVec.ofNat 32 first) (laneOf h.lanes 4) true h.ls]
      .ok (s.updRegion r fun y => y.issue first n, { slot := x3, ends := [h] })
  | _, _ => .ok (s, { slot := x })

/-- BOUND_HEADER. A BUBBLE stands for no block: the writes that are due wait for the next header (R155). -/
def boundHeader (t sl : Nat) (s : State) (r : Nat) (x : Slot) : Except Nat (State × Fire) :=
  if !x.op.toks.isEmpty then boundAdmit t sl s r x
  else match x.inQ 0 with
  | [] => .ok (s, { slot := x })
  | h :: rest =>
    if h.kind = .mark then .ok (s, { slot := x })
    else if h.kind = .param then .error 3
    else if h.kind = .bubble then
      let z := x.setIn 0 rest
      .ok (s, { slot := if h.ls then boundEnd z else z, ends := [h] })
    else match x.boundary with
    | .error n => .error n
    | .ok y =>
      let z := y.setIn 0 rest
      if !hasFmt .bits h then .error 1
      else
        let n := (laneOf h.lanes 3).toNat
        if !h.ok 3 || n = 0 || 4096 < n then .error 4
        else match (s.region r).bind fun q => q.run t sl n with
        | none => .error 4
        | some first =>
          let s1 := s.updRegion r fun q => q.advance t sl (first + n)
          if boundBelow (laneOf h.lanes 0) (thrUp (z.reg 0) (z.reg 1) z.ctl.score) then
            .ok (s1, { slot := if h.ls then boundEnd z else z, ends := [h] })
          else (boundAdmit t sl s1 r { z with op := { z.op with toks := [h], elem := first } })
def execBoundHeader (t sl : Nat) (s : State) : Out := s.fire t sl 3 (boundHeader t sl)

/-- The pair that a register starts a bout with (R167). -/
def lowPair : BitVec 32 × BitVec 12 := (0xFF800000, 0)
/-- The pair kept in last 0: the register as BOUND last saw it, TOPK's threshold. -/
def OpState.pair (x : OpState) : BitVec 32 × BitVec 12 := x.last[0].getD lowPair
def OpState.setPair (x : OpState) (p : BitVec 32 × BitVec 12) : OpState := { x with last := x.last.set 0 (some p) }

/-- BOUND_THRESH_RISE: entries of the history below the new thr_up are killed and dropped. -/
def boundRise (x : Slot) : Fire :=
  let up := thrUp (x.reg 0) (x.reg 1) x.ctl.score
  let gone (q : Row) : Bool := boundBelow (BitVec.ofNat 32 q.bits) up
  { slot := { x with op := { x.op.setPair (x.ctl.score, x.ctl.tag) with rows := x.op.rows.filter fun q => !gone q } }
    ctl := (x.op.rows.filter gone).map fun q => (true, 0, BitVec.ofNat 12 q.lo, BitVec.ofNat 12 q.hi) }
def execBoundThreshRise (t sl : Nat) (s : State) : Out :=
  match s.firing t with
  | none => .next s
  | some r =>
    let x := (s.tileAt t).fab.slot sl
    if sl < 4 && x.on && !x.stopped && slotKind x.frame = 3 && slotCin x.frame && (x.ctl.score, x.ctl.tag) ≠ x.op.pair then
      .next (s.commitFire r t sl (boundRise x))
    else .next s

/-! ### TOPK (R156, R167) -/

/-- The pair of a row's first token (R165). -/
def rankPair (t : Token) : BitVec 32 × BitVec 12 := (if t.ok 0 then laneOf t.lanes 0 else 0x7FC00000, t.tag)
def pairAbove (a b : BitVec 32 × BitVec 12) : Bool := ranksAbove a.1 a.2 b.1 b.2

/-- A row enters the list in rank order. -/
def insertRanked (x : Row) : List Row → List Row
  | [] => [x]
  | y :: l => if pairAbove (rankPair x.tok) (rankPair y.tok) then x :: y :: l else y :: insertRanked x l

/-- A row is offered: the list, the rows it loses, and a THRESH when the threshold changes. -/
def topkOffer (x : Slot) (h : Token) : Fire :=
  let k := (x.reg 0).toNat
  let th := x.op.pair
  if pairAbove (rankPair h) th then
    let l := insertRanked { tok := h } x.op.rows
    let kept := l.take k
    let new := if kept.length = k then (match kept.getLast? with
      | some q => rankPair q.tok
      | none => lowPair) else lowPair
    { slot := { x with op := { x.op.setPair new with rows := kept, dropRow := false } }
      ends := (l.drop k).map Row.tok
      ctl := if new = th then [] else [(false, new.1, new.2, 0)] }
  else { slot := { x with op := { x.op with dropRow := true } } }

/-- The list leaves in rank order. -/
def topkEmit (o : Fire) : Fire :=
  let l := o.slot.op.rows.map Row.tok
  let out := (List.range l.length).map fun i => { l.getD i {} with lr := true, ls := i + 1 = l.length, own := false }
  let x := { o.slot with op := { o.slot.op with rows := [], ended := true, phase := 0 } }
  { o with slot := x.emit 0 (if l.isEmpty then [bubble {} true] else out), ends := o.ends ++ l }

/-- TOPK_FIRE: phase 1 tells that the stream has begun. -/
def topkFire (x : Slot) : Except Nat Fire :=
  match x.inQ 0 with
  | [] => .ok { slot := x }
  | h :: rest =>
    if h.kind = .mark then .ok { slot := x }
    else if h.kind = .param then .error 3
    else if h.kind = .data && x.op.ended then .error 7
    else match (if x.op.phase = 0 then x.boundary else .ok x) with
    | .error n => .error n
    | .ok y =>
      let z := { y.setIn 0 rest with op := { y.op with phase := 1, inRow := !h.lr } }
      let o : Fire :=
        if h.kind = .bubble then { slot := z, ends := [h] }
        else if !y.op.inRow then topkOffer z h
        else { slot := z }
      let o := if h.kind = .data && h.lr && o.slot.op.dropRow then { o with ends := o.ends ++ [h] } else o
      .ok (if h.ls && !y.op.ended then topkEmit o else o)
def execTopkFire (t sl : Nat) (s : State) : Out := s.fire t sl 4 (pureFire topkFire)

/-! ### MERGE (R157) -/

/-- Input i has ended: bit 4 + i of phase. Bit 0 says that the stream is closed, bit 1 that an LS has left. -/
def mergeEnded (x : OpState) (i : Nat) : Bool := x.phase.testBit (4 + i)

/-- One token of the row that moves, from input elem - 1; dropRow says that it is not emitted. -/
def mergeMove (x : Slot) : Except Nat Fire :=
  let i := x.op.elem - 1
  match x.inQ i with
  | [] => .ok { slot := x }
  | h :: rest =>
    if h.kind = .mark then .ok { slot := x }
    else if h.kind = .param then .error 3
    else
      let ph := if h.lr && h.ls then x.op.phase ||| 2 ^ (4 + i) else x.op.phase
      let z := { x.setIn i rest with op := { x.op with
        phase := ph, inRow := !h.lr, elem := if h.lr then 0 else x.op.elem } }
      if x.op.dropRow then .ok { slot := z, ends := if h.lr then [h] else [] }
      else if !h.lr then .ok { slot := z.emit 0 [{ h with ls := false }] }
      else
        let n := x.op.count + 1
        let last := (x.inputs.all fun j => mergeEnded z.op j) || n = (x.reg 0).toNat
        let z := { z with op := { z.op with count := n, phase := if last then z.op.phase ||| 3 else z.op.phase } }
        .ok { slot := z.emit 0 [{ h with ls := last }] }

/-- The best head, the lowest input on equal pairs. -/
def mergeBest (x : Slot) : List Nat → Option (Nat × (BitVec 32 × BitVec 12))
  | [] => none
  | i :: l =>
    let p := rankPair ((x.inQ i).headD {})
    match mergeBest x l with
    | some q => if pairAbove q.2 p then some q else some (i, p)
    | none => some (i, p)

/-- A row begins to move. -/
def mergeStart (x : Slot) (i : Nat) (keep : Bool) : Except Nat Fire :=
  let h := (x.inQ i).headD {}
  let p := rankPair h
  if h.kind = .data && (x.op.last[i]?.getD none).any fun q => pairAbove p q then .error 6
  else mergeMove { x with op := { x.op with
    elem := i + 1, dropRow := !keep, last := if h.kind = .data then x.op.last.setIfInBounds i (some p) else x.op.last } }

/-- MERGE_FIRE: seg tells that the stream has begun. -/
def mergeFire (x : Slot) : Except Nat Fire :=
  if x.op.elem ≠ 0 then mergeMove x
  else
    let live := x.inputs.filter fun i => !mergeEnded x.op i
    let head i := (x.inQ i).headD { kind := .mark }
    let ready i := (head i).kind != .mark
    if !x.op.seg && !live.any ready then .ok { slot := x.popKills }
    else match (if x.op.seg then .ok x else x.boundary) with
    | .error n => .error n
    | .ok y =>
      let y := { y with op := { y.op with seg := true } }.popKills
      if live.isEmpty then
        let z := { y with op := { ({} : OpState) with killed := y.op.killed } }
        .ok { slot := if y.op.phase.testBit 1 then z else z.emit 0 [bubble {} true] }
      else if live.any fun i => (head i).kind == .param then .error 3
      else match live.find? fun i => ready i &&
          (y.op.phase.testBit 0 || (head i).kind == .bubble || y.isKilled (head i).tag) with
      | some i => mergeStart y i false
      | none =>
        if !live.all ready then .ok { slot := y }
        else match mergeBest y live with
        | some q => mergeStart y q.1 true
        | none => .ok { slot := y }
def execMergeFire (t sl : Nat) (s : State) : Out := s.fire t sl 5 (pureFire mergeFire)

/-! ### JOIN (R158) -/

/-- The key of a row; none for an invalid key lane. -/
def joinKey (p0 : BitVec 32) (t : Token) : Option (BitVec 32) :=
  let k := pbits p0 2 4
  if p0.getLsbD 6 then some (t.tag.setWidth 32) else if t.ok k then some (laneOf t.lanes k) else none

/-- A stored row has a key. -/
def joinHit (p0 : BitVec 32) (l : List Row) (k : Option (BitVec 32)) : Option Nat :=
  match k with
  | none => none
  | some k => l.findIdx? fun q => joinKey p0 q.tok == some k

/-- JOIN_BUILD: in0 up to its LS. Phase 0 is the build, 1 the probe, 2 after both; fresh tells that a stream begins. -/
def joinBuild (x : Slot) : Except Nat Fire :=
  match x.inQ 0 with
  | [] => .ok { slot := if x.op.inRow then x else x.popKills }
  | h :: rest =>
    if h.kind = .mark then .ok { slot := x }
    else if h.kind = .param then .error 3
    else if x.op.phase ≠ 0 then
      (if h.kind = .data then .error 7 else .ok { slot := x.setIn 0 rest, ends := [h] })
    else match (if x.op.fresh then x.boundary else .ok x) with
    | .error n => .error n
    | .ok y =>
      let first := !y.op.inRow
      let y := if first then y.popKills else y
      let k := joinKey (y.reg 0) h
      let store := first && h.kind == .data && !y.isKilled h.tag && k.isSome && (joinHit (y.reg 0) y.op.rows k).isNone
      if store && 4096 ≤ y.op.rows.length then .error 5
      else
        let drop := if first then !store else y.op.dropRow
        let z := { y.setIn 0 rest with op := { y.op with
          fresh := h.ls, phase := if h.ls then 1 else 0, inRow := !h.lr, dropRow := drop
          rows := if store then y.op.rows ++ [{ tok := h }] else y.op.rows } }
        .ok { slot := z, ends := if h.lr && drop then [h] else [] }
def execJoinBuild (t sl : Nat) (s : State) : Out := s.fire t sl 6 (pureFire joinBuild)

/-- A token for out0: the last token of each row waits until it is known whether more follow. -/
def joinOut (x : Slot) (h : Token) : Slot :=
  let t := { h with ls := false }
  { x with op := { x.op with toks := if h.lr then [t] else [] } }.emit 0 (x.op.toks ++ if h.lr then [] else [t])

/-- LS on the last token of a list, or one BUBBLE. -/
def closeRows (l : List Token) : List Token :=
  match l.reverse with
  | [] => [bubble {} true]
  | t :: r => r.reverse ++ [{ t with ls := true }]

/-- The probe stream has ended: union emits the rows that no probe matched, both outputs end, the table is empty. -/
def joinEnd (o : Fire) : Fire :=
  let x := o.slot
  let union := pbits (x.reg 0) 0 2 = 1
  let left := if union then (x.op.rows.filter fun q => !q.done).map Row.tok else []
  let gone := (x.op.rows.filter fun q => !union || q.done).map Row.tok
  let out0 := closeRows (x.op.toks ++ left.map fun t => { t with lr := true, ls := false })
  let z := { x with op := { x.op with toks := [], exps := none, rows := [], phase := 2, fresh := true } }
  { o with slot := (z.emit 0 out0).emit 1 (closeRows x.op.exps.toList), ends := o.ends ++ gone }

/-- JOIN_PROBE: in1 after the build. -/
def joinProbe (x : Slot) : Except Nat Fire :=
  match x.inQ 1 with
  | [] => .ok { slot := if x.op.inRow then x else x.popKills }
  | h :: rest =>
    if h.kind = .mark || x.op.phase = 0 then .ok { slot := x }
    else if h.kind = .param then .error 3
    else if x.op.phase = 2 then
      (if h.kind = .data then .error 7 else .ok { slot := x.setIn 1 rest, ends := [h] })
    else match (if x.op.fresh then x.boundary else .ok x) with
    | .error n => .error n
    | .ok y =>
      let first := !y.op.inRow
      let y := if first then y.popKills else y
      let z := { y.setIn 1 rest with op := { y.op with fresh := false, inRow := !h.lr } }
      let finish (o : Fire) : Fire := if h.ls then joinEnd o else o
      if h.kind = .bubble then .ok (finish { slot := z, ends := [h] })
      else if !first then
        .ok (finish (if y.op.dropRow then { slot := z, ends := if h.lr then [h] else [] } else { slot := joinOut z h }))
      else
        let mode := pbits (y.reg 0) 0 2
        let hit := if y.isKilled h.tag then none else joinHit (y.reg 0) y.op.rows (joinKey (y.reg 0) h)
        let emit := !y.isKilled h.tag && (if mode = 0 then hit.isSome else if mode = 1 then true else hit.isNone)
        let rows := match hit with
          | some i => y.op.rows.modify i fun q => { q with done := true }
          | none => y.op.rows
        let z := { z with op := { z.op with dropRow := !emit, rows := rows } }
        if !emit then .ok (finish { slot := z, ends := if h.lr then [h] else [] })
        else
          let stored : Option Token := if mode = 0 && slotOut z.frame 1 then
            (match hit with
             | some i => (y.op.rows[i]?).map Row.tok
             | none => none) else none
          match stored with
          | some t =>
            let z := { z.emit 1 z.op.exps.toList with op := { z.op with exps := some { t with lr := true, ls := false } } }
            .ok (finish { slot := joinOut z h, more := [t] })
          | none => .ok (finish { slot := joinOut z h })
def execJoinProbe (t sl : Nat) (s : State) : Out := s.fire t sl 6 (pureFire joinProbe)

end Sys2Proof.Machine
end

