-- ==== Sys2Proof/Machine/Units.lean ====
section
/-!
DEFINITION. Address generators (R128 to R130), memory units (R125 to R127), the GATHER operator (R160), and flush
markers at elements (R379).
-/
namespace Sys2Proof.Machine

/-! ### Address generators -/

/-- FABRIC from a generator. -/
def State.agFault (s : State) (t a reason : Nat) : State := s.fabricFault t 3 a 0 reason

/-- AG_PARAM_ARRIVE. -/
def execAgParamArrive (t a : Nat) (s : State) : Out :=
  let x := (s.tileAt t).fab.ag a
  match s.firing t, x.par with
  | some _, tok :: r =>
    if 2 ≤ a || !x.on || x.stopped || tok.kind = .mark || x.armed.isSome then .next s
    else match agBad x tok with
    | some n => .next (s.agFault t a n)
    | none => .next (s.updFab t fun f => f.updAg a fun y => ({ y with par := r } : AddrGen).takeParam tok)
  | _, _ => .next s

/-- A round may start. -/
def AddrGen.mayStart (x : AddrGen) : Bool :=
  !x.running && !x.ended && (if agMode x.f0 = 2 then x.armed.isSome else true)

/-- A round starts with the values due by now; in mode 00 with those of the frame (R129, R130). -/
def AddrGen.start (x : AddrGen) : AddrGen :=
  let y := x.due.foldl (fun y w => y.put w.1 w.2) x
  { y with
    due := [], running := true, ix := Vector.replicate 4 0
    curBase := if agMode x.f0 = 0 then agBase x.f0 else y.base
    curExt := if agMode x.f0 = 0 then Vector.ofFn fun (d : Fin 4) => agExt x.f0 x.f1 d else y.ext
    lastRound := (match agMode x.f0 with
      | 0 => true
      | 1 => x.rounds + 1 = agRounds x.f1
      | _ => x.armed.getD false)
    armed := none }

/-- Extent of dimension d of the round; 1 beyond the nest. -/
def AddrGen.extent (x : AddrGen) (d : Nat) : Nat := if d < agDims x.f0 then (x.curExt[d]?.getD 0).toNat else 1
def AddrGen.index (x : AddrGen) (d : Nat) : Nat := x.ix[d]?.getD 0

/-- The address of the current point. -/
def AddrGen.point (x : AddrGen) : Word :=
  (List.range (agDims x.f0)).foldl (fun v d =>
    v + w64 (x.index d) * (agStride x.f0 x.f1 d).signExtend 64) (x.curBase.setWidth 64)

/-- Dimension d and those inside it stand at their last point. -/
def AddrGen.atEnd (x : AddrGen) : Nat → Bool
  | 0 => true
  | d + 1 => x.atEnd d && x.index d + 1 == x.extent d

/-- The indices after the current point, from dimension d on. -/
def AddrGen.stepIx (x : AddrGen) (v : Vector Nat 4) (d : Nat) : Nat → Vector Nat 4
  | 0 => v
  | n + 1 =>
    if x.index d + 1 < x.extent d then v.setIfInBounds d (x.index d + 1)
    else x.stepIx (v.setIfInBounds d 0) (d + 1) n

/-- A running generator emits one token. -/
def AddrGen.emit (x : AddrGen) : AddrGen :=
  let finish (y : AddrGen) : AddrGen := { y with running := false, rounds := y.rounds + 1, ended := y.ended || y.lastRound }
  if (List.range (agDims x.f0)).any fun d => x.extent d == 0 then finish { x with out := x.out ++ [bubble {} true] }
  else
    let p := x.point
    let last := x.atEnd (agDims x.f0)
    let tok : Token := { Token.fresh .bits (fun i => decide (i < 2)) (fun i => p.extractLsb' (32 * i) 32) with
      lr := x.atEnd 1, ls := last }
    let y := { x with out := x.out ++ [tok], ix := x.stepIx x.ix 0 (agDims x.f0) }
    if last then finish y else y

/-- AG_POINT: a round starts when none runs, and one address token goes out. -/
def execAgPoint (t a : Nat) (s : State) : Out :=
  let x := (s.tileAt t).fab.ag a
  match s.firing t with
  | none => .next s
  | some r =>
    if 2 ≤ a || !x.on || x.stopped || !x.out.isEmpty || (s.region r).any (fun q => q.marked) ||
        !(x.running || x.mayStart) then .next s
    else .next (s.updFab t fun f => f.updAg a fun y => (if y.running then y else y.start).emit)

/-! ### Accesses of the fabric (R126, R127) -/

/-- The checks of an access of a unit; tasks of a region run in U, and so do its units. -/
def State.unitCheck (s : State) (t vd : Nat) (u : Use) (va : Word) (n align : Nat) : Checked :=
  match localOff va with
  | some off =>
    if va.toNat % align ≠ 0 then .fault cMisaligned
    else match s.area t off with
    | .store => if Config.tileStore < off + n then .fault cPermission else .ok ⟨localPa t off, 1, 3, 0, va.toNat, 1⟩ s
    | .regs => .fault cMisaligned
    | _ => .fault cPermission
  | none => s.check ⟨t, vd, true, false⟩ .u u va n align true false

/-- The checks of parts in their order. -/
def State.unitParts (s : State) (t vd : Nat) (u : Use) (align : Nat) :
    List (Word × Nat × Nat) → Except Halt (List (Spot × Word × Nat × Nat) × State)
  | [] => .ok ([], s)
  | (va, n, o) :: r =>
    match s.unitCheck t vd u va n align with
    | .fault e => .error (.trap e va)
    | .wait => .error .wait
    | .ok p s =>
      match s.unitParts t vd u align r with
      | .error e => .error e
      | .ok (l, s) => .ok ((p, va, n, o) :: l, s)

/-- An access of the fabric of tile t. -/
def fabAccess (x : Region) (p : Party) (t : Nat) (r : Nat) (kind : AccKind) (va : Word) (q : Spot) (n : Nat) (o : Ord)
    (sp : Scope) : Access :=
  { id := 0, party := p, vd := x.vd, gen := x.gen, region := some r, kind := kind, va := va, pa := q.pa, size := n
    ord := o, scope := sp, page := q.ord, win := q.win, cls := BitVec.ofNat 2 x.aged
    needs := wheelPath t q.pa }

/-- Checked parts enter the order buffer as loads, or as stores of a string of bits under a mask. -/
def State.enterParts (s : State) (a : Spot → Word → Nat → Access) (data mask : Nat) :
    List (Spot × Word × Nat × Nat) → State
  | [] => s
  | (p, va, n, off) :: r =>
    (s.enterAccess { a p va n with
      data := BitVec.ofNat 512 (data / 2 ^ (8 * off) % 2 ^ (8 * n))
      mask := BitVec.ofNat 512 (mask / 2 ^ (8 * off) % 2 ^ (8 * n)) }).enterParts a data mask r

/-! ### Memory units (R125, R127) -/

/-- The tokens of a wait input ahead of a MARK: they are consumed as they come. -/
def MemUnit.waiting (x : MemUnit) (i : Nat) : List Token :=
  if muWait x.frame i then (x.wait[i]?.getD []).takeWhile fun (t : Token) => t.kind != .mark else []
/-- They are consumed; each counts as a credit (R127). -/
def MemUnit.takeWait (x : MemUnit) (i : Nat) : MemUnit :=
  if !muWait x.frame i then x
  else
    let q := x.wait[i]?.getD []
    let rest := q.dropWhile fun (t : Token) => t.kind != .mark
    { x with
      wait := x.wait.setIfInBounds i rest
      cred := x.cred.setIfInBounds i (x.cred[i]?.getD 0 + (q.length - rest.length)) }
def MemUnit.takeWaits (x : MemUnit) : MemUnit := (x.takeWait 0).takeWait 1
/-- The unit may begin its next access: each enabled wait input has a credit left. -/
def MemUnit.waitsOk (x : MemUnit) : Bool :=
  (List.range 2).all fun i => !muWait x.frame i || decide (0 < x.cred[i]?.getD 0)
/-- The access uses one credit of each. -/
def MemUnit.useWaits (x : MemUnit) : MemUnit :=
  (List.range 2).foldl (fun (y : MemUnit) (i : Nat) =>
    if muWait y.frame i then { y with cred := y.cred.setIfInBounds i (y.cred[i]?.getD 0 - 1) } else y) x

/-- ORD of a unit's accesses. -/
def muOrder (f : BitVec 256) : Ord := if muOrd f = 1 then .acq else if muOrd f = 2 then .rel else .plain

/-- FABRIC from a unit. -/
def State.muFault (s : State) (t u reason : Nat) : State := s.fabricFault t 1 u 0 reason

/-- The address of a token: lanes 0 and 1. -/
def Token.address (t : Token) : Word := t.lanes.setWidth 64

/-- A token in the 128 bytes of R46, reserved bytes 0. -/
def tokenBytes (t : Token) : Nat := t.lanes.toNat + t.meta.toNat * 2 ^ 512

/-- A unit's access: parts in memory, the token that its completion answers, the rows that end with its reply. -/
def State.muIssue (s : State) (t u r : Nat) (x : Region) (y : MemUnit) (kind : AccKind) (tok : Token)
    (rows : List Token) (data mask : Nat) (ps : List (Spot × Word × Nat × Nat)) : State :=
  let ids := pendParts s.nextId ps
  let s1 := s.updFab t fun f => f.updMu u fun _ => { y.useWaits with busy := y.busy ++ [(ids, tok, 0, rows)] }
  s1.enterParts (fun p va n => fabAccess x (.unit t u) t r kind va p n (muOrder y.frame) (muScope y.frame)) data mask ps

/-- A load unit on its address token. -/
def State.muLoad (s : State) (t u r : Nat) (x : Region) (y : MemUnit) (a : Token) : State :=
  let z := { y with addr := y.addr.drop 1 }
  if a.kind = .param then s.muFault t u 3
  else if a.kind = .bubble then s.updFab t fun f => f.updMu u fun _ => { z with busy := z.busy ++ [([], a, 0, [])] }
  else if !y.waitsOk then s
  else
    let fmt := fmtOf (muFmt y.frame)
    match s.unitParts t x.vd .read (elemBytes fmt) (blockParts 2 a.address (packedBytes fmt) 0) with
    | .error (.trap e va) => s.elemFault r e va
    | .error .wait => s
    | .ok (ps, s1) => s1.muIssue t u r x z .load a [] 0 0 ps

/-- A store unit on an address token and a data token. What the spec does not say of a BUBBLE on the data input beside a
DATA address: it is no token of the wrong FMT, and the access stores no byte (log entry 91). The tags of the rows end with
the reply (R175). -/
def State.muStore (s : State) (t u r : Nat) (x : Region) (y : MemUnit) (a d : Token) : State :=
  let z := { y with addr := y.addr.drop 1, data := y.data.drop 1 }
  let fmt := fmtOf (muFmt y.frame)
  let rows := [a, d].filter Token.lr
  if a.kind = .param then s.muFault t u 3
  else if a.kind = .bubble then (s.updFab t fun f => f.updMu u fun _ => z).tagEnds r rows
  else if d.kind = .param then s.muFault t u 3
  else if !hasFmt fmt d then s.muFault t u 11
  else if !y.waitsOk then s
  else match s.unitParts t x.vd .write (elemBytes fmt) (blockParts 2 a.address (packedBytes fmt) 0) with
  | .error (.trap e va) => s.elemFault r e va
  | .error .wait => s
  | .ok (ps, s1) => s1.muIssue t u r x z .store a rows (packBits d fmt 16) (packMask d fmt 16) ps

/-- A done token (R127). -/
def doneToken (a : Token) : Token := { fmt := Fmt.bits.tag, lr := a.lr, ls := a.ls }

/-- The place of slot i of a unit's window, in two blocks. -/
def windowParts (t : Nat) (f : BitVec 256) (i : Nat) : List (Spot × Word × Nat × Nat) :=
  (List.range 2).map fun k =>
    let off := muOff f + 128 * i + 64 * k
    (⟨windowPa t + off, 1, 3, 0, (storeVa off).toNat, 1⟩, storeVa off, 64, 64 * k)

/-- A spill unit on a token; LR and LS of its done token are those of the token that it spills (log entry 91). -/
def State.muSpill (s : State) (t u r : Nat) (x : Region) (y : MemUnit) (d : Token) : State :=
  if !y.waitsOk then s
  else if muSize y.frame ≤ y.next then s.muFault t u 11
  else
    s.muIssue t u r x { y with data := y.data.drop 1, next := y.next + 1 } .store d ([d].filter Token.lr) (tokenBytes d)
      (fullMask 128) (windowParts t y.frame y.next)

/-- A FIFO unit: the head of its input enters the window, and the oldest token of the window leaves, with a done token
where that output is enabled (log entry 84). It uses a credit of its wait inputs as the token enters (log entry 91). -/
def State.muFifo (s : State) (t u : Nat) (y : MemUnit) : State :=
  let n := muSize y.frame
  let out (y : MemUnit) : MemUnit :=
    match y.held, y.out, y.done with
    | h :: r, [], [] => { y with held := r, out := [h], done := if muDoneOn y.frame then [doneToken h] else [] }
    | _, _, _ => y
  match y.data with
  | d :: rest =>
    if d.kind = .mark || !y.waitsOk || (if n = 0 then !y.out.isEmpty || !y.done.isEmpty else decide (n ≤ y.held.length)) then
      s.updFab t fun f => f.updMu u fun _ => out y
    else
      let z := { ({ y with data := rest } : MemUnit).useWaits with held := y.held ++ [d], next := y.next + 1 }
      let s1 := s.updFab t fun f => f.updMu u fun _ => out z
      if n = 0 then s1
      else s1.commit (windowPa t + muOff y.frame + 128 * (y.next % n)) 128 (tokenBytes d) (fullMask 128)
  | [] => s.updFab t fun f => f.updMu u fun _ => out y

/-- MU_ACCESS. -/
def execMuAccess (t u : Nat) (s : State) : Out :=
  match s.firing t with
  | none => .next s
  | some r =>
    match s.region r with
    | none => .next s
    | some x =>
      let y0 := (s.tileAt t).fab.mu u
      let y := y0.takeWaits
      let no (l : List Token) : Bool := match l with
        | t :: _ => t.kind == .mark
        | [] => true
      if 4 ≤ u || !y.on || y.stopped then .next s
      else
      let s := (s.updFab t fun f => f.updMu u fun _ => y).tagEnds r ((y0.waiting 0 ++ y0.waiting 1).filter Token.lr)
      match muMode y.frame with
      | 1 => .next (s.muFifo t u y)
      | 2 => .next (if no y.addr then s else s.muLoad t u r x y (y.addr.headD {}))
      | 3 => .next (if no y.addr || no y.data then s else s.muStore t u r x y (y.addr.headD {}) (y.data.headD {}))
      | 4 => .next (if no y.data then s else s.muSpill t u r x y (y.data.headD {}))
      | _ => .next s

/-- The token that a load emits. -/
def loadToken (f : BitVec 256) (a : Token) (v : BitVec 512) : Token :=
  { unpackToken (fmtOf (muFmt f)) v with tag := a.tag, lr := a.lr, ls := a.ls, own := a.own }

/-- The oldest access of a unit is complete: its tokens go out. -/
def MemUnit.complete (y : MemUnit) : MemUnit :=
  match y.busy with
  | ([], a, v, _) :: r =>
    let load := muMode y.frame == 2
    if !y.out.isEmpty || !y.done.isEmpty then y
    else if a.kind = .bubble && load then { y with busy := r, out := [a] }
    else { y with
      busy := r
      out := if load then [loadToken y.frame a v] else y.out
      done := if muDoneOn y.frame then [doneToken a] else y.done }
  | _ => y
/-- MU_DONE. -/
def execMuDone (t u : Nat) (s : State) : Out :=
  s.event (decide (u < 4) && (s.firing t).isSome && !((s.tileAt t).fab.mu u).stopped)
    (s.updFab t fun f => f.updMu u MemUnit.complete)

/-- A reply reaches the unit that waits for it: it answers the access and every store that was merged into it. -/
def MemUnit.reply (y : MemUnit) (a : Access) : MemUnit :=
  { y with busy := y.busy.map fun b =>
      match b.1.find? fun q => a.answersFor q.1 with
      | some (_, o) => (b.1.filter fun q => !a.answersFor q.1, b.2.1,
          b.2.2.1 ||| ((a.val &&& (BitVec.allOnes 512 >>> (512 - 8 * a.size))) <<< o), b.2.2.2)
      | none => b }

/-- The accesses, from the oldest on, that have been answered: the rows that end with them (R175). -/
def MemUnit.retired (y : MemUnit) : List Token := (y.busy.takeWhile fun b => b.1.isEmpty).flatMap fun b => b.2.2.2
/-- Those rows have ended. -/
def MemUnit.retire (y : MemUnit) : MemUnit :=
  let n := (y.busy.takeWhile fun b => b.1.isEmpty).length
  { y with busy := (y.busy.take n).map (fun b => (b.1, b.2.1, b.2.2.1, [])) ++ y.busy.drop n }

/-- The reply of access a to unit u of tile t: the tags of the rows whose requests have retired are given up (R175). -/
def State.unitReply (s : State) (t u : Nat) (a : Access) : State :=
  let y := ((s.tileAt t).fab.mu u).reply a
  let s1 := s.updFab t fun f => f.updMu u fun _ => y.retire
  match a.region with
  | some r => s1.tagEnds r y.retired
  | none => s1

/-! ### GATHER (R160, R202) -/

/-- Fields of GATHER: bytes of a record, its base. -/
def gatherTokens (x : Slot) : Nat := pbits (x.reg 0) 6 5 + 1
def gatherFmt (x : Slot) : Fmt := fmtOf (pbits (x.reg 0) 1 5)
def gatherBase (x : Slot) : Word := ((x.reg 2).setWidth 16 ++ x.reg 1).setWidth 64

/-- Kills reach rows in flight: one whose record is back goes at once, another keeps its tag until the reply. -/
def gatherKills (x : Slot) : Fire :=
  let y := x.popKills
  let hit (q : Row) : Bool := q.killed || y.isKilled q.tok.tag
  let gone := y.op.rows.filter fun q => hit q && q.ids.isEmpty
  let kept := (y.op.rows.filter fun q => !(hit q && q.ids.isEmpty)).map fun q => { q with killed := hit q }
  { slot := { y with op := { y.op with rows := kept } }, ends := gone.map Row.tok }

/-- The base translation, made at the first row (R160, R202). -/
def State.gatherPage (s : State) (t r vd : Nat) (x : Slot) : Except State (BasePage × State) :=
  let va := gatherBase x
  match x.op.base with
  | some b => .ok (b, s)
  | none =>
    match localOff va with
    | some off =>
      if off < Config.tileStore then
        .ok ({ page := Config.localBase, pa := localPa t 0, size := Config.tileStore, own := true }, s)
      else .error (s.elemFault r cPermission va)
    | none =>
      if !canonical va then .error (s.elemFault r cTranslation va)
      else match s.translate ⟨t, vd, true, false⟩ .read va with
      | .error (.fault e) => .error (s.elemFault r e va)
      | .error .wait => .error s
      | .ok (p, s1) =>
        .ok ({ page := p.page, pa := p.pa - (va.toNat % 2 ^ 48 - p.page), size := p.size, ord := p.ord, kind := p.kind
               win := p.win }, s1)

/-- The reads of a record through the base translation: the range and the window of each part's own granule are checked
(R183, R272). -/
def State.gatherParts (s : State) (r vd : Nat) (b : BasePage) :
    List (Word × Nat × Nat) → Except State (List (Spot × Word × Nat × Nat))
  | [] => .ok []
  | (va, n, o) :: l =>
    let pa := b.pa + (va.toNat - b.page)
    match (if b.own then none else s.physCheck vd b.kind b.win pa .read b.ord.toNat) with
    | some (.fault c) => .error (s.elemFault r c va)
    | some .wait => .error s
    | none =>
      match s.gatherParts r vd b l with
      | .error e => .error e
      | .ok m => .ok ((⟨pa, b.ord, b.kind, b.win, va.toNat, 1⟩, va, n, o) :: m)

/-- The accesses of a record of slot sl of tile t. -/
def gatherAccess (x : Region) (t sl r : Nat) (p : Spot) (va : Word) (n : Nat) : Access :=
  fabAccess x (.gather t sl) t r .load va p n .plain .tile

/-- A row whose request was dropped at a save asks for its record again, as LD would (R164). -/
def State.gatherAgain (s : State) (t sl r : Nat) (x : Region) (q : Row) : State × Row :=
  let n := q.lo * packedBytes (fmtOf (q.hi / 2))
  match s.unitParts t x.vd .read 1 (blockParts (n / 64 + 2) (w64 q.va) n 0) with
  | .error (.trap c va) => (s.elemFault r c va, q)
  | .error .wait => (s, q)
  | .ok (ps, s1) =>
    (s1.enterParts (gatherAccess x t sl r) 0 0 ps, { q with due := false, bits := 0, ids := pendParts s1.nextId ps })

/-- The first token of a row enters the buffer, with its record's reads; a row without an index as a BUBBLE, whose end
comes with the row's. -/
def gatherRow (t sl r : Nat) (x : Region) (s : State) (y : Slot) (h : Token) : Except State (State × Slot) :=
  let k := pbits (y.reg 0) 12 4
  if h.kind ≠ .data || !h.ok k then .ok (s, { y with op := { y.op with rows := y.op.rows ++ [{ tok := { bubble h h.ls with lr := h.lr } }] } })
  else match s.gatherPage t r x.vd y with
  | .error s1 => .error s1
  | .ok (b, s1) =>
    let i := (laneOf h.lanes k).toNat
    let n := gatherTokens y * packedBytes (gatherFmt y)
    let at_ := (gatherBase y).toNat + i * (y.reg 3).toNat
    if at_ < b.page || b.page + b.size < at_ + n then .error (s1.elemFault r cGatherBound (w64 i))
    else match s1.gatherParts r x.vd b (blockParts (n / 64 + 2) (w64 at_) n 0) with
    | .error s2 => .error s2
    | .ok ps =>
      let row : Row := { tok := h, ids := pendParts s1.nextId ps, lo := gatherTokens y, va := at_
                         hi := (gatherFmt y).tag.toNat * 2 + wbit ((y.reg 0).getLsbD 11) 0 }
      let s2 := s1.enterParts (gatherAccess x t sl r) 0 0 ps
      .ok (s2, { y with op := { y.op with rows := y.op.rows ++ [row], base := some b } })

/-- The end of a row in progress reaches the last row of the buffer. -/
def lastLs (l : List Row) (ls : Bool) : List Row :=
  match l.reverse with
  | [] => []
  | q :: r => r.reverse ++ [{ q with tok := { q.tok with lr := true, ls := ls } }]

/-- GATHER_REQUEST: a row to be asked for again comes first. -/
def gatherRequest (t sl : Nat) (s : State) (r : Nat) (x : Slot) : Except Nat (State × Fire) :=
  match x.op.rows.findIdx? Row.due, s.region r with
  | some k, some q =>
    let (s1, row) := s.gatherAgain t sl r q (x.op.rows[k]?.getD {})
    .ok (s1, { slot := { x with op := { x.op with rows := x.op.rows.set k row } } })
  | _, _ =>
  let pop := if x.op.inRow then { slot := x } else gatherKills x
  match x.inQ 0, s.region r with
  | h :: rest, some q =>
    if h.kind = .mark then .ok (s, { slot := x })
    else if h.kind = .param then .error 3
    else
      let y := pop.slot
      let take (y : Slot) (drop : Bool) : Slot :=
        { y.setIn 0 rest with op := { y.op with
            inRow := !h.lr, dropRow := drop, rows := if h.lr && !drop then lastLs y.op.rows h.ls else y.op.rows } }
      if x.op.inRow then
        .ok (s, { slot := take y y.op.dropRow, ends := if h.lr && y.op.dropRow then [h] else [] })
      else match y.boundary with
      | .error n => .error n
      | .ok z =>
        let z := if y.due.isEmpty then z else { z with op := { z.op with base := none } }
        if z.isKilled h.tag then .ok (s, { pop with slot := take z true, ends := pop.ends ++ if h.lr then [h] else [] })
        else if 64 ≤ (z.op.rows.filter fun q => !q.killed).length then .ok (s, { pop with slot := z })
        else match gatherRow t sl r q s z h with
        | .error s1 => .ok (s1, { slot := x })
        | .ok (s1, w) => .ok (s1, { pop with slot := take w false })
  | _, _ => .ok (s, pop)
def execGatherRequest (t sl : Nat) (s : State) : Out := s.fire t sl 8 (gatherRequest t sl)

/-- The tokens that a row of the buffer leaves as. -/
def gatherOut (q : Row) : List Token :=
  if q.tok.kind = .bubble then [q.tok]
  else
    let f := fmtOf (q.hi / 2)
    let rec_ := (List.range q.lo).map fun i =>
      let v := BitVec.ofNat 512 (q.bits / 2 ^ (8 * packedBytes f * i) % 2 ^ (8 * packedBytes f))
      { unpackToken f v with
        tag := q.tok.tag, own := q.tok.own, lr := i + 1 = q.lo, ls := (i + 1 = q.lo && q.tok.ls : Bool) }
    (if q.hi % 2 = 1 then [{ q.tok with lr := false, ls := false }] else []) ++ rec_

/-- GATHER_REPLY: row k of the buffer, whose record is back, leaves, in its order where the frame asks for it; a
killed one only gives up its tag. -/
def gatherReply (k : Nat) (s : State) (_r : Nat) (x : Slot) : Except Nat (State × Fire) :=
  match x.op.rows[k]? with
  | none => .ok (s, { slot := x })
  | some q =>
    let y := { x with op := { x.op with rows := x.op.rows.eraseIdx k } }
    if !q.ids.isEmpty || !q.tok.lr || (q.due && !q.killed) then .ok (s, { slot := x })
    else if q.killed then .ok (s, { slot := y, ends := [q.tok] })
    else if (x.reg 0).getLsbD 0 && (x.op.rows.take k).any fun p => !p.killed then .ok (s, { slot := x })
    else .ok (s, { slot := y.emit 0 (gatherOut q) })
def execGatherReply (t sl : Nat) (k : Nat) (s : State) : Out := s.fire t sl 8 (gatherReply k)

/-- A reply reaches the row that waits for it. -/
def Slot.gatherGet (x : Slot) (a : Access) : Slot :=
  let get (q : Row) : Row :=
    match q.ids.find? fun p => a.answersFor p.1 with
    | some (_, o) => { q with
        ids := q.ids.filter (fun p => !a.answersFor p.1), bits := q.bits + a.val.toNat % 2 ^ (8 * a.size) * 2 ^ o }
    | none => q
  { x with op := { x.op with rows := x.op.rows.map get } }

/-! ### Flush markers (R379) -/

/-- A flush marker stands at the head. -/
def flushHead (l : List Token) : Bool :=
  match l with
  | t :: _ => t.kind == .mark && !t.pm
  | [] => false
def flushMark : Token := { kind := .mark }

/-- A slot whose enabled data inputs all hold flush markers forwards one. -/
def Slot.flush (x : Slot) : Slot :=
  if !x.on || x.stopped || !x.clear || x.inputs.isEmpty || !(x.inputs.all fun i => flushHead (x.inQ i)) ||
      (slotKind x.frame == 3 && !x.op.toks.isEmpty) then x
  else ((x.take x.inputs).emit 0 [flushMark]).emit 1 [flushMark]

/-- A unit whose enabled inputs all hold flush markers forwards one, after its accesses have been performed. -/
def MemUnit.flush (y : MemUnit) : MemUnit :=
  let ins := (List.range 4).filter y.uses
  if !y.on || y.stopped || ins.isEmpty || !(ins.all fun j => flushHead (y.inQ j)) || !y.busy.isEmpty || !y.held.isEmpty ||
      !y.out.isEmpty || !y.done.isEmpty then y
  else
    let z := ins.foldl (fun (y : MemUnit) j => y.setIn j ((y.inQ j).drop 1)) y
    { z with
      out := if muMode y.frame = 1 || muMode y.frame = 2 then [flushMark] else []
      done := if muDoneOn y.frame then [flushMark] else [] }

/-- FLUSH_MARKER_ALIGN: generators and tracks hold no flush marker back (R122, R379). -/
def execFlushMarkerAlign (t : Nat) (e : Elem) (s : State) : Out :=
  s.event (s.firing t).isSome (match e with
    | .slot i => if i < 4 then s.updFab t fun f => f.updSlot i Slot.flush else s
    | .mu i => if i < 4 then s.updFab t fun f => f.updMu i MemUnit.flush else s
    | .ag _ | .track _ => s)

end Sys2Proof.Machine
end

