-- ==== Sys2Proof/Machine/Engine.lean ====
section
/-!
DEFINITION. The ENG group and its threads (R20, R225, R226, R284, R285, R337, R358 to R362, R372, R373, R441, R442):
the checks at issue, the fork, the payload, and the completion write.
-/
namespace Sys2Proof.Machine

/-! ### Checks at issue (R358) -/

/-- A piece of a range: its offset in the range, bytes, and where it lies. -/
structure Piece where
  off : Nat
  n : Nat
  va : Word
  pa : Nat
  ord : BitVec 2
  win : Nat
  ignored : Bool
  deriving DecidableEq, Repr

/-- The faults of n bytes at an offset of tile t's window, each with its address: register slots go by whole words, each
judged by itself; boundary tables, element windows and port queues take scalar accesses only (R58, R59, R177, R361). -/
def State.areaFaults (s : State) (t off n : Nat) (va : Word) : List (Word × BitVec 8) :=
  match s.area t off with
  | .store => if Config.tileStore < off + n then [(va, cPermission)] else []
  | .regs =>
    if va.toNat % 8 ≠ 0 || n % 8 ≠ 0 then [(va, cMisaligned)]
    else (List.range (n / 8)).filterMap fun i =>
      if s.area t (off + 8 * i) ≠ .regs || slotRefused (off + 8 * i) s.core.lvl then some (va + w64 (8 * i), cPermission)
      else none
  | _ => [(va, cPermission)]

/-- What the checks of a piece say. -/
inductive EngChecked where
  | ok (p : Spot) (s : State)
  | faults (l : List (Word × BitVec 8))
  | wait

/-- The checks of one piece (R341, R358 step 3, R361). -/
def State.engCheck (s : State) (u : Use) (va : Word) (n : Nat) : EngChecked :=
  let area (t off : Nat) (p : Spot) (s : State) : EngChecked :=
    match s.areaFaults t off n va with
    | [] => .ok p s
    | l => .faults l
  if !canonical va then .faults [(va, cTranslation)]
  else match localOff va with
    | some off => area s.cur off ⟨localPa s.cur off, 1, 3, 0, va.toNat, 1⟩ s
    | none =>
      match s.translate s.me u va with
      | .error .wait => .wait
      | .error (.fault e) => .faults [(va, e)]
      | .ok (p, s1) =>
        if p.kind = 3 && isTilePa p.pa then area (tileOfPa p.pa).1 (tileOfPa p.pa).2 p s1
        else if p.kind = 3 && !ioFits p.pa n then .faults [(va, cStage2Translation)]
        else if p.kind = 3 && s.core.lvl ≠ .h then .faults [(va, cPermission)]
        else .ok p s1

/-- The check of a whole range: pieces, faults with their addresses, and whether a window is being re-keyed. -/
structure Plan where
  s : State
  ps : List Piece := []
  bad : List (Word × BitVec 8) := []
  wait : Bool := false

/-- The parts of n bytes at an address, cut at 8-byte boundaries, from offset o on: offset and bytes (R226). -/
def cutWords (pa n : Nat) : Nat → Nat → List (Nat × Nat)
  | 0, _ => []
  | k + 1, o =>
    if n ≤ o then []
    else
      let r := min (n - o) (8 - (pa + o) % 8)
      (o, r) :: cutWords pa n k (o + r)

/-- A checked range inside a block goes by aligned words, each an access of its own (R226); a store to a register that is
read-only at the level is ignored (R59, R361). -/
def wordPieces (off n : Nat) (va : Word) (p : Spot) (u : Use) (lvl : Lvl) : List Piece :=
  (cutWords p.pa n (n / 8 + 2) 0).map fun q =>
    ⟨off + q.1, q.2, va + w64 q.1, p.pa + q.1, p.ord, p.win,
      u.writes && isSlotPa p.pa && slotIgnored ((tileOfPa p.pa).2 + q.1) lvl⟩

def Plan.add (p : Plan) (u : Use) : List (Word × Nat × Nat) → Plan
  | [] => p
  | (va, n, off) :: r =>
    (match p.s.engCheck u va n with
     | .faults l => { p with bad := p.bad ++ l }
     | .wait => { p with wait := true }
     | .ok q s => { p with s := s, ps := p.ps ++ wordPieces off n va q u s.core.lvl }).add u r
/-- A range of n bytes. -/
def Plan.range (p : Plan) (u : Use) (va : Word) (n : Nat) : Plan :=
  let q := ({ p with ps := [] } : Plan).add u (blockParts (n / 64 + 2) va n 0)
  q

/-- The fault at the lowest address (R358). -/
def lowestFault : List (Word × BitVec 8) → Option (Word × BitVec 8)
  | [] => none
  | x :: l =>
    match lowestFault l with
    | some y => if y.1.toNat < x.1.toNat then some y else some x
    | none => some x

/-- Step 1 of R358: the completion descriptor. -/
def completionBad (s : State) (e : Word) : Option (BitVec 8 × Word) :=
  if bits e 20 12 ≠ 0 then some (cIllegalOperand, s.ir)
  else if bits e 0 2 ≠ 0 then some (cMisaligned, storeVa (bits e 0 20))
  else none

/-- Steps 1 and 2 for a descriptor in tile store: its four doublewords. -/
def withDescriptor (s : State) (a e : Word) (k : State → List Word → Act) : Act :=
  match completionBad s e with
  | some (c, v) => fault s c v
  | none =>
    match localOff a with
    | none => fault s cPermission a
    | some off =>
      if Config.tileStore ≤ off then fault s cPermission a
      else if a.toNat % 32 ≠ 0 then fault s cMisaligned a
      else s.reading 0 .plain .tile 8 false (dwordParts a 4) fun s1 x => k s1 (dwordsOf 4 x)

/-! ### The fork (R225, R226) -/

/-- Operations of the task that are not finished. -/
def State.engines (s : State) : Nat := s.threads.countP fun t => t.tile == s.cur

/-- The bytes of a read go to the words of the destination that they meet. -/
def outsOf (r : Piece) (dst : List Piece) : List PartOut :=
  dst.filterMap fun d =>
    let lo := max r.off d.off
    let hi := min (r.off + r.n) (d.off + d.n)
    if lo < hi then some ⟨lo - r.off, hi - lo, d.pa + (lo - d.off), lo, d.off, d.n, d.ord, d.win, d.ignored⟩ else none
def partOf (r : Piece) (dst : List Piece) : Part := ⟨r.off, r.va, r.pa, r.n, r.ord, r.win, outsOf r dst⟩

/-- Accesses of the task within a scope that are still to be performed: the fork's release (R225). -/
def State.releaseIds (s : State) (sp : Scope) : List Nat :=
  ((s.accsOf (.task s.cur)).filter fun a => !a.isFence && !a.isPerformed && s.inScope sp a).map Access.id

/-- An access of a thread. -/
def Thread.access (x : Thread) (kind : AccKind) (va : Word) (pa n : Nat) (ord : BitVec 2) (win : Nat) : Access :=
  { id := 0, party := .thread x.id, vd := x.vd, gen := x.gen, region := x.region, kind := kind, va := va, pa := pa, size := n
    scope := x.scope, page := ord, win := win, cls := x.cls, needs := wheelPath x.tile pa }

/-- The reads of a thread enter its order buffer. -/
def State.forkReads (s : State) (x : Thread) (after : List Nat) : List Part → State
  | [] => s
  | p :: r =>
    let s1 := s.enterAccess { x.access .load p.va p.src p.n p.ord p.win with after := after }
    ({ s1 with threads := s1.threads.map fun t => if t.id = x.id then { t with reads := t.reads ++ [(s.nextId, p)] } else t }
      : State).forkReads x after r

/-- Tables whose slots a destination meets: tile and table (R362). -/
def tablesOf (dst : List Piece) : List (Nat × Nat) :=
  dst.filterMap fun d =>
    let o := (tileOfPa d.pa).2
    if isTilePa d.pa && inRange o 0x403000 0x40 then some ((tileOfPa d.pa).1, (o - 0x403000) / 32) else none
def State.setPending (s : State) : List (Nat × Nat) → State
  | [] => s
  | (t, k) :: r => (s.updCore t fun c => { c with tbPend := c.tbPend ||| ((1 : BitVec 2) <<< k) }).setPending r

/-- A doubleword of a peer table entry (R281, R284). -/
def State.peerWord (s : State) (e k : Nat) : Word := w64 (s.rd (Config.ioBase + 0x3000000 + 32 * e + 8 * k) 8)

/-- The peer and the place that an entry names, for an offset in its range (R284). -/
def State.peerTo (s : State) (e off : Nat) : Peer :=
  { mac := bits (s.peerWord e 0) 0 48, dev := bits (s.peerWord e 1) 32 32, win := bits (s.peerWord e 1) 0 7
    off := (s.peerWord e 2).toNat + off }

/-- The peer of an entry: port and device. -/
def State.peerId (s : State) (e : Nat) : Nat × Nat := ((s.peerTo e 0).mac, (s.peerTo e 0).dev)

/-- The peer table entries that an operation names. -/
def EngOp.entries : EngOp → List Nat
  | .coll _ _ _ _ ranks me first => ((List.range ranks).filter fun k => k != me).map fun k => first + k
  | .xwr e _ _ => [e]
  | _ => []

/-- An operation names a peer that has been declared lost (R285). -/
def State.namesLost (s : State) (op : EngOp) : Bool := op.entries.any fun e => s.peersLost.contains (s.peerId e)

/-- How many COLLs of the VD with the same FIRST and RANKS have been issued (R360). -/
def State.collOrdinal (s : State) (op : EngOp) : Nat :=
  match op with
  | .coll _ _ _ _ ranks _ first =>
    (((s.vd s.core.vd).colls.find? fun x => x.1 == (first, ranks)).map Prod.snd).getD 0
  | _ => 0

/-- A COLL counts among those of its VD. -/
def State.countColl (s : State) (op : EngOp) : State :=
  match op with
  | .coll _ _ _ _ ranks _ first => s.updVd s.core.vd fun v =>
    { v with colls := ((first, ranks), s.collOrdinal op + 1) :: v.colls.filter fun x => x.1 != (first, ranks) }
  | _ => s

/-- Step 4: the thread begins, and the task goes on; a 17th operation waits. -/
def State.fork (s : State) (op : EngOp) (sp : Scope) (cls : BitVec 2) (e : Word) (parts : List Part)
    (outs : List PartOut) (tbs : List (Nat × Nat)) : State :=
  let c := s.core
  let x : Thread := {
    id := s.nextId, tile := s.cur, vd := c.vd, gen := (c.owner.getD (0, 0)).2, region := s.regionAt s.cur, lvl := c.lvl
    op := op, scope := sp, cls := s.reqClass s.cur cls.toNat, outs := outs, comp := bits e 0 20
    val := e.extractLsb' 32 32, tbs := tbs, after := s.releaseIds sp, ordinal := s.collOrdinal op
    lost := s.namesLost op }
  let s1 : State := { s with threads := s.threads ++ [x], nextId := s.nextId + 1 }
  ((s1.countColl op).setPending tbs).forkReads x x.after parts

/-- The end of step 3: a fault, a wait, or the fork. -/
def forked (s : State) (p : Plan) (k : State → State) : Act :=
  match lowestFault p.bad with
  | some (va, e) => fault s e va
  | none => if p.wait then .wait s else .retire (k p.s)

/-! ### CPY and GTH -/

/-- CPY (R361, R362). -/
def cpyOp (sp : Scope) (cls : BitVec 2) (a b n e : GReg) (s : State) : Act :=
  if 16 ≤ s.engines then .wait s
  else match completionBad s (s.g e) with
  | some (c, v) => fault s c v
  | none =>
    if bits (s.g n) 32 32 ≠ 0 then fault s cIllegalOperand s.ir
    else
      let len := (s.g n).toNat
      let p := ({ s := s } : Plan).range .read (s.g a) len
      let q := p.range .write (s.g b) len
      forked s q fun s1 => s1.fork .cpy sp cls (s.g e) (p.ps.map fun r => partOf r q.ps) [] (tablesOf q.ps)
def execCpy (c : Guard) (sp : Scope) (cls : BitVec 2) (_z : Bool) (a b n e : GReg) (s : State) : Out :=
  s.go .all false c (cpyOp sp cls a b n e)

/-- The fields of a GTH descriptor (R372). -/
structure GthDesc where
  base : Word
  doff : Nat
  ioff : Nat
  stride : Nat
  count : Nat
  esize : Nat
  deriving DecidableEq, Repr

/-- A well-formed GTH descriptor. -/
def gthDesc (l : List Word) : Option GthDesc :=
  let d i := l.getD i (0 : Word)
  let x : GthDesc :=
    ⟨(d 0).extractLsb' 0 48 |>.signExtend 64, bits (d 1) 20 20, bits (d 1) 0 20, bits (d 2) 32 32, bits (d 2) 0 19, bits (d 3) 0 13⟩
  let sizeOk := x.esize == 1 || x.esize == 2 || x.esize == 4 || (decide (0 < x.esize) && x.esize % 8 == 0 && decide (x.esize ≤ 4096))
  if bits (d 0) 48 16 = 0 && bits (d 1) 40 24 = 0 && bits (d 2) 19 13 = 0 && bits (d 3) 13 51 = 0 && sizeOk &&
      x.count ≤ 262144 && x.ioff % 4 = 0 && x.doff % (min x.esize 8) = 0 && x.ioff + 4 * x.count ≤ Config.tileStore &&
      x.doff + x.esize * x.count ≤ Config.tileStore then some x else none

/-- The destination of a GTH as words (R226). -/
def gthDst (s : State) (x : GthDesc) : List Piece :=
  wordPieces 0 (x.esize * x.count) (storeVa x.doff) ⟨localPa s.cur x.doff, 1, 3, 0, 0, 1⟩ .write s.core.lvl

/-- The elements of a GTH in order, from the string of its indices: a fault or a wait, or the reads by words, each with its
position among the elements. An element uses the base translation, whole; the range and the window of its own granule are checked (R183, R202, R272, R373). -/
def gthParts (s : State) (x : GthDesc) (p : Spot) (ix : Nat) : Nat → Nat → Except Halt (List Piece)
  | 0, _ => .ok []
  | k + 1, i =>
    let n := ix / 2 ^ (32 * i) % 2 ^ 32
    let a := x.base.toNat % 2 ^ 48 + n * x.stride
    let va := x.base + w64 (n * x.stride)
    let at_ (q : Word) : Nat := p.pa + (q.toNat - x.base.toNat % 2 ^ 48)
    let parts := blockParts (x.esize / 64 + 2) (w64 a) x.esize 0
    if p.page + p.size < a + x.esize then .error (.trap cGatherBound (w64 n))
    else if a % (min x.esize 8) ≠ 0 then .error (.trap cMisaligned va)
    else match parts.findSome? fun q => s.physCheck s.core.vd p.kind p.win (at_ q.1) .read p.ord.toNat with
    | some (.fault c) => .error (.trap c va)
    | some .wait => .error .wait
    | none =>
      match gthParts s x p ix k (i + 1) with
      | .error e => .error e
      | .ok l =>
        .ok (parts.flatMap (fun q =>
          wordPieces (i * x.esize + q.2.2) q.2.1 q.1 { p with pa := at_ q.1 } .read s.core.lvl) ++ l)

/-- GTH (R372, R373). -/
def gthOp (sp : Scope) (cls : BitVec 2) (a e : GReg) (s : State) : Act :=
  if 16 ≤ s.engines then .wait s
  else withDescriptor s (s.g a) (s.g e) fun s1 l =>
    match gthDesc l with
    | none => fault s cIllegalOperand s.ir
    | some x =>
      s1.reading 1 .plain .tile 4 false (blockParts (x.count / 16 + 2) (storeVa x.ioff) (4 * x.count) 0) fun s1 ix =>
      if !canonical x.base then fault s cTranslation x.base
      else if (localOff x.base).isSome then fault s cPermission x.base
      else match s1.translate s1.me .read x.base with
      | .error .wait => .wait s
      | .error (.fault c) => fault s c x.base
      | .ok (p, s2) =>
        if p.kind ≠ 0 then fault s cPermission x.base
        else match gthParts s2 x p ix x.count 0 with
        | .error h => h.act s
        | .ok ps => .retire (s2.fork .gth sp cls (s.g e) (ps.map fun r => partOf r (gthDst s2 x)) [] [])
def execGth (c : Guard) (sp : Scope) (cls : BitVec 2) (a e : GReg) (s : State) : Out :=
  s.go .us false c (gthOp sp cls a e)

/-! ### COLL and XWR -/

/-- An entry is valid, names the caller's VD, and its range holds n bytes. -/
def State.peerOk (s : State) (e n : Nat) : Bool :=
  let w := s.peerWord e 0
  w.getLsbD 63 && bits w 48 5 == s.core.vd && decide (n ≤ (s.peerWord e 3).toNat)

/-- OP, FMT and EXACT of a COLL go together (R359). -/
def collOk (op : Nat) (f : Fmt) (exact : Bool) : Bool :=
  match op with
  | 0 =>
    (match f with
     | .fp32 => true
     | .int32 => !exact
     | .bf16 | .fp8e4 | .fp8e5 | .fp6e3 | .fp6e2 | .fp4 => exact
     | _ => false)
  | 1 | 2 => (f == .fp32 || f == .bf16 || f == .fp16 || f == .int32) && !exact
  | 3 | 4 => !exact
  | _ => false

/-- A rank takes part with its input. -/
def collReads (op me : Nat) : Bool := op != 4 || me == 0

/-- COLL (R359, R360). -/
def collOp (sp : Scope) (cls : BitVec 2) (a e : GReg) (s : State) : Act :=
  if 16 ≤ s.engines then .wait s
  else withDescriptor s (s.g a) (s.g e) fun s1 l =>
    let d i := l.getD i (0 : Word)
    let ranks := bits (d 2) 48 8 + 1
    let me := bits (d 2) 40 8
    let first := bits (d 2) 30 10
    let op := bits (d 2) 27 3
    let exact := (d 2).getLsbD 26
    let count := bits (d 3) 0 25
    match Fmt.ofTag ((d 2).extractLsb' 21 5) with
    | none => fault s cIllegalOperand s.ir
    | some f =>
      if bits (d 0) 48 16 ≠ 0 || bits (d 1) 48 16 ≠ 0 || bits (d 2) 56 8 ≠ 0 || bits (d 2) 0 21 ≠ 0 || bits (d 3) 25 39 ≠ 0 ||
          ranks ≤ me || 16777216 < count || count % 32 ≠ 0 || !collOk op f exact || 1024 < first + ranks then
        fault s cIllegalOperand s.ir
      else
        let n := count * f.width / 8
        if (List.range ranks).any fun r => r != me && !s1.peerOk (first + r) n then fault s cWindow (s.g a)
        else
          let src := (d 0).extractLsb' 0 48 |>.signExtend 64
          let dst := (d 1).extractLsb' 0 48 |>.signExtend 64
          let p := ({ s := s1 } : Plan).range .read src (if collReads op me then n else 0)
          let q := p.range .write dst (if op = 3 then ranks * n else n)
          let outs := q.ps.map fun d => (⟨d.off, d.n, d.pa, d.off, d.off, d.n, d.ord, d.win, d.ignored⟩ : PartOut)
          forked s q fun s2 =>
            s2.fork (.coll op f exact count ranks me first) sp cls (s.g e) (p.ps.map fun r => partOf r []) outs []
def execColl (c : Guard) (sp : Scope) (cls : BitVec 2) (a e : GReg) (s : State) : Out :=
  s.go .us false c (collOp sp cls a e)

/-- XWR (R441, R442). -/
def xwrOp (sp : Scope) (cls : BitVec 2) (a e : GReg) (s : State) : Act :=
  if 16 ≤ s.engines then .wait s
  else withDescriptor s (s.g a) (s.g e) fun s1 l =>
    let d i := l.getD i (0 : Word)
    let off := bits (d 1) 0 48
    let len := bits (d 2) 32 32
    let entry := bits (d 2) 0 10
    let flag := (d 3).getLsbD 63
    let foff := bits (d 3) 3 45 * 8
    if bits (d 0) 48 16 ≠ 0 || bits (d 1) 48 16 ≠ 0 || bits (d 2) 10 22 ≠ 0 || bits (d 3) 48 15 ≠ 0 || bits (d 3) 0 3 ≠ 0 then
      fault s cIllegalOperand s.ir
    else if !s1.peerOk entry (off + len) || (flag && !s1.peerOk entry (foff + 8)) then fault s cWindow (s.g a)
    else
      let p := ({ s := s1 } : Plan).range .read ((d 0).extractLsb' 0 48 |>.signExtend 64) len
      forked s p fun s2 =>
        s2.fork (.xwr entry off (if flag then some foff else none)) sp cls (s.g e) (p.ps.map fun r => partOf r []) [] []
def execXwr (c : Guard) (sp : Scope) (cls : BitVec 2) (a e : GReg) (s : State) : Out :=
  s.go .us false c (xwrOp sp cls a e)

/-! ### The payload of a thread -/

def State.thread (s : State) (id : Nat) : Option Thread := s.threads.find? fun t => t.id == id
def State.updThread (s : State) (id : Nat) (f : Thread → Thread) : State :=
  { s with threads := s.threads.map fun t => if t.id = id then f t else t }

/-- A thread stores n bytes. -/
def State.threadStore (s : State) (x : Thread) (o : PartOut) (data : Nat) : State :=
  s.enterAccess { x.access .store 0 o.dst o.n o.ord o.win with
    data := BitVec.ofNat 512 (data % 2 ^ (8 * o.n)), mask := if o.ignored then 0 else BitVec.ofNat 512 (fullMask o.n) }

/-- Bytes join those read before; the destination word that they complete is stored by one access (R226, R361). -/
def State.threadWord (s : State) (x : Thread) (o : PartOut) (data : Nat) : State :=
  let buf := ((s.thread x.id).getD x).buf ++ (List.range o.n).map fun i => (o.pos + i, BitVec.ofNat 8 (data / 2 ^ (8 * i)))
  let word := (List.range o.len).map fun i => (buf.find? fun b => b.1 == o.first + i).map Prod.snd
  if word.all Option.isSome then
    (s.updThread x.id fun t => { t with buf := buf.filter fun b => decide (b.1 < o.first) || decide (o.first + o.len ≤ b.1) }).threadStore
      x { o with off := 0, n := o.len, dst := o.dst - (o.pos - o.first) } (ofBytes (word.map fun b => b.getD 0))
  else s.updThread x.id fun t => { t with buf := buf }

/-- The bytes of a read go to their places: one that is a whole word of the destination at once, the others word by word. -/
def State.threadOuts (s : State) (x : Thread) (v : Nat) : List PartOut → State
  | [] => s
  | o :: r =>
    let data := v / 2 ^ (8 * o.off)
    (if o.n = o.len then s.threadStore x o data else s.threadWord x o data).threadOuts x v r

/-- A reply reaches a thread. -/
def State.threadReply (s : State) (id : Nat) (a : Access) : State :=
  match s.thread id with
  | none => s
  | some x =>
    match x.reads.find? fun q => q.1 == a.id with
    | none => s
    | some (_, p) =>
      let s1 := s.updThread id fun t => { t with reads := t.reads.filter fun q => q.1 != a.id }
      match x.op with
      | .cpy | .gth => s1.threadOuts x a.val.toNat p.outs
      | _ => s1.updThread id fun t =>
        { t with buf := t.buf ++ (List.range p.n).map fun i => (p.pos + i, BitVec.ofNat 8 (a.val.toNat / 2 ^ (8 * i))) }

/-- Every access of the thread has been performed, and so have those that its release waits for (R225). -/
def State.threadIdle (s : State) (x : Thread) : Bool :=
  ((s.thread x.id).getD x).reads.isEmpty && s.allPerformed x.after &&
  !s.accs.any fun a => a.party == .thread x.id && !a.isPerformed

/-- The completion write, the thread's last access; its pending bits clear where no other thread holds them (R362). -/
def State.complete (s : State) (x : Thread) (v : BitVec 32) : State :=
  let s1 : State := { s with threads := s.threads.filter fun t => t.id != x.id }
  let s2 := s1.commit (localPa x.tile x.comp) 4 v.toNat (fullMask 4)
  x.tbs.foldl (fun s q =>
    if s.threads.any fun t => t.tbs.contains q then s
    else s.updCore q.1 fun c => { c with tbPend := c.tbPend &&& ~~~((1 : BitVec 2) <<< q.2) }) s2

/-- The bytes that a thread has read, in order. -/
def Thread.bytes (x : Thread) (n : Nat) : List Byte :=
  (List.range n).map fun i => ((x.buf.find? fun b => b.1 == i).map Prod.snd).getD 0

/-! ### COLL (R88, R360) -/

/-- Element j of a packed string. -/
def packedAt (v w j : Nat) : Lane := BitVec.ofNat 32 (v / 2 ^ (w * j) % 2 ^ w)

/-- The exponent of a rank for a block: 128 for a NaN or an infinity, -127 when all is zero (R88). -/
def rankExp (l : List XVal) : Int :=
  if l.any fun x => x.isNaN || x.isInf then 128
  else if l.all XVal.isZero then -127
  else max (-127) (min 127 (maxLog l))

/-- An element of an agreed-scale sum at exponent e, with the flags of the sum's rounding and invalid where the block has
no exponent. -/
def collExactLane (f : Fmt) (h : Nat) (e : Int) (xs : List Lane) : Lane × BitVec 6 :=
  let ff := f.float.getD f32
  if e = 128 then (BitVec.ofNat 32 (ff.canonNan false), flInvalid)
  else
    let v : Int := (xs.map fun x => (exactTerm f h e x).getD 0).foldl (fun a b => a + b) 0
    if v = 0 then (0, 0) else lane (ff.roundX (.fin (decide (v < 0)) v.natAbs (e - 29 + h)) .rne false)

/-- The flag of a rank's own rounding of an element to the agreed scale (R88). -/
def quantFlags (f : Fmt) (h : Nat) (e : Int) (x : Lane) : BitVec 6 :=
  match f.value x with
  | .fin neg m q => flagIf (e != 128 && (roundAt neg m 1 (q + 29 - h - e) 0 .rne).2) flInexact
  | _ => 0

/-- An element combined over the ranks in order, with its flags; MAX and MIN set none, as the atomics that they follow. -/
def collLane (op : Nat) (f : Fmt) : List Lane → Lane × BitVec 6
  | [] => (0, 0)
  | x :: l => l.foldl (fun a b =>
      match op with
      | 0 => let r := addLane f .rne a.1 b; (r.1, a.2 ||| r.2)
      | 1 => ((pickLane f true a.1 b).1, 0)
      | _ => ((pickLane f false a.1 b).1, 0)) (x, 0)

/-- Element j of SUM, MAX or MIN at rank me, from the strings of the ranks, with its flags. -/
def collElem (op : Nat) (f : Fmt) (exact : Bool) (me j : Nat) (xs : List Nat) : Lane × BitVec 6 :=
  let w := f.width
  let l := xs.map fun v => packedAt v w j
  let block (v : Nat) : List XVal := (List.range 32).map fun i => f.value (packedAt v w (32 * (j / 32) + i))
  if exact then
    let h := clog2 xs.length
    let e := (xs.map fun v => rankExp (block v)).foldl max (-127)
    let r := collExactLane f h e l
    (r.1, r.2 ||| quantFlags f h e (l.getD me 0))
  else collLane op f l

/-- The result of a COLL at rank me as a string of bits, from the strings of the ranks, with the flags (R360). -/
def collResult (op : Nat) (f : Fmt) (exact : Bool) (count me : Nat) (xs : List Nat) : Nat × BitVec 6 :=
  let w := f.width
  let n := count * w / 8
  match op with
  | 3 => ((List.range xs.length).foldl (fun a r => a + xs.getD r 0 * 2 ^ (8 * n * r)) 0, 0)
  | 4 => (xs.headD 0, 0)
  | _ => (List.range count).foldl (fun a j =>
      let r := collElem op f exact me j xs
      (a.1 + r.1.toNat % 2 ^ w * 2 ^ (w * j), a.2 ||| r.2)) (0, 0)

/-- The result is stored, and its flags join FSTAT of the core whose task issued the COLL (log entry 78). -/
def State.collWrite (s : State) (x : Thread) (v : Nat × BitVec 6) : State :=
  ((x.outs.foldl (fun s o => s.threadStore x o (v.1 / 2 ^ (8 * o.off))) s).updThread x.id fun t => { t with written := true }).updCore
    x.tile fun c => if c.owner = some (x.vd, x.gen) then { c with fstat := c.fstat ||| v.2 } else c

/-- The I/O die port whose slot a frame of a thread may take: traffic of class C0 and C1 takes those of its VD, one for each
frame, in the order of R241 among the requests that wait at the port (R283); none where there is none. -/
def State.frameSlot (s : State) (x : Thread) : Option (Nat × Nat) :=
  [(2, 0), (2, 1)].find? fun k =>
    !s.wheelUsed.contains (k, s.cycle / 4) &&
      (slotGroup (s.wheel k) s.slotNow x.vd x.cls).any fun g => s.firstAt k x.vd x.region g

/-- The next frame of a list goes out, when the wheels let it, and all of them in class C2 and C3; after the last the
operation goes on. -/
def State.sendFrames (s : State) (x : Thread) (l : List Sent) (f : Thread → Thread) : State :=
  let rest := l.drop x.frames
  let go (s : State) (k : Nat) : State :=
    ({ s with sent := s.sent ++ rest.take k } : State).updThread x.id fun t =>
      { (if rest.length ≤ k then { f t with frames := 0 } else { t with frames := x.frames + k }) with sentAt := s.cycle }
  if 2 ≤ x.cls.toNat || rest.isEmpty then go s rest.length
  else match s.frameSlot x with
  | some k => go (s.takeSlot k x.vd x.region (slotGroup (s.wheel k) s.slotNow x.vd x.cls)) 1
  | none => s

/-- Bytes as the payloads of frames, each with its offset: at most 9,216 in a frame (R283; log entry 75). -/
def framesOf (xs : List Byte) : List (Nat × List Byte) :=
  (List.range (max 1 ((xs.length + 9215) / 9216))).map fun i => (9216 * i, (xs.drop (9216 * i)).take 9216)

/-- The peers of an operation have acknowledged (R285). -/
def State.hear (s : State) (op : EngOp) : State :=
  let l := (op.entries.map s.peerId).eraseDups
  { s with peersHeard := l.map (fun k => (k, s.cycle)) ++ s.peersHeard.filter fun q => !l.contains q.1 }

/-- The descriptor that a rank tells the others (R360). -/
def Thread.collDesc (x : Thread) (op : Nat) (f : Fmt) (exact : Bool) (count ranks : Nat) : CollDesc :=
  ⟨op, f.tag, exact, count, ranks, x.ordinal⟩

/-- COLL once its input has been read: the descriptors are exchanged, and one that differs ends the operation; the
contribution goes out, those of the other ranks come, the result is stored, and the completion word is written when every
contribution of this rank has been performed at its peer (R285, R360). -/
def State.collStep (s : State) (x : Thread) (op : Nat) (f : Fmt) (exact : Bool) (count ranks me first : Nat)
    (r : PeerReply) : State :=
  let n := count * f.width / 8
  let mine := x.bytes n
  let d := x.collDesc op f exact count ranks
  let others := ((List.range ranks).filter fun k => k != me).map fun k => s.peerTo (first + k) 0
  let finish (s : State) (xs : List (List Byte)) : State :=
    s.collWrite x (collResult op f exact count me
      ((List.range ranks).map fun k => ofBytes (if k = me then mine else xs.getD k [])))
  if x.lost then s.complete x 0xFFFFFFFF
  else if x.written then (if r = .done then (s.hear x.op).complete x x.val else s)
  else if ranks = 1 then finish s []
  else if !x.told then s.sendFrames x (others.map fun p => .collDesc p d) fun t => { t with told := true }
  else if !x.matched then
    (match r with
     | .descs l =>
       if l.length != ranks || l[me]? != some d || l.any (fun y => y.ordinal != d.ordinal) then s
       else if l.all fun y => y == d then (s.hear x.op).updThread x.id fun t => { t with matched := true }
       else (s.hear x.op).complete x 0xFFFFFFFE
     | _ => s)
  else if !x.sent then
    s.sendFrames x (if collReads op me then others.flatMap fun p => (framesOf mine).map fun q => .collData p x.ordinal q.1 q.2 else []) fun t => { t with sent := true }
  else match r with
  | .ranks xs => if xs.length = ranks && xs.all fun b => b.length == n then finish (s.hear x.op) xs else s
  | _ => s

/-- XWR once its source has been read: the payload and the flag go to the peer, and its answer completes the operation
(R442). -/
def State.xwrStep (s : State) (x : Thread) (entry off : Nat) (flag : Option Nat) (r : PeerReply) : State :=
  if x.lost then s.complete x 0xFFFFFFFF
  else if !x.sent then
    let l := framesOf (x.bytes x.buf.length)
    s.sendFrames x (l.map fun q => .frame (s.peerTo entry (off + q.1)) q.2
      (if q.1 + 9216 < x.buf.length then none else flag.map fun o => ((s.peerTo entry o).off, x.val))) fun t => { t with sent := true }
  else match r with
  | .done => (s.hear x.op).complete x x.val
  | .refused => (s.hear x.op).complete x 0xFFFFFFFD
  | _ => s

/-- ENGINE_COMPLETION: a thread whose accesses have been performed takes its last steps (R285, R360, R362, R442). -/
def execEngineCompletion (id : Nat) (r : PeerReply) (s : State) : Out :=
  match s.thread id with
  | none => .next s
  | some x =>
    s.event (s.threadIdle x) (match x.op with
      | .cpy | .gth => s.complete x x.val
      | .coll op f exact count ranks me first => s.collStep x op f exact count ranks me first r
      | .xwr entry off flag => s.xwrStep x entry off flag r)

/-- A thread has an operation to a peer, given by port and device. -/
def State.names (s : State) (x : Thread) (peer : Nat × Nat) : Bool := x.op.entries.any fun e => s.peerId e == peer

/-- 100 ms in ACLK (R285, R288). -/
def peerLimit : Nat := 70000000

/-- Frames have gone to a peer, and nothing has come from it for 100 ms (R285). -/
def State.silent (s : State) (peer : Nat × Nat) : Bool :=
  let heard := match s.peersHeard.find? fun q => q.1 == peer with
    | some q => q.2
    | none => 0
  s.threads.any fun x => (x.told || x.sent) && s.names x peer && decide (max x.sentAt heard + peerLimit ≤ s.cycle)

/-- PEER_LOST: the peer that an entry names is declared lost, and every operation to it completes with 0xFFFF_FFFF, those
issued later too (R285). -/
def execPeerLost (entry : Nat) (s : State) : Out :=
  let p := s.peerId entry
  s.event (s.silent p) { s with
    peersLost := p :: s.peersLost.filter fun q => q != p
    threads := s.threads.map fun t => if s.names t p then { t with lost := true } else t }

/-! ### A peer's write (R285, R442) -/

/-- Physical address of an offset in a window. -/
def Window.pa (x : Window) (off : Nat) : Nat := x.granules.getD (off / 0x20000) 0 * 0x20000 + off % 0x20000

/-- Bytes of a peer are performed at their homes, block by block. -/
def State.peerStore (s : State) (x : Window) (off : Nat) (v : Nat) : Nat → Nat → State
  | 0, _ => s
  | k + 1, n =>
    if n = 0 then s
    else
      let m := min n (64 - off % 64)
      (s.commit (x.pa off) m (v % 2 ^ (8 * m)) (fullMask m)).peerStore x (off + m) (v / 2 ^ (8 * m)) k (n - m)

/-- Blocks of a range of a window. -/
def Window.blocks (x : Window) (off n : Nat) : List Nat :=
  (List.range (n / 64 + 2)).filterMap fun i =>
    let o := off - off % 64 + 64 * i
    if o < off + n then some (x.pa o) else none

/-- PEER_WRITE_RECEIVE: payload, then flag, under the key of the window; refused whole when the window is not LIVE or
its peer may not store. A block that is written in part, and each counter block, is verified (R267, R270). -/
def execPeerWriteReceive (win off : Nat) (xs : List Byte) (flag : Option (Nat × BitVec 32)) (s : State) : Out :=
  let x := s.wins.toList.getD win {}
  let size := x.granules.length * 0x20000
  let fits := decide (off + xs.length ≤ size) && (match flag with
    | some (o, _) => decide (o + 8 ≤ size) && o % 8 == 0
    | none => true)
  let flagged := match flag with
    | some (o, _) => x.blocks o 8
    | none => []
  let bad := (blockParts (xs.length / 64 + 2) (w64 off) xs.length 0).any fun q => s.writeBad (x.pa q.1.toNat) (q.2.1 == 64)
  if win = 0 || x.st ≠ .live || !x.w || !fits then .next { s with sent := s.sent ++ [.refusal win] }
  else if (x.blocks off xs.length ++ flagged).any s.stalled then .next s
  else if bad then .next (s.fence x.peer cIntegrity)
  else
    let s1 := s.peerStore x off (ofBytes xs) (xs.length / 64 + 2) xs.length
    if flagged.any s1.isBad then .next (s1.fence x.peer cIntegrity)
    else
    let s2 := match flag with
      | some (o, v) => s1.commit (x.pa o) 8 v.toNat (fullMask 8)
      | none => s1
    .next { s2 with sent := s2.sent ++ [.ackd win] }

end Sys2Proof.Machine
end

