-- ==== Sys2Proof/Machine/Order.lean ====
section
/-!
DEFINITION. The moves of the ordering machine (R204 to R207, R217), the wheels on the way (R240, R241), the end of a
re-encryption (R268), a walk of the page tables by the device itself (R191, R195), and a request that stays
outstanding too long (R256).
-/
namespace Sys2Proof.Machine

/-- An operation on the access of a number, when it is there and enabled. -/
def State.onAcc (s : State) (id : Nat) (ok : Access → Bool) (f : Access → State) : Out :=
  match s.acc id with
  | some a => s.event (ok a) (f a)
  | none => .next s

/-- ORDER_LEAVE: the first access of the list leaves, and stores of the list that the device merges into it leave with it
(R210). -/
def execOrderLeave (ids : List Nat) (s : State) : Out :=
  match ids with
  | [] => .next s
  | id :: merge => s.onAcc id s.mayLeave fun a => (s.mergeIn a merge).leave a

/-- QUEUE_ARRIVE. -/
def execQueueArrive (id : Nat) (s : State) : Out := s.onAcc id s.mayArrive s.arrive

/-- NODE_PERFORM. -/
def execNodePerform (id : Nat) (s : State) : Out := s.onAcc id s.mayPerform s.perform

/-- The reply of a performed access reaches its issuer, and the access leaves the order buffer (R206). A write of the
host port is acknowledged by ROUTE_ACK. -/
def State.replyTo (s : State) (a : Access) : State :=
  let s1 := s.dropAcc a.id
  match a.party with
  | .task t => s1.taskReply t a
  | .thread i => s1.threadReply i a
  | .unit t u => if u < 4 then s1.unitReply t u a else s1
  | .gather t i => if i < 4 then s1.updFab t fun f => f.updSlot i fun y => y.gatherGet a else s1
  | .inbound _ => s

/-- ACCESS_REPLY. -/
def execAccessReply (id : Nat) (s : State) : Out := s.onAcc id s.mayReply s.replyTo

/-- RING_PASS: the token goes to the next node (R217). -/
def execRingPass (s : State) : Out := .next { s with ringAt := (s.ringAt + 1) % Config.ringNodes, ringDone := 0 }

/-- REENCRYPT_COMPLETE: accesses to the leaf may be performed again (R268). -/
def execReencryptComplete (stack leaf : Nat) (s : State) : Out :=
  .next { s with recrypt := s.recrypt.filter fun x => x != (stack, leaf) }

/-- A cached translation of a VD covers an address. -/
def Tlb.covers (x : Tlb) (vd : Nat) (va : Word) : Bool :=
  x.vd == vd && decide (x.vpage ≤ va.toNat % 2 ^ 48) && decide (va.toNat % 2 ^ 48 < x.vpage + x.size)

/-- A store of the task of tile t is outstanding whose address the translation leads to where the store goes. -/
def State.storeOut (s : State) (t : Nat) (x : Tlb) : Bool :=
  s.accs.any fun a => a.party == .task t && a.writes && x.covers a.vd a.va && x.pa a.va == a.pa

/-- WALK_COMPLETE: a walk for the task of tile t installs what it finds, and sets the bits of R195; one that finds an invalid
or refusing entry leaves no translation of the address, so that the task meets the new entry (R196; log entry 8). A walk for
a store, which sets D, is made only where a store of the task goes to the page (R195). -/
def State.walkFor (s : State) (t : Nat) (va : Word) (store : Bool) : State :=
  let c := (s.tileAt t).core
  let u : Use := if store then .write else .read
  match s.walk2 c.ofVd (c.lvl == .u || c.inH) u va with
  | .error .wait => s
  | .error (.fault _) => s.updCore t fun c => { c with tlb := c.tlb.filter fun x => !x.covers c.ofVd va }
  | .ok (x, ups) =>
    if (s.physCheck x.vd x.kind.toNat x.win (x.pa va) u x.ord.toNat).isSome || (store && !s.storeOut t x) then s
    else (s.setBits ups).updCore t fun c => { c with tlb := tlbInsert c.tlb x }
def execWalkComplete (t : Nat) (va : Word) (store : Bool) (s : State) : Out :=
  let c := (s.tileAt t).core
  s.event (decide (c.ofVd < Config.vds) && (s.vd c.ofVd).st != .none && canonical va && (localOff va).isNone)
    (s.walkFor t va store)

/-! ### Wheels -/

/-- The request passes the resource. -/
def State.serve (s : State) (k : Nat × Nat) (a : Access) : State :=
  (s.updAcc a.id fun b => { b with needs := b.needs.drop 1 }).takeSlot k a.vd a.region (s.groupNow k a)

/-- WHEEL_SLOT. -/
def execWheelSlot (ty ix : Nat) (id : Nat) (s : State) : Out := s.onAcc id (s.mayServe (ty, ix)) (s.serve (ty, ix))

/-! ### Requests that stay outstanding (R256) -/

/-- REQUEST_TIMEOUT: MACHINE_CHECK in the VD of the request, which is never performed. -/
def execRequestTimeout (id : Nat) (s : State) : Out :=
  s.onAcc id (fun a => (a.st == .queued || a.st == .arrived) && s.overdue a) fun a => (s.dropAcc id).fence a.vd cMachineCheck

end Sys2Proof.Machine
end

