-- ==== Sys2Proof/Machine/Sched.lean ====
section
/-!
DEFINITION. What the milliner decides by: budgets and free rectangles (R32, R236), gangs (R33, R238), which region
waits for the tiles of which (R43, R237), areas of the hatbox (R247), and the request that a region stop (R244 to
R246).
-/
namespace Sys2Proof.Machine

/-! ### Regions that hold tiles, and the rectangles that are free -/

/-- The VD runs and is not fenced. -/
def State.vdLive (s : State) (vd : Nat) : Bool := (s.vd vd).st == .running

/-- Tiles that regions of a VD under a node hold (R26). -/
def State.heldTiles (s : State) (vd : Nat) (node : Word) : Nat :=
  s.regions.foldl (fun n x =>
    if x.vd = vd && x.place.isSome && x.chain.any (fun c => c.1 == node) then n + x.w * x.h else n) 0

/-- Placing more tiles under each node of the region stays within the budgets (R32 step 1). -/
def State.budgetOk (s : State) (x : Region) (more : List Region) : Bool :=
  x.chain.all fun c =>
    let extra := more.foldl (fun n y => if y.chain.any fun d => d.1 == c.1 then n + y.w * y.h else n) 0
    decide (s.heldTiles x.vd c.1 + extra + x.w * x.h ≤ c.2)

/-- Two rectangles, as column, row, width and height, meet. -/
def rectsMeet (a b : Nat × Nat × Nat × Nat) : Bool :=
  decide (a.1 < b.1 + b.2.2.1) && decide (b.1 < a.1 + a.2.2.1) &&
  decide (a.2.1 < b.2.1 + b.2.2.2) && decide (b.2.1 < a.2.1 + a.2.2.2)

/-- The rectangle of a placed region. -/
def Region.rect (x : Region) : Option (Nat × Nat × Nat × Nat) := x.place.map fun p => (p.1, p.2, x.w, x.h)

/-- A rectangle lies in the VD, off its steward tile (R23). -/
def Vd.fits (v : Vd) (q : Nat × Nat × Nat × Nat) : Bool :=
  let (c, r, w, h) := v.rectOf
  decide (c ≤ q.1) && decide (q.1 + q.2.2.1 ≤ c + w) && decide (r ≤ q.2.1) && decide (q.2.1 + q.2.2.2 ≤ r + h) &&
  !(q.1 == c && q.2.1 == r)

/-- A rectangle is free in the VD, beside others already chosen. -/
def State.rectFree (s : State) (vd : Nat) (taken : List (Nat × Nat × Nat × Nat)) (q : Nat × Nat × Nat × Nat) : Bool :=
  (s.vd vd).fits q && !taken.any (rectsMeet q) && !s.regions.any fun x => x.rect.any (rectsMeet q)

/-- Every place of a shape in the VD. -/
def Vd.places (v : Vd) (w h : Nat) : List (Nat × Nat × Nat × Nat) :=
  let (c, r, vw, vh) := v.rectOf
  ((List.range (vw * vh)).map fun i => (c + i % vw, r + i / vw, w, h)).filter v.fits

/-- A free rectangle for each of a list of regions at once, within the budgets (R32, R33). -/
def State.unitFits (s : State) (taken : List (Nat × Nat × Nat × Nat)) (more : List Region) : List Region → Bool
  | [] => true
  | x :: l => s.budgetOk x more && ((s.vd x.vd).places x.w x.h).any fun q =>
      s.rectFree x.vd taken q && s.unitFits (q :: taken) (x :: more) l

/-! ### Hints (R34; log entry 60) -/

/-- Fields of a hint (R26). -/
def Region.hintMode (x : Region) : Nat := (x.hint.extractLsb' 32 4).toNat
def Region.hintRow (x : Region) : Nat := (x.hint.extractLsb' 24 8).toNat
def Region.hintCol (x : Region) : Nat := (x.hint.extractLsb' 16 8).toNat

/-- The translation of the VA that a hint of mode 1 names, with the bits that its walk sets; a hint whose translation fails
is ignored. -/
def State.hintWalk (s : State) (x : Region) : Except Miss (Nat × List (Nat × Nat)) :=
  let va := x.args.toList.getD (x.hintCol - 1) 0
  if x.hintMode ≠ 1 || !canonical va || (localOff va).isSome then .error (.fault cTranslation)
  else match s.walk2 x.vd (x.lvl == .u) .read va with
  | .error e => .error e
  | .ok (l, ups) =>
    match s.physCheck x.vd l.kind.toNat l.win (l.pa va) .read l.ord.toNat with
    | some e => .error e
    | none => .ok (l.pa va, ups)
/-- The walk of a hint waits for a re-encryption or a re-keying (R268, R272). -/
def State.hintWaits (s : State) (x : Region) : Bool :=
  match s.hintWalk x with
  | .error .wait => true
  | _ => false
/-- The walk of a hint sets its A bits (R195). -/
def State.hintBits (s : State) (x : Region) : State :=
  match s.hintWalk x with
  | .ok q => s.setBits q.2
  | .error _ => s
/-- The die of the felt store that a hint of mode 1 names. -/
def State.hintDie (s : State) (x : Region) : Option Nat :=
  match s.hintWalk x with
  | .ok (pa, _) => if Config.feltBase ≤ pa && pa < Config.tileBase then some ((pa - Config.feltBase) / 2 ^ 30) else none
  | .error _ => none

/-- How far a coordinate is from a span. -/
def gap (c a n : Nat) : Nat := if c < a then a - c else c - (a + n - 1)
/-- How far a tile is from a rectangle. -/
def rectGap (t : Nat) (q : Nat × Nat × Nat × Nat) : Nat := gap (t % 64) q.1 q.2.2.1 + gap (t / 64) q.2.1 q.2.2.2

/-- The tile that a hint of mode 2 or 3 wants to be near. -/
def State.hintTile (s : State) (x : Region) : Option Nat :=
  if x.hintMode = 2 then some (tileNo ((s.vd x.vd).rectOf.1 + x.hintCol) ((s.vd x.vd).rectOf.2.1 + x.hintRow))
  else if x.hintMode = 3 then
    match x.parent with
    | none => some x.parentTile
    | some (q, _) => (s.region q).bind fun y => y.place.map fun p => tileNo (p.1 + x.parentTile % 64) (p.2 + x.parentTile / 64)
  else none

/-- How little a rectangle suits a hint. A hint of mode 1 whose VA does not map to felt store gives no preference, that for one
die included (R34; log entry 60). -/
def State.dislike (s : State) (x : Region) (q : Nat × Nat × Nat × Nat) : Nat :=
  match s.hintDie x, s.hintTile x with
  | some d, _ =>
    let small := x.w ≤ 32 && x.h ≤ 16
    let oneDie := dieOf (tileNo q.1 q.2.1) = dieOf (tileNo (q.1 + x.w - 1) (q.2.1 + x.h - 1))
    (if rectsMeet q (32 * (d % 2), 16 * (d / 2), 32, 16) then 0 else 2) + (if small && !oneDie then 1 else 0)
  | none, some t => rectGap t q
  | none, none => 0

/-- No free rectangle with which the rest of the unit still fits suits the hint of a region better. -/
def State.preferred (s : State) (taken : List (Nat × Nat × Nat × Nat)) (more : List Region) (x : Region) (rest : List Region)
    (q : Nat × Nat × Nat × Nat) : Bool :=
  x.hintMode == 0 || ((s.vd x.vd).places x.w x.h).all fun p =>
    decide (s.dislike x q ≤ s.dislike x p) || !(s.rectFree x.vd taken p && s.unitFits (p :: taken) (x :: more) rest)

/-- Rectangles in the order in which a hint likes them. -/
def State.insertPlace (s : State) (x : Region) (q : Nat × Nat × Nat × Nat) :
    List (Nat × Nat × Nat × Nat) → List (Nat × Nat × Nat × Nat)
  | [] => [q]
  | p :: l => if s.dislike x q ≤ s.dislike x p then q :: p :: l else p :: s.insertPlace x q l
def State.likedFirst (s : State) (x : Region) (l : List (Nat × Nat × Nat × Nat)) : List (Nat × Nat × Nat × Nat) :=
  if x.hintMode = 0 then l else l.foldr (s.insertPlace x) []

/-! ### Gangs (R33, R238) -/

/-- A region that has not ended. -/
def Region.lives (x : Region) : Bool := x.st != .done && x.st != .faulted && x.killed.isNone

/-- The regions that are placed and stopped together with region r: its gang, or itself. -/
def State.unit (s : State) (r : Nat) : List Nat :=
  match s.region r with
  | none => []
  | some x =>
    match x.gang with
    | none => [r]
    | some g => (List.range s.regions.length).filter fun i =>
        (s.region i).any fun y => y.vd == x.vd && y.gang == some g && y.lives

/-- The records of a list of regions. -/
def State.recs (s : State) (l : List Nat) : List Region := l.filterMap s.region

/-- The unit of a queued region may be placed when there is room: every member is queued, and a gang is complete or has
run before. -/
def State.unitReady (s : State) (r : Nat) : Bool :=
  match s.region r with
  | none => false
  | some x =>
    let u := s.unit r
    (u.all s.queue.contains) && (x.gang.isNone || u.length == x.gangSize || (s.recs u).all fun y => y.st == .preempted) &&
    s.vdLive x.vd && !(s.vd x.vd).frozen

/-- No region of a VD has been placed or restored in the last 16 ACLK (R255). -/
def State.rateOk (s : State) (vd : Nat) : Bool :=
  s.regions.all fun x => x.vd != vd || x.gen == 0 || decide (x.since + 16 ≤ s.cycle)

/-- The unit could be placed now. -/
def State.unitPlaceable (s : State) (r : Nat) : Bool := s.unitReady r && s.unitFits [] [] (s.recs (s.unit r))

/-- A saved region that goes before the new ones of its class: not one that yielded or whose quantum ended, which
queues behind the others (R43, R44, R236). -/
def Region.savedFirst (x : Region) : Bool := x.st == .preempted && !x.behind

/-- The unit of queued region a comes before that of b: class, then saved before new, then the order of the queue
(R44, R236). -/
def State.before (s : State) (a b : Nat) : Bool :=
  match s.region a, s.region b with
  | some x, some y =>
    x.vd == y.vd && (decide (x.aged < y.aged) || (x.aged == y.aged &&
      ((x.savedFirst && !y.savedFirst) ||
       (x.savedFirst == y.savedFirst && decide (s.queue.idxOf a < s.queue.idxOf b)))))
  | _, _ => false

/-- Queued region q waits for tiles that region r holds: it could run, finds no free rectangle, and some place of its
shape meets the rectangle of r. -/
def State.waitsFor (s : State) (q r : Nat) : Bool :=
  match s.region q, s.region r with
  | some y, some x =>
    y.vd == x.vd && s.queue.contains q && s.unitReady q && !s.unitFits [] [] (s.recs (s.unit q)) &&
    x.rect.any fun a => ((s.vd y.vd).places y.w y.h).any (rectsMeet a)
  | _, _ => false

/-- A waiting region of the class of the unit or a higher one waits for its tiles (R43, R237). -/
def State.contested (s : State) (r : Nat) : Bool :=
  (s.unit r).any fun m => s.queue.any fun q =>
    (match s.region q, s.region m with
     | some y, some x => decide (y.aged ≤ x.aged)
     | _, _ => false) && s.waitsFor q m

/-! ### The hatbox (R247) -/

/-- Bytes of a save area: the header and a slot for each tile. -/
def Region.areaSize (x : Region) : Nat := 4096 + x.w * x.h * 1179648
/-- Bytes that save areas may take. -/
def Vd.areaSpan (v : Vd) : Nat := bits v.hslots 0 16 * 1183744

/-- Save areas in use. -/
def State.areas (s : State) (vd : Nat) : List (Nat × Nat) := s.regions.filterMap fun x => if x.vd = vd then x.hat else none

/-- The lowest free area of a size. -/
def State.findArea (s : State) (vd size : Nat) : Option Nat :=
  let l := s.areas vd
  let ok (o : Nat) : Bool := decide (o + size ≤ (s.vd vd).areaSpan) && l.all fun a => decide (o + size ≤ a.1) || decide (a.1 + a.2 ≤ o)
  ((0 :: l.map fun a => a.1 + a.2).filter ok).foldl (fun b o => match b with
    | some k => some (min k o)
    | none => some o) none

/-! ### Requests to stop -/

/-- Every member of a list gets a save area and is asked to stop; none when an area is lacking. A freeze completes a
marker pre-emption (R245, R371). -/
def State.askStop (s : State) (k : Stop) : List Nat → Option State
  | [] => some s
  | r :: l =>
    match s.region r with
    | none => s.askStop k l
    | some x =>
      if x.place.isNone then s.askStop k l
      else
        let stop := match x.stop, k with
          | .no, _ => k
          | _, .wave => .wave
          | st, _ => st
        match x.hat with
        | some _ => (s.setRegion r { x with stop := stop }).askStop k l
        | none =>
          match s.findArea x.vd x.areaSize with
          | none => none
          | some o => (s.setRegion r { x with stop := stop, hat := some (o, x.areaSize) }).askStop k l

/-- Marker pre-emption of a unit is requested, when areas are free (R244, R247). -/
def State.askMarker (s : State) (r : Nat) : State := (s.askStop (.marker s.cycle) (s.unit r)).getD s

/-- The regions of a unit will queue behind the others of their class. -/
def State.putBehind (s : State) : List Nat → State
  | [] => s
  | r :: l => (s.updRegion r fun x => { x with behind := true }).putBehind l

/-- Marker pre-emption of a unit that yields or whose quantum has ended (R43, R44, R237). -/
def State.askBehind (s : State) (r : Nat) : State :=
  ((s.askStop (.marker s.cycle) (s.unit r)).map fun s1 => s1.putBehind (s.unit r)).getD s

/-- The FRZs that wait for a region learn how it ended (R371). -/
def State.settleFreeze (s : State) (r code : Nat) : State :=
  { s with frozenBy := s.frozenBy.map fun (q : Nat × Nat × Nat) =>
      if q.2.1 = r && q.2.2 = 0 then (q.1, r, code) else q }

end Sys2Proof.Machine
end

