-- ==== Sys2Proof/Machine/Task.lean ====
section
/-!
DEFINITION. The TASK group (R26 to R43, R368, R399, R403, R412, R443, R444): SPAWN with what the milliner checks,
RUN, EXIT and what completes it, YIELD, and TRAP.
-/
namespace Sys2Proof.Machine

/-! ### Nodes of the RCB tree (R22, R26, R28) -/

/-- The doublewords of a node that the milliner reads. -/
abbrev Node := List Word
def Node.w (d : Node) (i : Nat) : Word := d.getD i 0
def Node.kind (d : Node) : Nat := bits (d.w 3) 0 4
def Node.own (d : Node) (i : Nat) : Bool := (d.w 3).getLsbD (16 + i)
/-- A node at a physical address. -/
def State.node (s : State) (pa : Nat) : Node := (List.range 18).map fun i => w64 (s.rd (pa + 8 * i) 8)

/-- The parent chain of a region: nodes from its parent up, complete or as far as it goes. -/
structure Chain where
  s : State
  nodes : List (Word × Node) := []
  ok : Bool := false
  integrity : Bool := false
  wait : Bool := false

/-- Following parent pointers; want is the kinds that may stand here (R22, R30 status 5). -/
def State.chain (s : State) (vd : Nat) (lvl : Lvl) : Nat → List Nat → Word → Chain
  | 0, _, _ => { s := s }
  | k + 1, want, va =>
    if va.toNat % 256 ≠ 0 then { s := s }
    else match s.milAccess vd lvl .read va 144 with
    | .no => { s := s }
    | .integrity => { s := s, integrity := true }
    | .wait => { s := s, wait := true }
    | .ok pa s1 =>
      let d := s1.node pa
      if !want.contains d.kind then { s := s1 }
      else if d.kind = 0 then { s := s1, nodes := [(va, d)], ok := decide (d.w 0 = 0) }
      else
        let c := s1.chain vd lvl k (if d.kind = 3 then [1] else [0]) (d.w 0)
        { c with nodes := (va, d) :: c.nodes }

/-- Effective values of a node (R28); whether its class is known, a broken chain leaving what it inherits unknown; and
whether its budgets, its class and its policy are out of their ranges. -/
structure Eff where
  quantum : Nat := 1
  share : Nat := 0
  tags : Nat := 0
  tiles : Nat := 65535
  cls : Nat := 0
  policy : Nat := 0
  domain : Nat := 0
  trapv : Word := 0
  clsKnown : Bool := true
  badBudget : Bool := false
  badCls : Bool := false
  badPolicy : Bool := false
  deriving DecidableEq, Repr

/-- A value that the node has or inherits is out of its range. -/
def Eff.bad (e : Eff) : Bool := e.badBudget || e.badCls || e.badPolicy

/-- The fields of a node as its own. -/
def Node.fields (d : Node) : Eff :=
  { quantum := bits (d.w 11) 48 16, share := bits (d.w 11) 32 16, tags := bits (d.w 11) 16 16, tiles := bits (d.w 11) 0 16
    cls := bits (d.w 3) 12 4, policy := bits (d.w 13) 16 2, domain := bits (d.w 13) 0 16, trapv := d.w 14
    badBudget := decide (1000 < bits (d.w 11) 32 16) || decide (4096 < bits (d.w 11) 16 16)
    badCls := decide (3 < bits (d.w 3) 12 4), badPolicy := bits (d.w 13) 16 2 == 3 }

/-- The effective values of a node under its parent's (R28). -/
def Node.eff (d : Node) (p : Eff) : Eff :=
  let f := d.fields
  let b := d.own 0
  { quantum := if b then min f.quantum p.quantum else p.quantum
    share := if b then min f.share p.share else p.share
    tags := if b then min f.tags p.tags else p.tags
    tiles := if b then min f.tiles p.tiles else p.tiles
    cls := if d.own 1 then f.cls else p.cls
    policy := if d.own 2 then f.policy else p.policy
    domain := if d.own 2 then f.domain else p.domain
    trapv := if d.own 3 then f.trapv else p.trapv
    clsKnown := d.own 1 || p.clsKnown
    badBudget := if b then f.badBudget else p.badBudget
    badCls := if d.own 1 then f.badCls else p.badCls
    badPolicy := if d.own 2 then f.badPolicy else p.badPolicy }

/-- What stands for the parent of a node whose chain is broken: nothing inherited is judged (R30). -/
def noParent : Eff := { quantum := 65535, share := 1000, tags := 4096, clsKnown := false }

/-- Effective values along a chain, lowest node first; the chain is whole, and its last node is the VD node, or its last
node is that whose parent pointer breaks it. -/
def effs (whole : Bool) : List (Word × Node) → List Eff
  | [] => []
  | [(_, d)] => [if whole then d.fields else d.eff noParent]
  | (_, d) :: l =>
    match effs whole l with
    | [] => []
    | p :: r => d.eff p :: p :: r

/-- The class of some node ranks above its parent's (R28). -/
def ranksUp : List Eff → Bool
  | x :: y :: l => (x.clsKnown && y.clsKnown && decide (x.cls < y.cls)) || ranksUp (y :: l)
  | _ => false

/-! ### What the milliner accepts (R30, R31) -/

/-- Who spawns: its tile, its region, the plan under which a caller in U mode must stay. -/
structure Caller where
  vd : Nat
  lvl : Lvl
  parentTile : Nat
  parent : Option (Nat × BitVec 16)
  user : Bool
  plan : Option Word

/-- Shape, hint and notify fields of a region node. -/
def Node.width (d : Node) : Nat := bits (d.w 4) 0 8
def Node.height (d : Node) : Nat := bits (d.w 4) 8 8
def Node.hintMode (d : Node) : Nat := bits (d.w 4) 32 4
def Node.hintCol (d : Node) : Nat := bits (d.w 4) 16 8
def Node.hintRow (d : Node) : Nat := bits (d.w 4) 24 8
def Node.notifyOff (d : Node) : Nat := bits (d.w 15) 0 20

/-- Regions of a VD whose notify write has not been performed (R30 status 7, R249). -/
def State.pendingNotifies (s : State) (vd : Nat) : Nat :=
  s.regions.foldl (fun n x => if x.vd = vd then n + x.notifies.length + (if x.lives || x.killed.isSome then 1 else 0) else n) 0
    + s.notifyDue.countP fun q => q.1 == vd

/-- The gang node above a region node, when its parent pointer leads to one (R22). -/
def Chain.gang (c : Chain) : Option (Word × Node) :=
  match c.nodes with
  | (va, g) :: _ => if g.kind == 3 then some (va, g) else none
  | [] => none

/-- The status of R30 for a region node d at rcb with its chain. A chain that breaks R22 is judged up to where it breaks,
and gives status 5 when nothing before it fails. A gang's members are those that have not ended (log entry 83). -/
def State.spawnStatus (s : State) (k : Caller) (d : Node) (c : Chain) : Nat :=
  let v := s.vd k.vd
  let (_, _, vw, vh) := v.rectOf
  let l := effs c.ok (((0 : Word), d) :: c.nodes)
  let e := l.headD {}
  let gnode := c.gang
  let gang := gnode.map Prod.fst
  let size := match gnode with
    | some (_, g) => bits (g.w 17) 32 8
    | none => 0
  let quantum := if gnode.isSome then (l.getD 1 {}).quantum else e.quantum
  let plan := (c.nodes.find? fun n => n.2.kind == 1).map Prod.fst
  let members := s.regions.filter fun x => x.vd == k.vd && x.gang.isSome && x.gang == gang && x.lives
  let w := d.width
  let h := d.height
  if d.kind ≠ 2 || 3 < bits (d.w 3) 12 4 || 3 < d.hintMode || bits (d.w 13) 16 2 = 3 || bits (d.w 3) 32 32 ≠ 0 ||
      bits (d.w 3) 20 12 ≠ 0 || bits (d.w 3) 4 4 ≠ 0 || bits (d.w 4) 36 28 ≠ 0 || bits (d.w 13) 18 46 ≠ 0 ||
      bits (d.w 15) 20 44 ≠ 0 || bits (d.w 17) 40 24 ≠ 0 || bits (d.w 17) 0 32 ≠ 0 || e.bad ||
      (2 ≤ e.cls && (quantum = 0 || e.quantum = 0)) || (gnode.isSome && (size = 0 || 64 < size)) ||
      (d.hintMode = 1 && (d.hintCol = 0 || 4 < d.hintCol || d.hintRow ≠ 0)) ||
      (d.hintMode = 2 && (vw ≤ d.hintCol || vh ≤ d.hintRow)) ||
      bits (d.w 5) 0 3 ≠ 0 || bits e.trapv 0 3 ≠ 0 || d.notifyOff % 8 ≠ 0 then 1
  else if bits (d.w 3) 8 4 ≠ 0 && bits (d.w 3) 8 4 ≠ 6 then 2
  else if w = 0 || h = 0 || vw < w || vh < h || (w = vw && h = vh) ||
      vw * vh < members.foldl (fun n x => n + x.w * x.h) 0 + (if gnode.isSome then w * h else 0) then 3
  else if ranksUp l || (e.clsKnown && members.any fun x => x.cls != e.cls) then 4
  else if !c.ok || (k.user && plan ≠ k.plan) then 5
  else if gnode.isSome && size ≤ members.length then 6
  else if 1024 ≤ (s.queue.countP fun q => (s.region q).any fun x => x.vd == k.vd) || 4096 ≤ s.pendingNotifies k.vd then 7
  else 0

/-- The record of an accepted region. -/
def State.newRegion (s : State) (k : Caller) (rcb : Word) (d : Node) (c : Chain) : Region :=
  let all := (rcb, d) :: c.nodes
  let l := effs c.ok all
  let e := l.headD {}
  let gnode := c.gang
  { vd := k.vd, rcb := rcb, lvl := k.lvl
    plan := ((c.nodes.find? fun n => n.2.kind == 1).map Prod.fst).getD 0
    gang := gnode.map Prod.fst
    gangSize := (match gnode with
      | some (_, g) => bits (g.w 17) 32 8
      | none => 0)
    cls := e.cls, aged := e.cls, policy := e.policy, domain := e.domain, trapv := e.trapv, w := d.width, h := d.height
    entry := d.w 5, args := #v[d.w 6, d.w 7, d.w 8, d.w 9], image := d.w 10
    quantum := if gnode.isSome then (l.getD 1 {}).quantum else e.quantum
    share := e.share, tags := e.tags, chain := (all.map Prod.fst).zip (l.map Eff.tiles)
    notifyOff := d.notifyOff, notifyVal := d.w 16, parentTile := k.parentTile, parent := k.parent
    hint := (d.w 4).setWidth 36, quantumAt := s.cycle }

/-- An accepted region joins its queue; a save area that an earlier run of its RCB kept is free again (R29). -/
def State.accept (s : State) (x : Region) : State :=
  let n := s.regions.length
  let s1 : State := { s with
    regions := (s.regions.map fun y => if y.vd = x.vd && y.rcb == x.rcb && y.st == .faulted then { y with hat := none } else y)
      ++ [x]
    queue := s.queue ++ [n] }
  s1.setRState n .queued

/-! ### SPAWN (R41, R403, R444) -/

/-- The task in focus as a caller of the milliner. -/
def State.caller (s : State) : Caller :=
  let c := s.core
  let user := c.lvl == .u || c.inH
  let lvl : Lvl := if user then .u else .s
  match s.regionAt s.cur with
  | some r =>
    match s.region r with
    | some x => ⟨c.vd, lvl, x.offOf s.cur, some (r, x.gen), user, some x.plan⟩
    | none => ⟨c.vd, lvl, s.cur, none, user, none⟩
  | none => ⟨c.vd, lvl, s.cur, none, user, none⟩

/-- The RCB of a SPAWN: checked for read, then for write (R41). -/
def State.rcbSpot (s : State) (va : Word) : Checked :=
  if !canonical va then .fault cTranslation
  else if (localOff va).isSome then .fault cPermission
  else match s.translate s.me .read va with
  | .error .wait => .wait
  | .error (.fault e) => .fault e
  | .ok (_, s1) =>
    match s1.translate s1.me .write va with
    | .error .wait => .wait
    | .error (.fault e) => .fault e
    | .ok (p, s2) => if p.kind ≠ 0 || p.win ≠ 0 then .fault cPermission else .ok p s2

/-- SPAWN. With no dispatcher the VD spawns no region, and the SPAWN waits for the next START (R37; log entry 81). -/
def spawnOp (d a : GReg) (s : State) : Act :=
  let va := s.g a
  if va.toNat % 256 ≠ 0 then fault s cMisaligned va
  else checked s va (s.rcbSpot va) fun p s1 =>
    if !s1.drained || !s1.hasDispatcher s1.core.vd then .wait s
    else if s1.anyBad p.pa 144 then fault s cIntegrity va
    else if s1.anyStalled p.pa 144 then .wait s
    else
      let n := s1.node p.pa
      let k := s1.caller
      let c := s1.chain k.vd k.lvl 3 [1, 3] (n.w 0)
      if c.integrity then fault s cIntegrity va
      else if c.wait then .wait s
      else
        let st := c.s.spawnStatus k n c
        if st = 0 then (c.s.accept (c.s.newRegion k va n c)).retG d 0 else c.s.retG d (w64 st)
def execSpawn (c : Guard) (d a : GReg) (s : State) : Out := s.go .us false c (spawnOp d a)

/-! ### RUN (R35, R36, R42, R399) -/

/-- A worker starts on a tile of the region (R36, R54). -/
def State.startWorker (s : State) (r : Nat) (x : Region) (t off : Nat) (l : List Word) : State :=
  let w (i : Nat) : Word := l.getD i 0
  s.updCore t fun c => c.begin (w 0) #v[w 1, w 2, w 3, w 4] .u x.trapv x.aged
    { role := .worker, vd := x.vd, region := r, block := w64 off, notifyOff := bits (w 6) 16 20, notifyVal := w 5
      caller := x.offOf s.cur }

/-- RUN. Its statuses are tried in the order of their numbers (log entry 23). -/
def runOp (d a : GReg) (s : State) : Act :=
  let va := s.g a
  match localOff va with
  | none => fault s cPermission va
  | some off =>
    if Config.tileStore ≤ off then fault s cPermission va
    else if va.toNat % 64 ≠ 0 then fault s cMisaligned va
    else if !s.drained then .wait s
    else
      let l := (List.range 8).map fun i => w64 (s.rd (localPa s.cur off + 8 * i) 8)
      let w6 : Word := l.getD 6 0
      let col := bits w6 0 6
      let row := bits w6 8 6
      match s.regionAt s.cur with
      | none => s.retG d 1
      | some r =>
        match s.region r with
        | none => s.retG d 1
        | some x =>
          let t := x.tileOf (tileNo col row)
          if x.w ≤ col || x.h ≤ row || (col = 0 && row = 0) then s.retG d 1
          else if (s.tileAt t).core.task.isSome then s.retG d 2
          else if bits w6 36 28 ≠ 0 || bits w6 14 2 ≠ 0 || bits w6 6 2 ≠ 0 || bits (l.getD 0 (0 : Word)) 0 3 ≠ 0 ||
              bits w6 16 3 ≠ 0 then s.retG d 3
          else (s.startWorker r x t off l).retG d 0
def execRun (c : Guard) (d a : GReg) (s : State) : Out := s.go .us false c (runOp d a)

/-! ### EXIT (R37, R368) -/

/-- Every access of the task of tile t has been performed and every engine operation that it forked is complete. -/
def State.exitReady (s : State) (t : Nat) : Bool :=
  (s.accs.all fun a => a.party != .task t || a.isPerformed) && !s.threads.any fun x => x.tile == t

/-- EXIT: the task goes on in its completion. -/
def exitOp (a : GReg) (s : State) : Act := .wait (s.setCore { s.core with status := .exiting ((s.g a).setWidth 32) })
def execExit (c : Guard) (a : GReg) (s : State) : Out := s.go .us false c (exitOp a)

/-- The exit code of a core whose task of a role has executed EXIT and is ready to end. -/
def State.exiting (s : State) (t : Nat) (role : Role) : Option (BitVec 32 × Task) :=
  match (s.tileAt t).core.status, (s.tileAt t).core.task with
  | .exiting code, some k => if k.role = role && s.exitReady t then some (code, k) else none
  | _, _ => none

/-- A worker's exit: its code into the run block, then the notify word, and the tile has no task. -/
def State.endWorker (s : State) (t : Nat) (code : BitVec 32) (k : Task) (x : Region) : State :=
  let home := windowPa (x.tileOf k.caller)
  let s1 := s.updCore t fun c => { c with status := .idle, task := none, pend := [] }
  (s1.commit (home + k.block.toNat + 0x38) 8 code.toNat (fullMask 8)).commit (home + k.notifyOff) 8 k.notifyVal.toNat
    (fullMask 8)

/-- The dispatcher ends, by EXIT or by a fault; for a fault the host is told (R37, R282, R445). -/
def State.endDispatcher (s : State) (t : Nat) (k : Task) : State :=
  let s1 := s.updCore t fun c => { c with status := .idle, task := none, pend := [] }
  match k.fell with
  | some cause => s1.status (fnOf k.vd) false true cause.toNat
  | none => s1

/-- WORKER_EXIT_COMPLETE: the exit of a task that is not the lead of a region: a worker, or the dispatcher. -/
def execWorkerExitComplete (t : Nat) (s : State) : Out :=
  match s.exiting t .worker, s.exiting t .dispatcher with
  | some (code, k), _ =>
    (match s.region k.region with
     | some x => .next (s.endWorker t code k x)
     | none => .next s)
  | none, some (_, k) => .next (s.endDispatcher t k)
  | none, none => .next s

/-- The workers of a region stop and its fabric is discarded (R37). -/
def State.stillRegion (s : State) (x : Region) : State :=
  let still (t : Nat) (y : Tile) : Tile :=
    if !x.covers t then y
    else { core := if t = x.crown then y.core else { y.core with status := if y.core.task.isSome then .stopped else .idle }
           fab := {} }
  { s with tile := still s.cur s.tile, parked := s.parked.map fun p => (p.1, still p.1 p.2) }

/-- The end of a region: generation, tiles, RCB with the exit code and fault cause 0, notify write (R26, R37, R38). -/
def State.endRegion (s : State) (r : Nat) (code : BitVec 32) : State :=
  match s.region r with
  | none => s
  | some x =>
    let s1 := (s.writeTime r).vacate r
    let s2 := (s1.rcbWrite x 0x98 (code.setWidth 64) 0xFFFFFFFFFF).setRState r .done
    (s2.updRegion r fun y => { y with gen := y.gen + 1, exit := code, stop := .no, hat := none }).notify r |>.settleFreeze r 1

/-- REGION_EXIT_COMPLETE: the lead task has ended; the region stops, then ends once its writes are performed and its
engine operations are complete. A fault of the region, and the save of its fault domain, come first (R29). -/
def execRegionExitComplete (r : Nat) (s : State) : Out :=
  match s.region r with
  | none => .next s
  | some x =>
    if x.place.isNone || x.fault.isSome || x.domainSave.isSome then .next s
    else match s.exiting x.crown .lead with
    | none => .next s
    | some (code, _) =>
      let s1 := s.stillRegion x
      .next (if s.writesOut r || s.threads.any (fun t => t.region == some r) || s.endWaits x then s1 else s1.endRegion r code)

/-! ### YIELD (R43, R443) and TRAP (R412) -/

/-- The quantum of a unit ends, and its hold limit counts anew. -/
def State.restartQuantum (s : State) : List Nat → State
  | [] => s
  | r :: l => (s.updRegion r fun x => { x with quantumAt := s.cycle, yieldAt := s.cycle }).restartQuantum l

/-- YIELD. -/
def yieldOp (s : State) : Act :=
  match s.regionAt s.cur with
  | none => .retire s
  | some r =>
    let s1 := s.restartQuantum (s.unit r)
    .retire (if s1.contested r then s1.askBehind r else s1)
def execYield (c : Guard) (s : State) : Out := s.go .us false c yieldOp

/-- TRAP: it retires, then raises TRAP at the next pc. -/
def trapOp (code : BitVec 24) (s : State) : Act := .trap (s.setCore s.core.retire) cTrap (code.setWidth 64) 0
def execTrap (c : Guard) (code : BitVec 24) (s : State) : Out := s.go .us false c (trapOp code)

end Sys2Proof.Machine
end

