-- ==== Sys2Proof/Machine/Priv.lean ====
section
/-!
DEFINITION. The PRIV group: BKPT (R352), SRD and SWR (R49, R52, R404, R405), ERET (R259, R367), TLBI (R197 to R199,
R410), DIRTY (R200, R201, R364), SCRUB (R401), FRZ (R370, R371), and WKEY (R273, R274, R439).
-/
namespace Sys2Proof.Machine

/-- BKPT: EPC is its own address. -/
def bkptOp (code : BitVec 24) (s : State) : Act := fault s cBreakpoint (code.setWidth 64)
def execBkpt (c : Guard) (code : BitVec 24) (s : State) : Out := s.go .all false c (bkptOp code)

/-! ### SRD and SWR -/

/-- SRD: the level that the register asks for is judged with that of the instruction, whatever the guard (R55). -/
def srdOp (d : GReg) (n : BitVec 12) (s : State) : Act :=
  let k := n.toNat
  if (k = 0x011 || k = 0x050) && !s.core.stepsDone then .wait s
  else s.retG d (s.srRead s.cur k)
def execSrd (c : Guard) (d : GReg) (n : BitVec 12) (s : State) : Out := s.go (srModes n.toNat) false c (srdOp d n)

/-- SWR: a value that the register does not take is judged after the guard (R315 step 7; log entry 77). -/
def swrOp (n : BitVec 12) (a : GReg) (s : State) : Act :=
  let k := n.toNat
  let x := s.g a
  if srReadOnly s.core.lvl k then .retire s
  else if !srValueOk k x then fault s cIllegalOperand s.ir
  else s.ownSrWrite k x
def execSwr (c : Guard) (n : BitVec 12) (a : GReg) (s : State) : Out := s.go (srModes n.toNat) false c (swrOp n a)

/-! ### ERET -/

/-- ERET: a release at tile scope, then the shadow comes back; the RPST that comes back stays (R259, R367). -/
def eretOp (s : State) : Act := if s.released .tile then .wait (s.setCore s.core.leave) else .wait s
def execEret (c : Guard) (s : State) : Out := s.go .handler false c eretOp

/-! ### TLBI -/

/-- The VD on which the VA forms act (R197). -/
def State.tlbiVd (s : State) : Nat := if s.core.lvl = .h then s.core.lastVd else s.core.ofVd

/-- A TLBI: the release at system scope, the removal, and the wait for its acknowledgement. -/
def tlbi (vd : Nat) (f : Tlb → Bool) (s : State) : Act :=
  if s.drained then (s.dropTlb vd f).awaitVd vd else .wait s

/-- A page holds an address. -/
def pageHas (base size : Nat) (a : Word) : Bool := decide (base ≤ a.toNat % 2 ^ 48) && decide (a.toNat % 2 ^ 48 < base + size)

/-- TLBI.VA. -/
def tlbiVaOp (a : GReg) (s : State) : Act := tlbi s.tlbiVd (fun e => pageHas e.vbase e.vsize (s.g a)) s
def execTlbiVa (c : Guard) (a : GReg) (s : State) : Out := s.go .sh false c (tlbiVaOp a)

/-- TLBI.ALL. -/
def tlbiAllOp (s : State) : Act := tlbi s.tlbiVd (fun _ => true) s
def execTlbiAll (c : Guard) (s : State) : Out := s.go .sh false c tlbiAllOp

/-- The VD that an S2 form names: none where it names no existing one (R410). -/
def State.namedVd (s : State) (x : Word) : Option Nat :=
  if x.toNat < Config.vds && (s.vd x.toNat).st != .none then some x.toNat else none
/-- An S2 form. -/
def tlbiS2 (d : GReg) (f : Tlb → Bool) (s : State) : Act :=
  match s.namedVd (s.g d) with
  | none => .retire s
  | some vd => tlbi vd f (s.setCore { s.core with lastVd := vd })

/-- TLBI.S2. -/
def tlbiS2Op (d a : GReg) (s : State) : Act :=
  tlbiS2 d (fun e => decide (e.ibase ≤ (s.g a).toNat) && decide ((s.g a).toNat < e.ibase + e.isize)) s
def execTlbiS2 (c : Guard) (d a : GReg) (s : State) : Out := s.go .h false c (tlbiS2Op d a)

/-- TLBI.S2ALL. -/
def execTlbiS2all (c : Guard) (d : GReg) (s : State) : Out := s.go .h false c (tlbiS2 d fun _ => true)

/-- What a waiting invalidation waits for is done. -/
def State.tlbiDone (s : State) (t : Nat) : Bool :=
  match (s.tileAt t).core.status with
  | .tlbi ids ths =>
    s.allPerformed ids && (s.threads.all fun x => !ths.contains x.id) && s.posted.all fun p => !ids.contains p.id
  | _ => false

/-- TLBI_ACK: the instruction retires. -/
def execTlbiAck (t : Nat) (s : State) : Out := s.event (s.tlbiDone t) (s.onCore t State.resumeRetire)

/-! ### DIRTY -/

/-- The stage-2 leaf that maps a VD-physical address, whatever it permits; none where nothing does. A table block that
fails verification is INTEGRITY at the address of the descriptor (R270), and one under re-encryption a wait. -/
def State.leaf2 (s : State) (eval : Word) (vd inp : Nat) : Except Halt (Option Leaf) :=
  let root := (s.vd vd).s2root
  if !root.getLsbD 0 || 2 ^ 48 ≤ inp then .ok none
  else match s.walk (fun a => .ok (a, [])) cStage2Translation false inp 4 (bits root 12 36 * 4096) with
    | .ok (l, _) => .ok (some l)
    | .error .wait => .error .wait
    | .error (.fault c) => if c = cIntegrity then .error (.trap c eval) else .ok none

/-- The leaves of n units of 4 KiB. -/
def State.leaves (s : State) (eval : Word) (vd start : Nat) : Nat → Except Halt (List (Option Leaf))
  | 0 => .ok []
  | n + 1 =>
    match s.leaf2 eval vd start with
    | .error e => .error e
    | .ok x =>
      match s.leaves eval vd (start + 4096) n with
      | .error e => .error e
      | .ok l => .ok (x :: l)

/-- An address lies inside a stage-2 page larger than 4 KiB, past its start (R200). -/
def insidePage (inp : Nat) (l : Option Leaf) : Bool := l.any fun l => decide (4096 < l.size) && inp % l.size != 0

/-- For each unit, the page that holds it, the place of the entry, and its D. -/
def unitsOf (start : Nat) : List (Option Leaf) → List (Option (Nat × Nat × Bool))
  | [] => []
  | x :: r => (x.map fun l => (start - start % l.size, l.loc, l.w.getLsbD 7)) :: unitsOf (start + 4096) r

/-- D is cleared in the entries of a list. -/
def State.clearDirty (s : State) : List (Option (Nat × Nat × Bool)) → State
  | [] => s
  | some (_, loc, true) :: r => (s.commit loc 1 0 0x80).clearDirty r
  | _ :: r => s.clearDirty r

/-- The bitmap as a number, and how many units are dirty. -/
def bitmapOf (dirty : List Nat) : List (Option (Nat × Nat × Bool)) → Nat × Nat
  | [] => (0, 0)
  | u :: r =>
    let (m, n) := bitmapOf dirty r
    if u.any fun q => dirty.contains q.1 then (2 * m + 1, n + 1) else (2 * m, n)

/-- The doublewords of the bitmap that lie in the core's own slots are written at once (R59). -/
def State.putOwn (s : State) (x : Nat) : List (Spot × Word × Nat × Nat) → State
  | [] => s
  | (p, _, _, o) :: r =>
    (if p.ignored s.core.lvl then s else s.slotWrite s.cur (tileOfPa p.pa).2 (w64 (x / 2 ^ (8 * o)))).putOwn x r

/-- The bitmap is stored as a store of the core, and the instruction waits until it has been performed, with its result at
hand (R364). -/
def State.storeBitmap (s : State) (x k : Nat) (ps : List (Spot × Word × Nat × Nat)) : Act :=
  let own := ps.filter fun q => ownSlots s.cur q.1.pa
  let qs := ps.filter fun q => !ownSlots s.cur q.1.pa
  ((s.putOwn x own).enterStores .plain .tile x (2 ^ (64 * ps.length) - 1) qs).awaitParts
    { parts := pendParts s.nextId qs, got := k }

/-- DIRTY: the descriptor is read as loads of the core; the removal and the wait of the first two steps are repeated until
nothing is out; the third is one turn; then the bitmap is stored (R201, R206, R364). -/
def dirtyOp (d a : GReg) (s : State) : Act :=
  if s.core.readings.isEmpty && !s.drained then .wait s
  else match s.core.readings[1]? with
  | some r => if r.parts.isEmpty then s.retG d (w64 r.got) else .wait s
  | none =>
  s.reading 0 .plain .tile 8 false (dwordParts (s.g a) 4) fun s1 desc =>
    let w (i : Nat) : Word := (dwordsOf 4 desc).getD i 0
    let vd := (w 0).toNat
    let start := (w 1).toNat
    let n := (w 2).toNat
    if Config.vds ≤ vd || (s1.vd vd).st == .none || start % 4096 ≠ 0 || n = 0 || 262144 < n || bits (w 3) 0 3 ≠ 0 then
      s1.retG d (BitVec.allOnes 64)
    else match s1.leaves (s.g a) vd start (n + 1) with
    | .error e => e.act s
    | .ok ls =>
    if insidePage start (ls.headD none) || insidePage (start + 4096 * n) (ls.getLastD none) then s1.retG d (BitVec.allOnes 64)
    else match s1.checkParts .write 8 false (dwordParts (w 3) ((n + 63) / 64)) with
    | .error e => e.act s
    | .ok (ps, s2) =>
      let s3 := s2.dropTlb vd fun e => decide (e.ibase < start + 4096 * n) && decide (start < e.ibase + e.isize)
      if !(s3.outstanding vd).isEmpty || !(s3.threadsOut vd).isEmpty then .wait s3
      else
        let us := unitsOf start (ls.take n)
        let dirty := (us.filterMap fun u => u.filter fun q => q.2.2).map Prod.fst
        let (m, k) := bitmapOf dirty us
        (s3.clearDirty us).storeBitmap m k ps
def execDirty (c : Guard) (d a : GReg) (s : State) : Out := s.go .h false c (dirtyOp d a)

/-! ### SCRUB -/

/-- SCRUB. -/
def scrubOp (d a : GReg) (s : State) : Act :=
  let x := s.g a
  let col := bits x 0 6
  let row := bits x 8 6
  let w := bits x 16 6 + 1
  let h := bits x 24 6 + 1
  let ts := rectTiles col row w h
  if bits x 30 34 ≠ 0 || bits x 22 2 ≠ 0 || bits x 14 2 ≠ 0 || bits x 6 2 ≠ 0 || 64 < col + w || 64 < row + h then s.retG d 1
  else if ts.any fun t => (s.regionAt t).isSome || (s.tileAt t).core.task.isSome then s.retG d 2
  else (s.scrubAll ts).retG d 0
def execScrub (c : Guard) (d a : GReg) (s : State) : Out := s.go .h false c (scrubOp d a)

/-! ### FRZ -/

/-- How the regions of the FRZ of the core in focus stand: 0 waits, 1 saved, 2 lost. -/
def State.myFreezes (s : State) : List Nat := (s.frozenBy.filter fun q => q.1 == s.cur).map fun q => q.2.2

/-- The freeze of a list of regions begins; none when a save area is lacking. -/
def State.beginFreeze (s : State) (l : List Nat) : Option State :=
  (s.askStop .wave l).map fun s1 =>
    ({ s1 with frozenBy := s1.frozenBy ++ (l.filterMap fun r => (s1.region r).bind fun x =>
        if x.place.isSome then some (s.cur, r, 0) else none) } : State).setCore
    { s1.core with freezing := true, opWord := s1.ir }

/-- A FRZ whose regions are all dealt with writes its status. -/
def State.endFreeze (s : State) (d : GReg) (st : Word) : Act :=
  (({ s with frozenBy := s.frozenBy.filter fun q => q.1 != s.cur } : State).setCore
    { s.core with freezing := false }).retG d st

/-- The region that FRZ names: placed or running, of the given RCB (R370 status 2). -/
def State.frzRegion (s : State) (vd : Nat) (va : Word) : Option Nat :=
  let ok (lvl : Lvl) : Bool := match s.milAccess vd lvl .read va 64 with
    | .ok pa s1 => (s1.node pa).kind == 2
    | _ => false
  if va.toNat % 256 ≠ 0 || !(ok .u || ok .s) then none
  else (List.range s.regions.length).find? fun r => (s.region r).any fun x =>
    x.vd == vd && x.rcb == va && (x.st == .placed || x.st == .running)

/-- The reading of the RCB that FRZ names waits (R268, R272). -/
def State.frzWaits (s : State) (vd : Nat) (va : Word) : Bool :=
  va.toNat % 256 = 0 && [Lvl.u, Lvl.s].any fun lvl => match s.milAccess vd lvl .read va 64 with
    | .wait => true
    | _ => false

/-- The RCB that FRZ names, or a table above it, fails verification (R270). -/
def State.frzIntegrity (s : State) (vd : Nat) (va : Word) : Bool :=
  va.toNat % 256 = 0 && [Lvl.u, Lvl.s].any fun lvl => match s.milAccess vd lvl .read va 64 with
    | .integrity => true
    | _ => false

/-- FRZ. -/
def frzOp (d a : GReg) (s : State) : Act :=
  let x := s.g d
  if !s.drained then .wait s
  else if s.core.freezing then
    if s.myFreezes.contains 0 then .wait s else s.endFreeze d (if s.myFreezes.contains 2 then 6 else 0)
  else match s.namedVd x with
  | none => s.retG d 1
  | some vd =>
    if s.frzWaits vd (s.g a) then .wait s
    else if s.frzIntegrity vd (s.g a) then fault s cIntegrity (s.g a)
    else match s.frzRegion vd (s.g a) with
    | none => s.retG d 2
    | some r =>
      if (s.vd vd).st = .fenced then s.retG d 5
      else match s.beginFreeze (s.unit r) with
      | none => s.retG d 4
      | some s1 => .wait s1
def execFrz (c : Guard) (d a : GReg) (s : State) : Out := s.go .h false c (frzOp d a)

/-- PREEMPT: a dispatcher that goes on enters its handler, at the address where it would have gone on, with the step at
which a macro-op of it stopped (R109, R261); an arrival at a barrier stays (R350). -/
def Core.preempted (c : Core) : Core :=
  let b := match c.resume with
    | .barrier n => some (n, c.pc, false)
    | _ => c.barAt
  { c.enter cPreempt 0 c.pc (if c.estep.getLsbD 63 then c.estep else 0) with status := .run, resume := .idle, barAt := b }

/-- A thaw: the VD's regions may be placed again, and a stopped dispatcher goes on, in its handler when it has one and
does not end (R261, R371); that of a fenced VD does not (R262). -/
def State.thaw (s : State) (vd : Nat) : State :=
  let s1 := s.updVd vd fun v => { v with frozen := false }
  if (s.vd vd).st = .fenced then s1
  else s1.updCore (s.vd vd).steward fun c =>
    if c.status == .stopped && c.task.any (fun k => k.role == .dispatcher) then
      (if c.trapv ≠ 0 && c.task.all (fun k => k.fell.isNone) then c.preempted
       else { c with status := c.resume, resume := .idle })
    else c

/-- The dispatcher of a VD stands still: it has stopped, or there is none; and no engine thread of the VD has anything left
to do (R371). -/
def State.dispatcherStill (s : State) (vd : Nat) : Bool :=
  (!s.hasDispatcher vd || (s.tileAt (s.vd vd).steward).core.status == .stopped) && (s.threadsOut vd).isEmpty

/-- FRZ.VD. -/
def frzVdOp (d a : GReg) (s : State) : Act :=
  let x := s.g a
  let vd := bits x 0 5
  let placed := (s.regionsOf vd).filter fun r => (s.region r).any fun y => y.place.isSome
  if !s.drained then .wait s
  else if s.core.freezing then
    if !s.myFreezes.contains 0 && s.dispatcherStill vd then s.endFreeze d 0 else .wait s
  else if bits x 9 55 ≠ 0 || bits x 5 3 ≠ 0 || (s.vd vd).st = .none then s.retG d 1
  else if (s.vd vd).frozen != x.getLsbD 8 then s.retG d 3
  else if (s.vd vd).st = .fenced then s.retG d 5
  else if x.getLsbD 8 then (s.thaw vd).retG d 0
  else match s.beginFreeze placed with
  | none => s.retG d 4
  | some s1 => .wait (s1.updVd vd fun v => { v with frozen := true })
def execFrzVd (c : Guard) (d a : GReg) (s : State) : Out := s.go .h false c (frzVdOp d a)

/-- FRZ_VD_THAW. -/
def execFrzVdThaw (vd : Fin 32) (s : State) : Out := s.event (s.vd vd).frozen (s.thaw vd)

end Sys2Proof.Machine
end

