-- ==== Sys2Proof/Machine/Wkey.lean ====
section
/-!
DEFINITION. WKEY (R271 to R275, R439): offer, acceptance, installation, closing and freeing of share windows.
-/
namespace Sys2Proof.Machine

/-- Window n. -/
def State.win (s : State) (n : Nat) : Window := s.wins.toList.getD n {}
def State.setWin (s : State) (n : Nat) (x : Window) : State := { s with wins := s.wins.setIfInBounds n x }

/-- A WKEY begins: the release at system scope, and no other WKEY in progress (R274, R439). -/
def wkeyTurn (s : State) (k : State → Act) : Act :=
  if (s.core.readings.isEmpty && !s.drained) || s.wkey.any (fun t => t != s.cur) then .wait s else k s

/-- The four doublewords of a descriptor, by loads of the task (R206, R273). -/
def wkeyDescriptor (s : State) (a : GReg) (k : State → (Nat → Word) → Act) : Act :=
  s.reading 0 .plain .tile 8 false (dwordParts (s.g a) 4) fun s1 x => k s1 fun i => (dwordsOf 4 x).getD i 0

/-- The window that g[A] names (R274 status 1). -/
def winNumber (x : Word) : Option Nat := if 1 ≤ x.toNat && x.toNat ≤ 96 then some x.toNat else none

/-! ### OFFER and ACCEPT -/

/-- The physical granules of a range of VD-physical units of 4 KiB with the leaves that map them, in their order; none
where a unit is not mapped to HBM with WIN 0. -/
def granulesOf (start : Nat) (l : List Nat) : List (Option Leaf) → Option (List Nat)
  | [] => some l
  | none :: _ => none
  | some x :: r =>
    if x.kind ≠ 0 || x.win ≠ 0 || Config.hbmSize ≤ x.out start then none
    else
      let g := granuleOf (x.out start)
      granulesOf (start + 4096) (if l.contains g then l else l ++ [g]) r

/-- The lowest free window number. -/
def State.freeWin (s : State) : Option Nat := ((List.range 97).drop 1).find? fun n => (s.win n).st == .free

/-- WKEY.OFFER. -/
def wkeyOfferOp (d a : GReg) (s : State) : Act :=
  wkeyTurn s fun s => wkeyDescriptor s a fun s1 w =>
    let me := s1.core.ofVd
    let peer := bits (w 0) 0 5
    let n := (w 2).toNat
    if bits (w 0) 9 55 ≠ 0 || bits (w 0) 5 3 ≠ 0 || w 3 ≠ 0 || (w 1).toNat % 0x20000 ≠ 0 || n = 0 || 8192 < n then s1.retG d 1
    else if peer = me || (s1.vd peer).st == .none then s1.retG d 4
    else match s1.leaves (s.g a) me (w 1).toNat (32 * n) with
    | .error e => e.act s
    | .ok ls =>
    match granulesOf (w 1).toNat [] ls with
    | none => s1.retG d 4
    | some gs =>
      if gs.any s1.windowHolds then s1.retG d 4
      else match s1.freeWin with
      | none => s1.retG d 5
      | some k =>
        (s1.setWin k { st := .offered, owner := me, peer := peer, w := (w 0).getLsbD 8, start := w 1, count := w 2
                       granules := gs }).retG d (w64 (k * 256))
def execWkeyOffer (c : Guard) (d a : GReg) (s : State) : Out := s.go .sTask false c (wkeyOfferOp d a)

/-- WKEY.ACCEPT. -/
def wkeyAcceptOp (d a : GReg) (s : State) : Act :=
  wkeyTurn s fun s => wkeyDescriptor s a fun s1 w =>
    let k := bits (w 0) 0 7
    let x := s1.win k
    if bits (w 0) 7 57 ≠ 0 || k = 0 || 96 < k || w 2 ≠ 0 || w 3 ≠ 0 || (w 1).toNat % 0x20000 ≠ 0 then s1.retG d 1
    else if x.st ≠ .offered then s1.retG d 2
    else if x.peer ≠ s1.core.ofVd then s1.retG d 3
    else (s1.setWin k { x with st := .accepted, base := w 1 }).retG d 0
def execWkeyAccept (c : Guard) (d a : GReg) (s : State) : Out := s.go .sTask false c (wkeyAcceptOp d a)

/-! ### INSTALL, CLOSE and FREE -/

/-- One turn of a re-keying: the next granule, or, with none left, the state that ends it (R274). -/
def State.rekeyTurn (s : State) (d : GReg) (k : Nat) (last : WinState) : Act :=
  let x := s.win k
  match x.granules.find? fun g => !x.rekeyed.contains g with
  | some g => .wait (s.setWin k { x with rekeyed := x.rekeyed ++ [g] })
  | none => ({ s.setWin k { x with st := last, rekeyed := [] } with wkey := none } : State).retG d 0

/-- WKEY.INSTALL. -/
def wkeyInstallOp (d a : GReg) (s : State) : Act :=
  wkeyTurn s fun s =>
    match winNumber (s.g a) with
    | none => s.retG d 1
    | some k =>
      let x := s.win k
      if s.wkey.isSome then s.rekeyTurn d k .live
      else if x.st ≠ .accepted then s.retG d 2
      else .wait { (s.setWin k { x with st := .installing, rekeyed := [] }).hold with
        wkey := some s.cur, keys := (31 + k, s.tick) :: s.keys.filter (fun q => q.1 != 31 + k), tick := s.tick + 1 }
def execWkeyInstall (c : Guard) (d a : GReg) (s : State) : Out := s.go .hTask false c (wkeyInstallOp d a)

/-- An access of the peer through the window is still to be performed: of its tasks, engines and elements, or a posted
write of its function. -/
def State.peerOut (s : State) (k : Nat) (x : Window) : Bool :=
  (s.posted.any fun p => p.fn == x.peer + 1 && p.parts.any fun q => q.2.1 == k) ||
  (s.accs.any fun a => a.win == k && a.vd == x.peer && !a.isPerformed) ||
  s.threads.any fun t => t.vd == x.peer && (t.reads.any (fun r => r.2.win == k || r.2.outs.any fun o => o.win == k) ||
    t.outs.any fun o => o.win == k)

/-- WKEY.CLOSE. -/
def wkeyCloseOp (d a : GReg) (s : State) : Act :=
  wkeyTurn s fun s =>
    match winNumber (s.g a) with
    | none => s.retG d 1
    | some k =>
      let x := s.win k
      if s.wkey.isSome then (if s.peerOut k x then .wait s else s.rekeyTurn d k .closed)
      else if x.st ≠ .offered && x.st ≠ .accepted && x.st ≠ .live then s.retG d 2
      else if s.core.lvl = .s && x.owner ≠ s.core.ofVd && x.peer ≠ s.core.ofVd then s.retG d 3
      else if x.st ≠ .live then (s.setWin k {}).retG d 0
      else .wait { (s.setWin k { x with st := .closing, rekeyed := [] }).hold with wkey := some s.cur }
def execWkeyClose (c : Guard) (d a : GReg) (s : State) : Out := s.go .shTask false c (wkeyCloseOp d a)

/-- WKEY.FREE. -/
def wkeyFreeOp (d a : GReg) (s : State) : Act :=
  wkeyTurn s fun s =>
    match winNumber (s.g a) with
    | none => s.retG d 1
    | some k =>
      if (s.win k).st ≠ .closed then s.retG d 2
      else ({ s.setWin k {} with keys := s.keys.filter fun q => q.1 != 31 + k } : State).retG d 0
def execWkeyFree (c : Guard) (d a : GReg) (s : State) : Out := s.go .hTask false c (wkeyFreeOp d a)

end Sys2Proof.Machine
end

