-- ==== Sys2Proof/Machine/Device.lean ====
section
/-!
DEFINITION. Commands and register writes as they take effect at the device, whoever made them (R50, R59, R177, R194,
R234, R235, R242, R287; log entry 14): a write that has landed acts when its value is one the register accepts.
-/
namespace Sys2Proof.Machine

/-! ### VDCMD (R235) -/

/-- A command on a VD, as the next part of it, when none other is in progress. -/
def State.command (s : State) (op : Nat) (vd : Nat) : Out :=
  .next (if s.vdBusy = none || (s.vdBusy = some (none, vd) && op = 5) then (s.vdTurn none op vd).elim s Prod.snd else s)

/-- VD_CREATE. -/
def execVdCreate (vd : Fin 32) (s : State) : Out := s.command 1 vd
/-- VD_GRANT: the granules that VDGBASE and VDGCOUNT name. -/
def execVdGrant (vd : Fin 32) (s : State) : Out := s.command 2 vd
/-- VD_REVOKE. -/
def execVdRevoke (vd : Fin 32) (s : State) : Out := s.command 3 vd
/-- VD_START. -/
def execVdStart (vd : Fin 32) (s : State) : Out := s.command 4 vd
/-- VD_DESTROY: its first part while writes that have left an order buffer are still to be performed. -/
def execVdDestroy (vd : Fin 32) (s : State) : Out := s.command 5 vd

/-! ### Registers -/

/-- A write of a value that the register accepts. -/
def State.landed (s : State) (n : Nat) (x : Word) (s' : State) : Out := s.event (srValueOk n x) s'

/-- VDS2ROOT_WRITE. -/
def execVds2rootWrite (vd : Fin 32) (x : Word) (s : State) : Out := s.landed 0x122 x (s.writeS2root vd x)
/-- WHDATA_WRITE. -/
def execWhdataWrite (x : Word) (s : State) : Out := s.landed 0x101 x (s.writeWhdata x)
/-- C0LIM_WRITE. -/
def execC0limWrite (x : Word) (s : State) : Out := s.landed 0x102 x (s.writeC0lim x)
/-- S1ROOT_WRITE. -/
def execS1rootWrite (vd : Fin 32) (x : Word) (s : State) : Out := s.landed 0x070 x (s.writeS1root vd x)
/-- BARCNT_WRITE, as tile t sees the barriers. -/
def execBarcntWrite (t : Nat) (x : Word) (s : State) : Out := s.landed 0x060 x (s.writeBarcnt t x)
/-- TIMEBASE_WRITE. -/
def execTimebaseWrite (x : Word) (s : State) : Out := .next (s.writeTimebase x)
/-- THROT_CLEAR. -/
def execThrotClear (x : Word) (s : State) : Out := .next (s.clearThrot x)

/-! ### Slots of a tile window -/

/-- BOUNDARY_TABLE_WRITE: a doubleword at an offset of the tables of the region whose crown is tile t. -/
def execBoundaryTableWrite (t : Nat) (off : Nat) (x : Word) (s : State) : Out :=
  s.event (off % 8 == 0 && s.area t (0x50E000 + off) == .bound) (s.boundWrite t off x)

/-- A level of its code. -/
def lvlOf (n : BitVec 2) : Lvl := if n = 0 then .u else if n = 1 then .s else .h

/-- REGISTER_WRITE: a doubleword reaches a register slot of tile t from a writer at a level, which has been judged at
the writer, at an instruction boundary of its core (R59). -/
def execRegisterWrite (t : Nat) (off : Nat) (x : Word) (lvl : BitVec 2) (s : State) : Out :=
  s.event (off % 8 == 0 && areaOf off == .regs && s.slotOpen t off && !slotRefused off (lvlOf lvl) && !slotIgnored off (lvlOf lvl))
    (s.slotWrite t off x)

/-- ACC_SLOT_WRITE_RELEASE: held writes of accumulators whose F bit is clear land. -/
def execAccSlotWriteRelease (t : Nat) (s : State) : Out := .next (s.updCore t Core.land)

end Sys2Proof.Machine
end

