-- ==== Sys2Proof/Machine/Save.lean ====
section
/-!
DEFINITION. The image of a saved region in its hatbox area: the header (R248), the tile slots (R250) and the compression
of their blocks (R251), written at a save and read at a restore.
-/
namespace Sys2Proof.Machine

/-! ### Blocks (R251) -/

/-- The sixteen words of a block. -/
def blockWords (b : Nat) : List Nat := (List.range 16).map fun i => b / 2 ^ (32 * i) % 2 ^ 32
def wordsBlock (l : List Nat) : Nat := l.foldr (fun w n => w + 2 ^ 32 * n) 0

/-- The lowest dictionary entry that a test finds. -/
def dictFind (d : List Nat) (f : Nat → Bool) : Option Nat := (List.range d.length).find? fun j => f (d.getD j 0)

/-- Code and payload of a word with the dictionary before it: code, payload, its bits, the dictionary after. -/
def codeWord (d : List Nat) (w : Nat) : Nat × Nat × Nat × List Nat :=
  if w = 0 then (0, 0, 0, d)
  else match dictFind d fun e => e == w with
  | some j => (1, j, 4, d)
  | none =>
    match dictFind d fun e => e / 256 == w / 256 with
    | some j => (2, j + 16 * (w % 256), 12, d)
    | none => (3, w, 32, d ++ [w])

/-- The codes and the payload of the words from number i on. -/
def codeWords (d : List Nat) (i : Nat) : List Nat → Nat × Nat × Nat
  | [] => (0, 0, 0)
  | w :: r =>
    let (c, p, n, d1) := codeWord d w
    let (cs, ps, m) := codeWords d1 (i + 1) r
    (c * 2 ^ (2 * i) + cs, p + 2 ^ n * ps, n + m)

/-- The record of a block, and whether it is raw. -/
def packBlock (b : Nat) : Bool × List Byte :=
  let (c, p, n) := codeWords [] 0 (blockWords b)
  let len := 4 + (n + 7) / 8
  if 64 < len then (true, toBytes 64 b) else (false, toBytes len (c + 2 ^ 32 * p))

/-- The words that codes and payload stand for, and how many payload bits they use. -/
def wordsOf (c : Nat) : Nat → List Nat → Nat → Nat → List Nat × Nat
  | 0, _, _, n => ([], n)
  | k + 1, d, p, n =>
    let (w, used, d1) :=
      match c / 2 ^ (2 * (15 - k)) % 4 with
      | 0 => (0, 0, d)
      | 1 => (d.getD (p % 16) 0, 4, d)
      | 2 => (d.getD (p % 16) 0 / 256 * 256 + p / 16 % 256, 12, d)
      | _ => (p % 2 ^ 32, 32, d ++ [p % 2 ^ 32])
    let r := wordsOf c k d1 (p / 2 ^ used) (n + used)
    (w :: r.1, r.2)

/-- A block and the bytes that its record takes. -/
def unpackBlock (raw : Bool) (l : List Byte) : Nat × Nat :=
  if raw then (ofBytes (l.take 64), 64)
  else
    let r := wordsOf (ofBytes (l.take 4)) 16 [] (ofBytes ((l.take 64).drop 4)) 0
    (wordsBlock r.1, 4 + (r.2 + 7) / 8)

/-- n blocks of a stream that uses exactly its bytes; none otherwise. -/
def unpackBlocks (raw : Nat → Bool) : Nat → Nat → List Byte → Option (List Nat)
  | 0, _, l => if l.isEmpty then some [] else none
  | n + 1, i, l =>
    let (b, k) := unpackBlock (raw i) l
    if l.length < k then none
    else match unpackBlocks raw n (i + 1) (l.drop k) with
    | none => none
    | some r => some (b :: r)

/-! ### A tile slot (R250) -/

/-- Fields at byte offsets as one number. -/
def sectionOf (l : List (Nat × Nat)) : Nat := l.foldl (fun n f => n + f.2 * 2 ^ (8 * f.1)) 0

/-- Bytes whose layout is the device's own, from an offset of a slot's sections on: free values. -/
def openBytes (tick off : Nat) : Nat → Nat
  | 0 => 0
  | n + 1 => (Config.fabricByte tick off).toNat + 256 * openBytes tick (off + 1) n

/-- The elements of an accumulator as one number. -/
def accNum (a : Acc) : Nat := a.el.toList.foldr (fun w n => w.toNat + 2 ^ 32 * n) 0

/-- PRIV as a word (R49). -/
def privWord (l : Lvl) (inH : Bool) : Nat := l.code + wbit inH 8
/-- RPST as a word (R49). -/
def rpWord (pend : Bool) (count : BitVec 6) : Nat := count.toNat + wbit pend 6

/-- A loop stack as bytes: its two levels, innermost first, and its depth. -/
def loopFields (off : Nat) (l : List LoopLvl) : List (Nat × Nat) :=
  ((List.range 2).flatMap fun i => match l[i]? with
    | some x => [(off + 24 * i, x.start.toNat), (off + 24 * i + 8, x.stop.toNat), (off + 24 * i + 16, x.count.toNat)]
    | none => []) ++ [(off + 48, l.length)]

/-- The pc, PRIV, the loop stack, RPST, and their handler shadow, at the head of the part that R250 gives them (log entry
61). -/
def Core.controlFields (c : Core) : List (Nat × Nat) :=
  [(0x100, c.pc.toNat), (0x108, privWord c.lvl c.inH)] ++ loopFields 0x110 c.loops ++
  [(0x148, rpWord c.rpPend c.rpCount), (0x150, privWord c.shadow.lvl false)] ++ loopFields 0x158 c.shadow.loops ++
  [(0x190, rpWord c.shadow.rpPend c.shadow.rpCount)]

/-- The register section of tile t: what the spec places, and open bytes where it does not. -/
def State.regSection (s : State) (t : Nat) (c : Core) : Nat :=
  sectionOf (
    ((List.range 32).map fun i => (8 * i, (c.rdG (Fin.ofNat 32 i)).toNat)) ++
    c.controlFields ++ [(0x198, openBytes s.tick 0x198 0x268)] ++
    ((List.range 16).map fun i =>
      let v := c.rdV (Fin.ofNat 16 i)
      (0x400 + 128 * i, v.lanes.toNat + v.meta.toNat * 2 ^ 512)) ++
    ((List.range 8).map fun i => (0xC00 + 8 * i, wbit (c.rdP (Fin.ofNat 8 i)) 0)) ++
    [(0xC40, c.tb[0].toNat), (0xC60, c.tb[1].toNat), (0xC80, c.tbPend.toNat), (0xC88, openBytes s.tick 0xC88 0x378)] ++
    ((List.range 8).map fun i => (0x1000 + 1024 * i, accNum (c.rdA (Fin.ofNat 8 i)))) ++
    (((srnListed.map BitVec.toNat).filter fun n => n < 0x100).map fun n => (0x3000 + 8 * n, (s.srRead t n).toNat)))

/-- The state blocks of tile t: tile store, registers, fabric. -/
def State.slotBlocks (s : State) (t : Nat) : List Nat :=
  let r := s.regSection t (s.tileAt t).core
  ((List.range 16384).map fun b => s.rd (windowPa t + 64 * b) 64) ++
  ((List.range 256).map fun b => r / 2 ^ (512 * b) % 2 ^ 512) ++
  ((List.range 1280).map fun b => openBytes s.tick (0x4000 + 64 * b) 64)

/-- The bytes of a slot. -/
def slotImage (bs : List Nat) : List Byte :=
  let rs := bs.map packBlock
  let str := rs.flatMap Prod.snd
  let raw := rs.foldr (fun r n => wbit r.1 0 + 2 * n) 0
  toBytes 8 str.length ++ List.replicate 56 0 ++ toBytes 2240 raw ++ str

/-- Bytes are written for a VD, block by block; none once the VD is fenced (R262, R267). -/
def State.putBytes (s : State) (vd pa : Nat) : Nat → List Byte → State
  | 0, _ => s
  | k + 1, l =>
    if l.isEmpty || (s.vd vd).st = .fenced then s
    else
      let c := l.take 64
      (s.devWrite vd pa c.length (ofBytes c)).putBytes vd (pa + 64) k (l.drop 64)

/-- Bytes of a tile slot, and of a region header. -/
def slotSize : Nat := 1179648

/-- Slots of the tiles of a list are written. -/
def State.putSlots (s : State) (vd pa : Nat) : List Nat → State
  | [] => s
  | t :: r =>
    let l := slotImage (s.slotBlocks t)
    ({ s.putBytes vd pa (l.length / 64 + 1) l with tick := s.tick + 1 } : State).putSlots vd (pa + slotSize) r

/-- The region header (R248). -/
def headerNum (x : Region) (time : Nat) (wave : Bool) : Nat :=
  sectionOf [
    (0, 1 + 0x4842 * 2 ^ 16), (8, x.rcb.toNat),
    (0x10, x.w + x.h * 2 ^ 8 + x.bouts.toNat * 2 ^ 16 + wbit wave 32),
    (0x18, x.curImage.toNat), (0x20, time % 2 ^ 64),
    (0x40, x.entryTab.toNat), (0x240, x.exitTab.toNat), (0x440, x.btCtl.toNat)]

/-- The image of a region is written to its save area. -/
def State.putImage (s : State) (x : Region) (time : Nat) : State :=
  let pa := (s.vd x.vd).hatPa + (x.hat.getD (0, 0)).1
  let s1 := s.putBytes x.vd pa 64 (toBytes 4096 (headerNum x time (x.stop == .wave)))
  s1.putSlots x.vd (pa + 4096) x.tilesOf

/-! ### Reading a slot (R250 to R252) -/

/-- The blocks of a slot at an address; none where its stream does not decode. -/
def State.getSlot (s : State) (pa : Nat) : Option (List Nat) :=
  let len := s.rd pa 8
  if 1146880 < len then none
  else
    let raw := s.rd (pa + 0x40) 2240
    unpackBlocks (fun i => raw / 2 ^ i % 2 == 1) 17920 0 (toBytes len (s.rd (pa + 0x900) len))

/-- A block of a slot fails verification. -/
def State.slotBad (s : State) (pa : Nat) : Bool :=
  (List.range (s.rd pa 8 / 64 + 38)).any fun i => s.isBad (pa + 64 * i)

/-- A block of a region header fails verification. -/
def State.headerBad (s : State) (pa : Nat) : Bool := (List.range 64).any fun i => s.isBad (pa + 64 * i)

/-- The notify writes that a region header holds (R248). -/
def State.heldNotifies (s : State) (pa : Nat) : List Notify :=
  ((List.range 128).map fun i =>
    ({ addr := s.rd (pa + 0x800 + 16 * i) 8, val := w64 (s.rd (pa + 0x808 + 16 * i) 8) } : Notify)).takeWhile fun n => n.addr != 0

/-- The fields of a region that its header gives back: the bout count, the image, and the boundary tables (R248). -/
def State.withHeader (s : State) (x : Region) (pa : Nat) : Region :=
  { x with
    bouts := BitVec.ofNat 16 (s.rd (pa + 0x12) 2), curImage := w64 (s.rd (pa + 0x18) 8)
    entryTab := BitVec.ofNat 4096 (s.rd (pa + 0x40) 512), exitTab := BitVec.ofNat 4096 (s.rd (pa + 0x240) 512)
    btCtl := BitVec.ofNat 2 (s.rd (pa + 0x440) 8) }

/-- A loop stack that a section holds. -/
def loopsAt (at_ : Nat → Nat → Nat) (off : Nat) : List LoopLvl :=
  (List.range (min 2 (at_ (off + 48) 8))).map fun i =>
    ⟨w64 (at_ (off + 24 * i) 8), w64 (at_ (off + 24 * i + 8) 8), BitVec.ofNat 32 (at_ (off + 24 * i + 16) 4)⟩

/-- A core with the registers of a section: every register that the spec places in it. -/
def Core.withSection (c : Core) (n : Nat) : Core :=
  let at_ (off len : Nat) : Nat := n / 2 ^ (8 * off) % 2 ^ (8 * len)
  let sr (i : Nat) : Nat := at_ (0x3000 + 8 * i) 8
  let flag (off i : Nat) : Bool := at_ off 8 / 2 ^ i % 2 == 1
  { c with
    pc := w64 (at_ 0x100 8), lvl := lvlOf (BitVec.ofNat 2 (at_ 0x108 8)), inH := flag 0x108 8, loops := loopsAt at_ 0x110
    rpPend := flag 0x148 6, rpCount := BitVec.ofNat 6 (at_ 0x148 8)
    shadow := {
      lvl := lvlOf (BitVec.ofNat 2 (at_ 0x150 8)), loops := loopsAt at_ 0x158, rpPend := flag 0x190 6
      rpCount := BitVec.ofNat 6 (at_ 0x190 8) }
    tbPend := BitVec.ofNat 2 (at_ 0xC80 8)
    fmode := BitVec.ofNat 3 (sr 0x010), fstat := BitVec.ofNat 6 (sr 0x011), cause := BitVec.ofNat 8 (sr 0x040)
    epc := w64 (sr 0x041), eval := w64 (sr 0x042), estep := w64 (sr 0x043), trapv := w64 (sr 0x044)
    slotcls := BitVec.ofNat 2 (sr 0x080)
    g := Vector.ofFn fun i => if i = 0 then 0 else w64 (at_ (8 * i.val) 8)
    v := Vector.ofFn fun i =>
      ({ c.v[i] with lanes := BitVec.ofNat 512 (at_ (0x400 + 128 * i.val) 64) } : Token).withMeta
        (w64 (at_ (0x440 + 128 * i.val) 8))
    p := BitVec.ofNat 8 ((List.range 8).foldl (fun m i => m + at_ (0xC00 + 8 * i) 1 % 2 * 2 ^ i) 0)
    tb := #v[BitVec.ofNat 256 (at_ 0xC40 32), BitVec.ofNat 256 (at_ 0xC60 32)]
    a := Vector.ofFn fun i =>
      { el := Vector.ofFn fun j => BitVec.ofNat 32 (at_ (0x1000 + 1024 * i.val + 4 * j.val) 4)
        v := flag 0x3280 (3 * i.val), d := flag 0x3280 (3 * i.val + 1) } }

/-- Tile store of tile t from its blocks. -/
def State.putStore (s : State) (t : Nat) : Nat → List Nat → State
  | _, [] => s
  | i, b :: r => (s.commit (windowPa t + 64 * i) 64 b (fullMask 64)).putStore t (i + 1) r

end Sys2Proof.Machine
end

