-- ==== Sys2Proof/Machine/Preempt.lean ====
section
/-!
DEFINITION. How a region is stopped and saved: the start of marker pre-emption, what elements and cores do with the
markers, the freeze wave, its time limit, and the save (R230, R244 to R249, R380).
-/
namespace Sys2Proof.Machine

/-! ### Marker pre-emption (R244) -/

/-- A pre-emption marker, and one at the head of a queue. -/
def preemptMark : Token := { kind := .mark, pm := true }
def markHead (l : List Token) : Bool :=
  match l with
  | t :: _ => t.kind == .mark && t.pm
  | [] => false
def isFlush (t : Token) : Bool := t.kind == .mark && !t.pm

/-- No flush marker lies on an arc or in an element (R380); core input ports may hold some. -/
def Fabric.flushed (x : Fabric) : Bool :=
  (x.tracks.toList.all fun k => !k.q.any isFlush) && (x.outQ.toList.all fun q => !q.any isFlush) &&
  (x.slots.toList.all fun y => !(y.ins.toList.any fun q => q.any isFlush) && !(y.outs.toList.any fun q => q.any isFlush)) &&
  (x.mus.toList.all fun y => !y.data.any isFlush && !y.addr.any isFlush && !(y.wait.toList.any fun q => q.any isFlush) &&
    !y.out.any isFlush && !y.done.any isFlush)

/-- Step 1 on one tile: a marker behind every token of each generator and of each bound output port. -/
def Fabric.appendMarks (x : Fabric) : Fabric :=
  let y := { x with
    outQ := Vector.ofFn fun i => if x.bound (8 + i.val) then x.outQ[i] ++ [preemptMark] else x.outQ[i]
    ags := Vector.ofFn fun i => if x.ags[i].on then { x.ags[i] with out := x.ags[i].out ++ [preemptMark] } else x.ags[i] }
  y

/-- A change to the fabric of every tile of a list. -/
def State.mapFabs (s : State) (f : Fabric → Fabric) : List Nat → State
  | [] => s
  | t :: r => (s.updFab t f).mapFabs f r

/-- A C0 region waits for tiles of the unit of region r, which gives them up (R44). -/
def State.claimed (s : State) (r : Nat) (x : Region) : Bool :=
  decide (1 ≤ x.aged) && s.queue.any fun q => (s.region q).any (fun y => y.aged == 0) && (s.unit r).any fun m => s.waitsFor q m

/-- Step 1 is due: no marker is there yet, and no flush marker is under way (R380). -/
def State.marksDue (s : State) (x : Region) : Bool := !x.marked && x.tilesOf.all fun t => (s.tileAt t).fab.flushed

/-- MARKER_PREEMPT_START: a region whose tiles a C0 region waits for is asked to stop (R44); one that has been asked
gets its markers once no flush marker is under way. -/
def execMarkerPreemptStart (r : Nat) (s : State) : Out :=
  match s.region r with
  | none => .next s
  | some x =>
    let running := x.st == .running || x.st == .placed
    if !running || !s.vdLive x.vd then .next s
    else match x.stop with
    | .no => .next (if s.claimed r x then s.askMarker r else s)
    | .wave => .next s
    | .marker _ =>
      if !s.marksDue x then .next s
      else .next ((s.mapFabs Fabric.appendMarks x.tilesOf).updRegion r fun y => { y with marked := true })

/-! ### Elements (R149, R244 steps 2 and 3) -/

/-- The fabrics of a region as the loader sees them. -/
def State.grid (s : State) (x : Region) : Grid := x.tilesOf.map fun t => (x.offOf t, (s.tileAt t).fab)

/-- The ports of a core are one element (R244). -/
def coreElem (e : Nat) : Nat := if 10 ≤ e % 32 then e / 32 * 32 + 10 else e

/-- The elements that arcs reach from a list of elements, in n rounds. -/
def reachedFrom (arcs : List Arc) : Nat → List Nat → List Nat
  | 0, l => l
  | n + 1, l =>
    reachedFrom arcs n (arcs.foldl (fun l a =>
      if l.contains (coreElem a.src) && !l.contains (coreElem a.dst) then l ++ [coreElem a.dst] else l) l)

/-- An arc is a back edge: it runs to an element of lower or equal number, and lies on a cycle. -/
def backEdge (arcs : List Arc) (a : Arc) : Bool :=
  decide (coreElem a.dst ≤ coreElem a.src) && (reachedFrom arcs arcs.length [coreElem a.dst]).contains (coreElem a.src)

/-- An inlet of an element waits for no marker: nothing feeds it, or its arc is a back edge. -/
def noMarker (arcs : List Arc) (e : Nat) (i : Inlet) : Bool :=
  match arcs.find? fun a => a.dst == e && a.inl == i with
  | some a => backEdge arcs a
  | none => true

/-- The inlets of an element that take part. -/
def Fabric.elemInlets (x : Fabric) (e : Elem) : List Inlet :=
  (match e with
   | .slot i => ((List.range 4).map fun j => Inlet.slotIn i j) ++ [Inlet.slotPar i]
   | .mu u => (List.range 4).map fun j => Inlet.mu u j
   | .ag a => [.agPar a]
   | .track _ => []).filter fun i => x.live i && x.sourceOf i != 0

/-- The number of an element of a tile. -/
def elemNum (e : Elem) : Nat :=
  match e with
  | .slot i => i
  | .mu u => 4 + u
  | .ag a => 8 + a
  | .track k => 10 + k

/-- The marker at the head of an inlet is taken. -/
def Fabric.takeMark (x : Fabric) (i : Inlet) : Fabric :=
  if markHead (x.inletQ i) then
    match i with
    | .slotIn k j => x.updSlot k fun y => y.setIn j ((y.inQ j).drop 1)
    | .slotPar k => x.updSlot k fun y => { y with par := y.par.drop 1 }
    | .mu u j => x.updMu u fun y => y.setIn j ((y.inQ j).drop 1)
    | .agPar a => x.updAg a fun y => { y with par := y.par.drop 1 }
    | _ => x
  else x

/-- The element has nothing of its own to finish before it stops. -/
def Fabric.elemReady (x : Fabric) (e : Elem) : Bool :=
  match e with
  | .slot i => (x.slot i).on && !(x.slot i).stopped
  | .mu u => (x.mu u).on && !(x.mu u).stopped && (x.mu u).busy.isEmpty && (x.mu u).held.isEmpty
  | .ag a => (x.ag a).on && !(x.ag a).stopped
  | .track _ => false

/-- It stops, and forwards one marker on each enabled data output. -/
def Fabric.stopElem (x : Fabric) (e : Elem) : Fabric :=
  match e with
  | .slot i => x.updSlot i fun y => { (y.emit 0 [preemptMark]).emit 1 [preemptMark] with stopped := true }
  | .mu u => x.updMu u fun y =>
    { y with
      out := if muMode y.frame = 1 || muMode y.frame = 2 then y.out ++ [preemptMark] else y.out
      done := if muDoneOn y.frame then y.done ++ [preemptMark] else y.done, stopped := true }
  | .ag a => x.updAg a fun y => { y with stopped := true }
  | .track _ => x

/-- Whether every inlet that waits for a marker has one. -/
def State.marksHere (s : State) (x : Region) (t : Nat) (e : Elem) : Bool :=
  let arcs := (s.grid x).arcs
  let f := (s.tileAt t).fab
  (f.elemInlets e).all fun i => markHead (f.inletQ i) || noMarker arcs (32 * x.offOf t + elemNum e) i

/-- Indices within an element class. -/
def elemOkIx (e : Elem) : Bool :=
  match e with
  | .slot i | .mu i => decide (i < 4)
  | .ag i => decide (i < 2)
  | .track i => decide (i < 16)

/-- ELEMENT_MARKER_SAVE: filters of a switch pass markers at once and keep their holds (R122). -/
def execElementMarkerSave (t : Nat) (e : Elem) (s : State) : Out :=
  match s.regionAt t >>= s.region with
  | none => .next s
  | some x =>
    let f := (s.tileAt t).fab
    s.event (x.marked && x.stop != .wave && elemOkIx e && f.elemReady e && s.marksHere x t e)
      (s.updFab t fun f => ((f.elemInlets e).foldl Fabric.takeMark f).stopElem e)

/-! ### Cores (R230, R244 step 4, R109) -/

/-- A region has stopped a core's task so far that the core may stop: every bound input port has a marker, or the wave
has come. -/
def Region.stopsCore (x : Region) (f : Fabric) : Bool :=
  match x.stop with
  | .no => false
  | .wave => true
  | .marker _ => x.marked && (List.range 8).all fun p => !f.bound p || (f.inQ[p]?.getD []).any fun t => t.kind == .mark && t.pm

/-- The region or VD of a task stops it: the dispatcher of a frozen VD stops too (R371); a fault of the region is taken
first (R257). -/
def State.stopsTask (s : State) (t : Nat) : Bool :=
  let x := s.tileAt t
  match x.core.task with
  | none => false
  | some k =>
    if k.role = .dispatcher then (s.vd k.vd).frozen
    else (s.region k.region).any fun q => (q.fault.isNone || q.domainSave.isSome) && q.stopsCore x.fab

/-- What a stopped core goes back to; none while it may not stop: an invalidation or WKEY in progress (R410, R439), a
WAITA about to retire. An EXIT is executed again (R368); a dispatcher that a fault has ended stays so (R445). -/
def Core.resumeOf (c : Core) : Option Status :=
  match c.status with
  | .run => some .run
  | .exiting code => if c.task.all fun k => k.fell.isNone then some .run else some (.exiting code)
  | .asleep _ _ _ _ hit => if hit then none else some .run
  | .barrier n => some (.barrier n)
  | .faulted => some .faulted
  | .idle | .tlbi _ _ | .stopped => none

/-- A core between two instructions, repetitions or steps of a macro-op: RPST and ESTEP say where it goes on (R68,
R109). -/
def Core.pause (c : Core) (st : Status) : Core :=
  { c with
    status := .stopped, resume := st, repAt := none, stepAt := none, stepAcc := none, readings := []
    rpPend := c.rpPend || c.repAt.isSome
    rpCount := match c.repAt with
      | some i => BitVec.ofNat 6 i
      | none => c.rpCount
    estep := match c.stepAt with
      | some i => w64 (2 ^ 63 + i)
      | none => c.estep }

/-- CORE_PREEMPT_STOP: every access of the task has been performed and answered, and steps have drained. -/
def execCorePreemptStop (t : Nat) (s : State) : Out :=
  let c := (s.tileAt t).core
  match c.resumeOf with
  | none => .next s
  | some st =>
    s.event (s.stopsTask t && (s.accsOf (.task t)).isEmpty && c.pend.isEmpty && c.inflight.isEmpty && s.wkey != some t)
      (s.updCore t fun c => c.land.pause st)

/-! ### The freeze wave (R245, R246) -/

/-- PREEMPT_TIMEOUT: 65,536 ACLK after the request the wave completes the stop. -/
def execPreemptTimeout (r : Nat) (s : State) : Out :=
  match s.region r with
  | none => .next s
  | some x =>
    match x.stop with
    | .marker since => s.event (decide (since + 65536 ≤ s.cycle)) (s.setRegion r { x with stop := .wave })
    | _ => .next s

/-- Every element of a tile stops where it stands. -/
def Fabric.freeze (x : Fabric) : Fabric :=
  { x with
    slots := Vector.ofFn fun i => { x.slots[i] with stopped := true }
    mus := Vector.ofFn fun i => { x.mus[i] with stopped := true }
    ags := Vector.ofFn fun i => { x.ags[i] with stopped := true } }

/-- The fabric of the region has issued an access that has not been answered. -/
def State.fabricBusy (s : State) (x : Region) : Bool := s.accs.any fun a => a.party.fabricOf.any fun t => x.covers t

/-- FREEZE_WAVE: every request of the fabric has retired into its buffer, and every element has stopped. -/
def execFreezeWave (r : Nat) (s : State) : Out :=
  match s.region r with
  | none => .next s
  | some x => s.event (x.stop == .wave && !s.fabricBusy x) (s.mapFabs Fabric.freeze x.tilesOf)

/-! ### The save (R230, R244 step 5, R247, R248) -/

def Fabric.allStopped (x : Fabric) : Bool :=
  (x.slots.toList.all fun y => !y.on || y.stopped) && (x.mus.toList.all fun y => !y.on || y.stopped) &&
  (x.ags.toList.all fun y => !y.on || y.stopped)

/-- Pre-emption markers are discarded. -/
def noMarks (l : List Token) : List Token := l.filter fun t => !(t.kind == .mark && t.pm)
def Fabric.dropMarks (x : Fabric) : Fabric :=
  { x with
    tracks := Vector.ofFn fun i => { x.tracks[i] with q := noMarks x.tracks[i].q }
    inQ := Vector.ofFn fun i => noMarks x.inQ[i]
    outQ := Vector.ofFn fun i => noMarks x.outQ[i]
    slots := Vector.ofFn fun i => { x.slots[i] with
      ins := Vector.ofFn fun j => noMarks x.slots[i].ins[j]
      par := noMarks x.slots[i].par
      outs := Vector.ofFn fun j => noMarks x.slots[i].outs[j] }
    mus := Vector.ofFn fun i => { x.mus[i] with
      data := noMarks x.mus[i].data, addr := noMarks x.mus[i].addr
      wait := Vector.ofFn fun j => noMarks x.mus[i].wait[j]
      out := noMarks x.mus[i].out, done := noMarks x.mus[i].done }
    ags := Vector.ofFn fun i => { x.ags[i] with par := noMarks x.ags[i].par, out := noMarks x.ags[i].out } }

/-- The region may be saved: its cores and elements stand still, its engine operations are complete, and no access of it
is out but requests of GATHER, which are made again (R164). -/
def State.saveReady (s : State) (r : Nat) (x : Region) : Bool :=
  x.place.isSome && (x.fault.isNone || x.domainSave.isSome) && (match x.stop with
    | .no => false
    | .wave => true
    | .marker _ => x.marked) &&
  (x.tilesOf.all fun t =>
    let y := s.tileAt t
    (y.core.task.isNone || y.core.status == .stopped) && y.fab.allStopped) &&
  (s.threads.all fun t => t.region != some r) &&
  (s.accs.all fun a => !a.ofRegion r || (x.stop != .wave && (match a.party with
    | .gather _ _ => true
    | _ => false))) &&
  s.ctlFlight.all fun q => !x.covers q.1

/-- The fields that record a fault, or that the region was stopped for another's (R29). -/
def State.recordFault (s : State) (x : Region) (own : Bool) (f : FaultRec) : State :=
  if own then
    ((s.rcbWrite x 0x98 (f.cause.setWidth 64 <<< 32 ||| f.estep <<< 40) 0xFFFFFFFF00000000).rcbWrite x 0xA0 f.epc
      (BitVec.allOnes 64)).rcbWrite x 0xA8 f.eval (BitVec.allOnes 64)
  else s.rcbWrite x 0x98 0 0xFF00000000

/-- A slot as it is kept: a GATHER drops its base translation, and asks again for the records that are still out (R164). -/
def Slot.kept (x : Slot) : Slot :=
  if slotKind x.frame = 8 then
    { x with op := { x.op with
      base := none
      rows := x.op.rows.map fun q => if q.ids.isEmpty then q else { q with ids := [], bits := 0, due := true } } }
  else x
/-- A tile as it is kept: no translation and no instruction word stays cached (R198). -/
def Tile.kept (y : Tile) : Tile :=
  { core := { y.core with tlb := [], icache := [] }
    fab := { y.fab.dropMarks with slots := y.fab.dropMarks.slots.map Slot.kept } }

/-- REGION_SAVE: the image and the record; the region is queued again, or ends when its fault domain saved it. The count
of pre-emptions counts the save of a fault domain too (log entry 85). Nothing more follows where writing the image has
fenced the VD (R262). -/
def State.saveRegion (s : State) (r : Nat) (x : Region) : State :=
  let time := x.held + (s.cycle - x.since)
  let tiles := x.tilesOf.map fun t => (s.tileAt t).kept
  let s0 := s.putImage x time
  if (s0.vd x.vd).st = .fenced then s0
  else
  let s1 := s0.vacate r
  let s2 := s1.updRegion r fun y =>
    { y with saved := tiles, preempts := y.preempts + 1, aged := y.cls, waited := 0, quantumAt := s.cycle }
  let s3 := (s2.writeTime r).rcbWrite x 0x90 (w64 (x.hat.getD (0, 0)).1) (BitVec.allOnes 64)
  match x.domainSave with
  | some (own, f) =>
    (((s3.recordFault x own f).setRState r .faulted).updRegion r fun y => { y with domainSave := none }).notify r
      |>.settleFreeze r 2
  | none => { (s3.setRState r .preempted).settleFreeze r 1 with queue := s.queue ++ [r] }

/-- A save would have to wait: for its save area, or as the end of a region does (R268). -/
def State.saveWaits (s : State) (x : Region) : Bool :=
  s.anyStalled ((s.vd x.vd).hatPa + (x.hat.getD (0, 0)).1) x.areaSize || s.endWaits x

/-- REGION_SAVE. -/
def execRegionSave (r : Nat) (s : State) : Out :=
  match s.region r with
  | none => .next s
  | some x => s.event (s.saveReady r x && s.vdLive x.vd && !s.saveWaits x) (s.saveRegion r x)

end Sys2Proof.Machine
end

