-- ==== Sys2Proof/Machine/Milliner.lean ====
section
/-!
DEFINITION. The milliner's own moves (R29, R32, R33, R236 to R239, R252, R254, R262): placing and restoring regions, the
end of a quantum, the hold limit, the action of a fault domain, the writes that a kill leaves, and soft errors.
-/
namespace Sys2Proof.Machine

/-! ### The start of a lead task (R32 steps 4 and 5) -/

/-- The lead task of region x begins on its crown tile. -/
def State.beginLead (s : State) (r : Nat) (x : Region) : State :=
  s.updCore x.crown fun c => c.begin x.entry x.args .u x.trapv x.aged { role := .lead, vd := x.vd, region := r }

/-- The image is loaded as CFG would, at the privilege of the SPAWN, and the lead task starts; an image that cannot be
used is a fault of the region. None while the image cannot be read yet. -/
def State.launch (s : State) (r : Nat) (x : Region) : Option State :=
  if x.image = 0 then some ((s.beginLead r x).setRState r .running)
  else if x.image.toNat % 32 ≠ 0 then some (s.elemFault r cMisaligned x.image)
  else
    let f := (s.beginLead r x).focus x.crown
    match (f.setCore { f.core with lvl := x.lvl }).configure r x x.image with
    | .retire s1 => some (((s1.focus s.cur).beginLead r x).setRState r .running)
    | .trap _ cause eval _ => some (s.elemFault r cause eval)
    | .wait _ => none
    | .jump _ _ => none

/-! ### Restoring (R39, R249, R252) -/

/-- A tile of a saved region from its slot and its record, still stopped; the VD is fenced when the slot fails. -/
def State.restoreTile (s : State) (x : Region) (pa t : Nat) (y : Tile) : State :=
  if s.slotBad pa then s.fence x.vd cIntegrity
  else match s.getSlot pa with
  | none => s.fence x.vd cMachineCheck
  | some bs =>
    let sect := ((bs.drop 16384).take 256).foldr (fun b n => b + 2 ^ 512 * n) 0
    (s.putStore t 0 (bs.take 16384)).setTile t
      { core := { y.core.withSection sect with owner := some (x.vd, x.gen), lastOwner := some x.vd }, fab := y.fab }
/-- The tiles of a saved region, up to one that fences the VD (R262). -/
def State.restoreTiles (s : State) (x : Region) (pa : Nat) : List (Nat × Tile) → State
  | [] => s
  | (t, y) :: r =>
    let s1 := s.restoreTile x pa t y
    if (s1.vd x.vd).st = .fenced then s1 else s1.restoreTiles x (pa + slotSize) r

/-- A stopped core goes on, and so does a stopped fabric. -/
def Core.goOn (c : Core) : Core := if c.status = .stopped then { c with status := c.resume, resume := .idle } else c
def Fabric.goOn (f : Fabric) : Fabric :=
  { f with
    slots := Vector.ofFn fun i => { f.slots[i] with stopped := false }
    mus := Vector.ofFn fun i => { f.mus[i] with stopped := false }
    ags := Vector.ofFn fun i => { f.ags[i] with stopped := false } }
def State.resumeTiles (s : State) : List Nat → State
  | [] => s
  | t :: r => (s.updTile t fun y => { core := y.core.goOn, fab := y.fab.goOn }).resumeTiles r

/-- Notify writes that were held are performed on the restored tile stores. -/
def State.putNotifies (s : State) (x : Region) : List Notify → State
  | [] => s
  | n :: r =>
    let (o, b) := tileOfPa n.addr
    (s.commit (windowPa (x.tileOf o) + b) 8 n.val.toNat (fullMask 8)).putNotifies x r

/-- The entries of the overflow list of a save area are free again. -/
def State.freeEntries (s : State) (vd pa off : Nat) : Nat → State
  | 0 => s
  | n + 1 =>
    let a := pa + 32 * n
    (if s.rd a 8 ≠ 0 && s.rd (a + 16) 8 = off then s.devWrite vd a 32 0 else s).freeEntries vd pa off n

/-- The overflow list of a VD holds notify writes of region r, which a restore reads. -/
def State.lateFor (s : State) (r : Nat) (x : Region) : List (Nat × Nat × Notify) :=
  s.notifyDue.filter fun q => q.1 == x.vd && q.2.1 == r

/-- A restore of region r would have to wait for a re-encryption of what it reads (R268). -/
def State.bringWaits (s : State) (r : Nat) (x : Region) : Bool :=
  s.anyStalled ((s.vd x.vd).hatPa + (x.hat.getD (0, 0)).1) x.areaSize ||
    (!(s.lateFor r x).isEmpty && s.anyStalled (s.vd x.vd).overflowPa overflowSize)

/-- A saved region comes back into its new rectangle: header, tiles, notify writes in the order in which they fell due,
and only then do its tasks and elements go on. A block that fails verification, or a slot that does not decode, fences
the VD, and nothing more happens (R249, R252, R262). -/
def State.bringBack (s : State) (r : Nat) (x : Region) : State :=
  let v := s.vd x.vd
  let off := (x.hat.getD (0, 0)).1
  let pa := v.hatPa + off
  let late := s.lateFor r x
  if s.headerBad pa || (!late.isEmpty && s.anyBad v.overflowPa overflowSize) then s.fence x.vd cIntegrity
  else
    let y := s.withHeader x pa
    let s1 := s.restoreTiles y (pa + 4096) (y.tilesOf.zip y.saved)
    if (s1.vd x.vd).st = .fenced then s1
    else
      let s2 := (s1.putNotifies y (s.heldNotifies pa)).putNotifies y (late.map fun q => q.2.2)
      let s3 := ({ s2 with notifyDue := s2.notifyDue.filter fun q => !(q.1 == x.vd && q.2.1 == r) } : State)
      let s4 := if late.isEmpty then s3 else s3.freeEntries x.vd v.overflowPa off 4096
      if (s4.vd x.vd).st = .fenced then s4
      else ((s4.setRegion r { y with saved := [], notifies := [], hat := none }).resumeTiles y.tilesOf).setRState r .running

/-! ### Placing (R32, R33, R236, R255) -/

/-- Tiles take an owner. -/
def State.own (s : State) (vd : Nat) (gen : BitVec 16) : List Nat → State
  | [] => s
  | t :: r => (s.updCore t fun c => { c with owner := some (vd, gen), lastOwner := some vd }).own vd gen r

/-- Region r takes the rectangle at a place: generation, scrub, owner; then it starts or comes back. All of R32 from the
placement to the start of the lead task is one move (log entry 86). -/
def State.placeAt (s : State) (p : Place) : Option State :=
  match s.region p.region with
  | none => none
  | some x =>
    let gen := (s.vd x.vd).gen + 1
    let ts := rectTiles p.col p.row x.w x.h
    let foreign := ts.any fun t => (s.tileAt t).core.lastOwner.any fun o => o != x.vd
    let y := { x with
      place := some (p.col, p.row), st := .placed, gen := gen, since := s.cycle, quantumAt := s.cycle
      yieldAt := s.cycle, waited := 0, behind := false }
    let s0 := s.hintBits x
    let s1 := (if foreign then s0.scrubAll ts else s0).updVd x.vd fun v => { v with gen := gen }
    let s2 := { (s1.setRegion p.region y).own x.vd gen ts with queue := s1.queue.filter fun q => q != p.region }
    let s3 : State := s2.setRState p.region .placed
    if (s3.vd x.vd).st = VdState.fenced then some s3
    else if x.st = .preempted then some (s3.bringBack p.region y) else s3.launch p.region y

/-- The regions of a unit are placed one in 16 ACLK, as the generations of a VD are issued (R255; log entry 59); nothing more
is placed once one of them has fenced the VD (R262). -/
def State.placeAll (s : State) : List Place → Option State
  | [] => some s
  | p :: l =>
    match s.placeAt p with
    | none => none
    | some s1 =>
      if l.isEmpty || (s1.region p.region).any (fun x => (s1.vd x.vd).st == .fenced) then some s1
      else ({ s1 with cycle := s1.cycle + 16 } : State).placeAll l

/-- The rectangles chosen are free at once, within the budgets, and are those that the hints prefer (R34). -/
def State.placesFree (s : State) (taken : List (Nat × Nat × Nat × Nat)) (more : List Region) : List Place → Bool
  | [] => true
  | p :: l =>
    match s.region p.region with
    | none => false
    | some x =>
      let q := (p.col, p.row, x.w, x.h)
      s.rectFree x.vd taken q && s.budgetOk x more &&
      s.preferred taken more x (s.recs (l.map Place.region)) q && s.placesFree (q :: taken) (x :: more) l

/-- The places stand for the whole unit of a region, once each, and its VD's turn has come (R33, R255). -/
def State.placesUnit (s : State) (ps : List Place) : Bool :=
  match ps with
  | [] => false
  | p :: _ =>
    let u := s.unit p.region
    let rs := ps.map Place.region
    u.length == rs.length && u.all rs.contains && s.unitReady p.region && (s.region p.region).all (fun x => s.rateOk x.vd) &&
    !s.queue.any fun q => (u.all fun m => s.before q m) && s.unitPlaceable q

/-- All of the unit's regions are saved ones. -/
def State.allSaved (s : State) (ps : List Place) : Bool := ps.all fun p => (s.region p.region).any fun x => x.st == .preempted

/-- What the placing of a region reads or writes is being re-encrypted or re-keyed (R268, R272). -/
def State.placeWaits (s : State) (p : Place) : Bool :=
  (s.region p.region).any fun x => s.hintWaits x || s.rcbWaits x || (x.st == .preempted && s.bringWaits p.region x)

/-- A unit is placed; the choice of rectangles is the milliner's. -/
def State.placement (s : State) (ps : List Place) (saved : Bool) : Out :=
  s.event (s.placesUnit ps && s.placesFree [] [] ps && s.allSaved ps == saved && !ps.any s.placeWaits)
    ((s.placeAll ps).getD s)

/-- REGION_PLACE: a unit with a region that has not run yet. -/
def execRegionPlace (ps : List Place) (s : State) : Out := s.placement ps false
/-- REGION_RESTORE: a unit of saved regions. -/
def execRegionRestore (ps : List Place) (s : State) : Out := s.placement ps true

/-! ### Quanta and the hold limit (R237, R239) -/

/-- QUANTUM_EXPIRY: a placed region of class C2 or C3 is pre-empted when a waiting one has the claim, else begins a new
quantum; a waiting region counts one, and ages after four. The class that governs is the effective one: a region that has
aged to C1 runs without a slice until it is next pre-empted (R44 and R237 do not say; log entry 94). -/
def execQuantumExpiry (r : Nat) (s : State) : Out :=
  match s.region r with
  | none => .next s
  | some x =>
    if x.aged < 2 || s.cycle < x.quantumAt + 700 * x.quantum || !s.vdLive x.vd then .next s
    else if s.queue.contains r then
      .next (s.setRegion r (if x.waited = 3 then { x with waited := 0, aged := x.aged - 1, quantumAt := s.cycle }
        else { x with waited := x.waited + 1, quantumAt := s.cycle }))
    else if x.place.isNone || x.stop ≠ .no || x.fault.isSome then .next s
    else
      let s1 := s.setRegion r { x with quantumAt := s.cycle }
      .next (if s.contested r then s1.askBehind r else s1)

/-- WATCHDOG_EXPIRY: a C0 region has held its tiles for longer than the limit. -/
def execWatchdogExpiry (r : Nat) (s : State) : Out :=
  match s.region r with
  | none => .next s
  | some x =>
    let limit := (s.vd x.vd).c0lim.toNat
    s.event (x.aged == 0 && x.place.isSome && limit != 0 && s.vdLive x.vd &&
        decide (x.yieldAt + 700000 * limit < s.cycle))
      ((s.setRegion r { x with yieldAt := s.cycle }).elemFault r cWatchdog (w64 ((s.cycle - x.yieldAt) / 700)))

/-! ### Fault domains and kills (R29, R254) -/

/-- A region is killed; its RCB and notify writes wait. -/
def State.killByDomain (s : State) (r : Nat) (own : Bool) (f : FaultRec) : State :=
  (s.kill r).updRegion r fun y => { y with st := .faulted, killed := some (own, f), fault := none, stop := .no }

/-- Freeze-notify on one region: the wave and a save, or a kill when no area is free. Whether one is free is judged as the
policy acts, and the area is taken then (log entry 85). -/
def State.freezeByDomain (s : State) (r : Nat) (own : Bool) (f : FaultRec) : State :=
  match s.askStop .wave [r] with
  | some s1 => s1.updRegion r fun y => { y with domainSave := some (own, f), fault := none }
  | none =>
    match s.region r with
    | some x => (s.rcbWrite x 0x90 (BitVec.allOnes 64) (BitVec.allOnes 64)).killByDomain r own f
    | none => s

/-- The regions of a fault domain: placed, of one plan and one id (R29). -/
def State.domainOf (s : State) (x : Region) : List Nat :=
  (List.range s.regions.length).filter fun i => (s.region i).any fun y =>
    y.vd == x.vd && y.place.isSome && y.plan == x.plan && y.domain == x.domain && y.killed.isNone && y.domainSave.isNone

/-- The policy acts on every region of a list. -/
def State.actOn (s : State) (killIt : Bool) (r : Nat) (f : FaultRec) : List Nat → State
  | [] => s
  | q :: l => (if killIt then s.killByDomain q (q == r) f else s.freezeByDomain q (q == r) f).actOn killIt r f l

/-- Restart: the tasks of the region end, its fabric is off, and the lead task starts afresh where it is. -/
def State.restart (s : State) (r : Nat) (x : Region) : Option State :=
  let s1 := (s.releaseTiles x.tilesOf).own x.vd x.gen x.tilesOf
  let s2 := { s1 with
    accs := s1.accs.filter fun (a : Access) => !(a.ofRegion r && a.droppedByKill)
    threads := s1.threads.filter fun (t : Thread) => t.region != some r }
  let s3 := s2.orphan fun a => a.ofRegion r
  let y := { x with
    restarted := true, fault := none, stop := .no, marked := false, hat := none
    bars := Vector.replicate 16 {}, barSel := 0, issuers := [], tagHeld := [], tagKilled := [] }
  ((s3.setRegion r y).settleFreeze r 2).launch r y

/-- FAULT_DOMAIN_ACTION. -/
def execFaultDomainAction (r : Nat) (s : State) : Out :=
  match s.region r with
  | none => .next s
  | some x =>
    match x.fault with
    | none => .next s
    | some f =>
      if x.place.isNone || !s.vdLive x.vd || x.domainSave.isSome || (s.recs (s.domainOf x)).any s.rcbWaits then .next s
      else if x.policy = 2 && !x.restarted then .next ((s.restart r x).getD s)
      else .next (s.actOn (x.policy == 1) r f (s.domainOf x))

/-- KILL_NOTIFY_WRITE: once every write of the region that had left has been performed. -/
def execKillNotifyWrite (r : Nat) (s : State) : Out :=
  match s.region r with
  | none => .next s
  | some x =>
    match x.killed with
    | none => .next s
    | some (own, f) =>
      s.event (!s.writesOut r && s.vdLive x.vd && !s.endWaits x)
        (((((s.writeTime r).recordFault x own f).setRState r .faulted).updRegion r fun y => { y with killed := none }).notify r
          |>.settleFreeze r 2)

/-! ### Soft errors (R262) -/

/-- SOFT_ERROR_CORRECTED: it is counted, saturating (R287). -/
def execSoftErrorCorrected (s : State) : Out :=
  .next { s with cecnt := if s.cecnt = BitVec.allOnes 64 then s.cecnt else s.cecnt + 1 }

/-- Every VD of a list is fenced. -/
def State.fenceAll (s : State) : List Nat → State
  | [] => s
  | v :: r => (s.fence v cMachineCheck).fenceAll r

/-- SOFT_ERROR_UNCORRECTABLE: MACHINE_CHECK of the VD that owns the state, or of every VD. -/
def execSoftErrorUncorrectable (owner : Option (Fin 32)) (s : State) : Out :=
  .next (match owner with
    | some v => s.fence v cMachineCheck
    | none => s.fenceAll (List.range Config.vds))

end Sys2Proof.Machine
end

