-- ==== Sys2Proof/Machine/Host.lean ====
section
/-!
DEFINITION. The host port (R276 to R282), start-up (R286), power (R287), and lost frames (R283). An inbound access
names a function and an offset: below 64 GiB in BAR2 of a virtual function, from 64 GiB on in its BAR0; function 0 has
BAR0 only.
-/
namespace Sys2Proof.Machine

/-! ### Inbound accesses (R277) -/

/-- Size of BAR2, and entry i of the inbound window table of a function (R277, R281). -/
def bar2Size : Nat := 2 ^ 36
def State.inEntry (s : State) (f i : Nat) : Word := w64 (s.rd (Config.ioBase + 0x2000000 + f * 0x100 + 8 * i) 8)

/-- What judging a piece of an inbound access says. -/
inductive Judged where
  | ok (pa win : Nat) (s : State)
  | fail
  | integrity
  | wait

/-- One piece, inside a block, at an offset of BAR2 of function f (R277). -/
def State.judgeMem (s : State) (f off n : Nat) (u : Use) : Judged :=
  let vd := f - 1
  let e := s.inEntry f (off / 2 ^ 32)
  let ipa := bits e 0 16 * 2 ^ 32 + off % 2 ^ 32
  if !e.getLsbD 63 || (if u = .read then !e.getLsbD 61 else !e.getLsbD 62) then .fail
  else match s.stage2 vd ipa u with
  | .error .wait => .wait
  | .error (.fault c) => if c = cIntegrity then .integrity else .fail
  | .ok l =>
    let pa := l.out ipa
    let place := l.kind = 0 || (l.kind = 1 && u ≠ .atomic) || (l.kind = 3 && u ≠ .atomic && isTilePa pa &&
      (tileOfPa pa).1 = (s.vd vd).steward && (tileOfPa pa).2 + n ≤ Config.tileStore)
    if !place then .fail
    else match s.physCheck vd l.kind l.win pa u l.ord with
    | some .wait => .wait
    | some (.fault _) => .fail
    | none =>
      if s.stalled pa then .wait
      else if s.writeBad pa (u.writes && n == 64) then .integrity
      else .ok pa l.win (s.setBits [(l.loc, if u.writes then 0xC0 else 0x40)])

/-- One piece of either BAR. -/
def State.judge (s : State) (f off n : Nat) (u : Use) : Judged :=
  let bar0 (o : Nat) : Judged := if o + n ≤ 0x10000 && u ≠ .atomic then .ok (mailbox f + o) 0 s else .fail
  if f = 0 then bar0 off
  else if bar2Size ≤ off then bar0 (off - bar2Size)
  else if (s.vd (f - 1)).st = .none then .fail
  else s.judgeMem f off n u

/-- A piece of a request: where it lies, its window, its length, and its offset in the request. -/
structure InPiece where
  pa : Nat
  win : Nat
  n : Nat
  off : Nat

/-- A request judged whole (R277). -/
inductive Verdict where
  | ok (ps : List InPiece) (s : State)
  | fail
  | integrity
  | wait

/-- The pieces of a request, one in each block. -/
def State.judgeAll (s : State) (f : Nat) (u : Use) : List (Word × Nat × Nat) → Verdict
  | [] => .ok [] s
  | (o, n, k) :: r =>
    match s.judge f o.toNat n u with
    | .fail => .fail
    | .integrity => .integrity
    | .wait => .wait
    | .ok pa win s1 =>
      match s1.judgeAll f u r with
      | .ok ps s2 => .ok (⟨pa, win, n, k⟩ :: ps) s2
      | v => v
def State.judgeRequest (s : State) (f off n : Nat) (u : Use) : Verdict :=
  s.judgeAll f u (blockParts (n / 64 + 2) (w64 off) n 0)

/-- The VD of a function is fenced (R262). -/
def State.fnFenced (s : State) (f : Nat) : Bool := f != 0 && (s.vd (f - 1)).st == .fenced

/-! ### Posted writes and their order (R228, R278) -/

/-- Posted writes of a function that are not all acknowledged. -/
def State.postedOf (s : State) (f : Nat) : List Posted := s.posted.filter fun p => p.fn == f

/-- An access of the host port: to n bytes inside a block. -/
def State.inboundAccess (s : State) (f : Nat) (kind : AccKind) (pa win n : Nat) : Access :=
  { id := 0, party := .inbound f, win := win, vd := if f = 0 then Config.vds else f - 1, kind := kind, pa := pa, size := n
    page := 2, cls := 3
    gen := (match homeOf pa with
      | .store t _ => match (s.tileAt t).core.owner with
        | some o => o.2
        | none => 0
      | _ => 0)
    needs := (2, 0) :: (match homeOf pa with
      | .hbm st _ => [(0, st)]
      | _ => []) }

/-- The parts of a posted write are sent. -/
def State.sendParts (s : State) (f : Nat) : List (Nat × Nat × List Byte) → State × List Nat
  | [] => (s, [])
  | (pa, win, l) :: r =>
    let a : Access := { s.inboundAccess f .store pa win l.length with
      data := BitVec.ofNat 512 (ofBytes l), mask := BitVec.ofNat 512 (fullMask l.length) }
    let (s1, ids) := (s.enterAccess a).sendParts f r
    (s1, s.nextId :: ids)

/-- The posted write of a number leaves the ordering point. -/
def State.sendPosted (s : State) (id : Nat) : State :=
  match s.posted.find? fun p => p.id == id with
  | none => s
  | some p =>
    let (s1, ids) := s.sendParts p.fn p.parts
    { s1 with posted := s1.posted.map fun (q : Posted) => if q.id = id then { q with sent := true, out := ids } else q }

/-- The oldest write of a function leaves when it has been held until now. -/
def State.releasePosted (s : State) (f : Nat) : State :=
  match s.postedOf f with
  | p :: _ => if p.sent then s else s.sendPosted p.id
  | [] => s

/-- A write that passes enters the ordering point, and leaves at once or is held. -/
def State.acceptPosted (s : State) (f : Nat) (xs : List Byte) (relaxed : Bool) (ps : List InPiece) : State :=
  let id := s.nextId
  let s1 : State := { s with
    nextId := id + 1
    posted := s.posted ++ [{ id := id, fn := f, relaxed := relaxed, parts := ps.map fun p => (p.pa, p.win, (xs.drop p.off).take p.n) }] }
  if relaxed || (s.postedOf f).isEmpty then s1.sendPosted id else s1

/-- INBOUND_POSTED_WRITE. -/
def execInboundPostedWrite (f : Nat) (off : Nat) (xs : List Byte) (relaxed : Bool) (s : State) : Out :=
  if s.perst || Config.vds < f || xs.isEmpty || 4096 < xs.length || 64 ≤ (s.postedOf f).length then .next s
  else if s.fnFenced f then .next (s.countDropped f)
  else match s.judgeRequest f off xs.length .write with
  | .wait => .next s
  | .fail => .next (s.countDropped f)
  | .integrity => .next ((s.fence (f - 1) cIntegrity).countDropped f)
  | .ok ps s1 => .next (s1.acceptPosted f xs relaxed ps)

/-! ### Reads and atomics (R228, R262, R270, R276, R277) -/

/-- The accesses of an inbound read or AtomicOp are sent: each with its offset in the request. -/
def State.sendReads (s : State) (q : InRead) : List (Nat × Nat × Nat × Nat) → State × List (Nat × Nat)
  | [] => (s, [])
  | (pa, win, n, off) :: r =>
    let a : Access := match q.op with
      | none => s.inboundAccess q.fn .load pa win n
      | some (op, x, y) => { s.inboundAccess q.fn (.atom op) pa win n with data := x.setWidth 512, cmp := y }
    let (s1, ids) := (s.enterAccess a).sendReads q r
    (s1, (s.nextId, off) :: ids)

/-- An inbound read leaves once every earlier posted write of its function has been performed (R228). -/
def State.readReady (s : State) (q : InRead) : Bool :=
  !q.sent && q.after.all fun i => s.posted.all fun p => p.id != i

/-- Those of a list of inbound reads that may leave do so. -/
def State.releaseReads (s : State) : List InRead → State
  | [] => s
  | q :: r =>
    (if s.readReady q then
      let (s1, ids) := s.sendReads q q.parts
      { s1 with asked := s1.asked.map fun (y : InRead) => if y.id = q.id then { y with sent := true, out := ids } else y }
    else s).releaseReads r

/-- A request enters the ordering point behind the posted writes of its function, and leaves when they let it. -/
def State.ask (s : State) (f n : Nat) (op : Option (AtomOp × Word × Word)) (ps : List InPiece) : State :=
  let q : InRead := {
    id := s.nextId, fn := f, size := n, op := op, after := (s.postedOf f).map Posted.id
    parts := ps.map fun p => (p.pa, p.win, p.n, p.off) }
  ({ s with nextId := s.nextId + 1, asked := s.asked ++ [q] } : State).releaseReads [q]

/-- The bytes of a performed access reach the request that asked for them. -/
def InRead.take (q : InRead) (a : Access) : InRead :=
  let r := q.out.filter fun o => o.1 != a.id
  match q.out.find? fun o => o.1 == a.id with
  | some (_, off) => { q with out := r, got := q.got ||| (a.val.toNat % 2 ^ (8 * a.size)) <<< (8 * off) }
  | none => q

/-- A request whose last part has come is answered (R276). -/
def State.answerReads (s : State) : State :=
  let due (q : InRead) : Bool := q.sent && q.out.isEmpty
  { s with
    asked := s.asked.filter fun q => !due q
    sent := s.sent ++ (s.asked.filter due).map fun q => Sent.completion q.fn (toBytes q.size q.got) }

/-- ROUTE_ACK: a part that has been performed is acknowledged; a write with no part left is done, and what it held may go; a
read or AtomicOp with no part left is answered. -/
def execRouteAck (f : Nat) (id : Nat) (s : State) : Out :=
  match s.acc id with
  | none => .next s
  | some a =>
    if a.party != .inbound f || !a.isPerformed then .next s
    else
      let s1 := s.dropAcc id
      let l := s1.posted.map fun (p : Posted) => { p with out := p.out.filter fun i => i != id }
      let s2 := (({ s1 with
        posted := l.filter fun (p : Posted) => !p.sent || !p.out.isEmpty
        asked := s1.asked.map fun (q : InRead) => q.take a } : State).answerReads).releasePosted f
      .next (s2.releaseReads s2.asked)

/-- INBOUND_READ. -/
def execInboundRead (f : Nat) (off n : Nat) (s : State) : Out :=
  let answer (s : State) (x : Sent) : Out := .next { s with sent := s.sent ++ [x] }
  if s.perst || Config.vds < f || n = 0 || 4096 < n then .next s
  else if s.fnFenced f then answer s (.abort f)
  else match s.judgeRequest f off n .read with
  | .wait => .next s
  | .fail => answer s (.unsupported f)
  | .integrity => answer (s.fence (f - 1) cIntegrity) (.abort f)
  | .ok ps s1 => .next (s1.ask f n none ps)

/-- What an AtomicOp does at the home: for CAS, x is the comparand and y the new value. -/
def pcieOp (op : PcieAtomic) (x y : Word) : AtomOp × Word × Word :=
  match op with
  | .fetchAdd => (.add, x, 0)
  | .swap => (.swap, x, 0)
  | .cas => (.cas, y, x)

/-- INBOUND_ATOMIC: for CAS, x is the comparand and y the new value. -/
def execInboundAtomic (f : Nat) (off : Nat) (op : PcieAtomic) (dword : Bool) (x y : Word) (s : State) : Out :=
  let n := if dword then 8 else 4
  let answer (s : State) (x : Sent) : Out := .next { s with sent := s.sent ++ [x] }
  if s.perst || Config.vds < f then .next s
  else if s.fnFenced f then answer s (.abort f)
  else if off % n ≠ 0 then answer s (.unsupported f)
  else match s.judge f off n .atomic with
  | .wait => .next s
  | .fail => answer s (.unsupported f)
  | .integrity => answer (s.fence (f - 1) cIntegrity) (.abort f)
  | .ok pa win s1 => .next (s1.ask f n (some (pcieOp op x y)) [⟨pa, win, n, 0⟩])

/-! ### Start-up (R286) -/

/-- A stage begins, and fails when it has an error. -/
def State.stageAt (s : State) (from_ : Nat) (err : BitVec 8) (f : State → State) : Out :=
  s.event (!s.perst && !s.halted && s.stage == from_)
    (let s1 : State := { s with stage := from_ + 1, bootErr := err, halted := err != 0 }
     (if err = 0 then f s1 else s1).status 0 false false 0)

/-- PERST_RELEASE: device reset ends, CYCLE is 0, and stage 1 is behind. -/
def execPerstRelease (s : State) : Out :=
  s.event s.perst (({ s with perst := false, stage := 1, cycle := 0 } : State).status 0 false false 0)

/-- ROT_FIRMWARE_VERIFY: the image is measured into measurement 1. -/
def execRotFirmwareVerify (err : BitVec 8) (s : State) : Out :=
  s.stageAt 1 err fun s => { s with measured := (some (Config.measure s.tick), s.measured.2), tick := s.tick + 1 }

/-- The service cores of a list begin their firmware in H. -/
def State.startFirmware (s : State) : List Nat → State
  | [] => s
  | k :: r =>
    (s.updCore (Config.tiles + k) fun c =>
      { c with pc := Config.firmwarePc k, lvl := .h, status := .run, task := some { role := .firmware, vd := Config.vds } })
      |>.startFirmware r

/-- FIRMWARE_INIT: the firmware runs on the service cores; the stage fails by a tile or by a stack. -/
def execFirmwareInit (err : BitVec 8) (s : State) : Out :=
  if err ≠ 0 && err ≠ 0x21 && err ≠ 0x22 then .next s
  else s.stageAt 2 err fun s => s.startFirmware (List.range Config.serviceCores)

/-- MILLINER_INIT: every wheel slot is unowned, and the configuration is measured into measurement 2. -/
def execMillinerInit (err : BitVec 8) (s : State) : Out :=
  s.stageAt 3 err fun s =>
    { s with
      wheels := [], wheelsNext := [], measured := (s.measured.1, some (Config.measure s.tick)), tick := s.tick + 1 }

/-- DEVICE_READY. -/
def execDeviceReady (s : State) : Out := s.stageAt 4 0 fun s => { s with ready := true }

/-- PERST_ASSERT: the device is in reset; what has left it, its choices and its free values stay. -/
def execPerstAssert (s : State) : Out :=
  .next { State.reset with sent := s.sent, agenda := s.agenda, tick := s.tick, off := s.off }

/-- CONFIGURATION_REQUEST: Request Retry Status until stage 5, then an answer that is a free value. -/
def execConfigurationRequest (req : List Byte) (s : State) : Out :=
  .next (if s.perst then s
    else if s.stage < 5 then { s with sent := s.sent ++ [.retry] }
    else { s with sent := s.sent ++ [.config (Config.configReply s.tick req)], tick := s.tick + 1 })

/-! ### Power (R287) -/

/-- The power cap in mW. -/
def State.capMw (s : State) : Nat := 1000 * (if s.pcap = 0 || 4800 < s.pcap.toNat then 4800 else s.pcap.toNat)

/-- A region of a class runs. -/
def State.classRuns (s : State) (c : Nat) : Bool := s.regions.any fun x => x.place.isSome && x.st == .running && x.aged == c
/-- The turn of a class to be throttled: first C3, then C2 and C1, C0 last; a class whose turn is past is throttled or
does not run. -/
def State.mayThrottle (s : State) (cls : Nat) : Bool :=
  let past (c : Nat) : Bool := s.slow.getLsbD c || !s.classRuns c
  s.classRuns cls && (match cls with
    | 3 => true
    | 0 => past 1 && past 2 && past 3
    | _ => past 3)

/-- POWER_THROTTLE: what the sensors read, and, over a limit, that the regions of a class are slowed when its turn has
come. -/
def execPowerThrottle (cls : Fin 4) (mw : BitVec 32) (temp : BitVec 16) (s : State) : Out :=
  let s1 : State := { s with pwrnow := mw, tempmax := temp }
  .next (if s.capMw < mw.toNat || 1600 ≤ temp.toNat then
      (if s.mayThrottle cls then
        { s1 with slow := s.slow ||| (1 <<< cls.val), throt := s.throt ||| (if cls = 0 then 3 else 1) }
      else s1)
    else { s1 with slow := 0 })

/-- OVERTEMP_SHUTDOWN: at 110 °C the device removes its own power, and all state is lost. -/
def execOvertempShutdown (s : State) : Out :=
  s.event (decide (1760 ≤ s.tempmax.toNat)) { State.reset with sent := s.sent, tick := s.tick, off := true }

/-! ### Lost frames (R283) -/

/-- FRAME_RETRANSMIT: the transport sends frame n again; the peer takes each payload exactly once, so nothing changes. -/
def execFrameRetransmit (_n : Nat) (s : State) : Out := .next s

end Sys2Proof.Machine
end

