-- ==== Sys2Proof/Machine/Dispatch.lean ====
section
/-!
DEFINITION. The dispatch of a row of the opcode table to its meaning, one arm for each constructor of Instr.
-/
namespace Sys2Proof.Machine

/-- The meaning of every instruction, and of every move the device makes by itself. -/
def exec (i : Instr) (s : State) : Host.Outcome State Fault Refusal :=
  match i with
  | .add x1 x2 x3 x4 x5 => Sys2Proof.Machine.execAdd x1 x2 x3 x4 x5 s
  | .addImm x1 x2 x3 x4 x5 => Sys2Proof.Machine.execAddImm x1 x2 x3 x4 x5 s
  | .nop => Sys2Proof.Machine.execNop s
  | .sub x1 x2 x3 x4 x5 => Sys2Proof.Machine.execSub x1 x2 x3 x4 x5 s
  | .mul x1 x2 x3 x4 x5 => Sys2Proof.Machine.execMul x1 x2 x3 x4 x5 s
  | .mulh x1 x2 x3 x4 x5 => Sys2Proof.Machine.execMulh x1 x2 x3 x4 x5 s
  | .div x1 x2 x3 x4 x5 => Sys2Proof.Machine.execDiv x1 x2 x3 x4 x5 s
  | .rem x1 x2 x3 x4 x5 => Sys2Proof.Machine.execRem x1 x2 x3 x4 x5 s
  | .and x1 x2 x3 x4 => Sys2Proof.Machine.execAnd x1 x2 x3 x4 s
  | .andImm x1 x2 x3 x4 => Sys2Proof.Machine.execAndImm x1 x2 x3 x4 s
  | .andn x1 x2 x3 x4 => Sys2Proof.Machine.execAndn x1 x2 x3 x4 s
  | .or x1 x2 x3 x4 => Sys2Proof.Machine.execOr x1 x2 x3 x4 s
  | .orImm x1 x2 x3 x4 => Sys2Proof.Machine.execOrImm x1 x2 x3 x4 s
  | .xor x1 x2 x3 x4 => Sys2Proof.Machine.execXor x1 x2 x3 x4 s
  | .xorImm x1 x2 x3 x4 => Sys2Proof.Machine.execXorImm x1 x2 x3 x4 s
  | .shl x1 x2 x3 x4 x5 => Sys2Proof.Machine.execShl x1 x2 x3 x4 x5 s
  | .shlImm x1 x2 x3 x4 x5 => Sys2Proof.Machine.execShlImm x1 x2 x3 x4 x5 s
  | .shr x1 x2 x3 x4 x5 => Sys2Proof.Machine.execShr x1 x2 x3 x4 x5 s
  | .shrImm x1 x2 x3 x4 x5 => Sys2Proof.Machine.execShrImm x1 x2 x3 x4 x5 s
  | .sar x1 x2 x3 x4 x5 => Sys2Proof.Machine.execSar x1 x2 x3 x4 x5 s
  | .sarImm x1 x2 x3 x4 x5 => Sys2Proof.Machine.execSarImm x1 x2 x3 x4 x5 s
  | .min x1 x2 x3 x4 x5 => Sys2Proof.Machine.execMin x1 x2 x3 x4 x5 s
  | .minImm x1 x2 x3 x4 x5 => Sys2Proof.Machine.execMinImm x1 x2 x3 x4 x5 s
  | .max x1 x2 x3 x4 x5 => Sys2Proof.Machine.execMax x1 x2 x3 x4 x5 s
  | .maxImm x1 x2 x3 x4 x5 => Sys2Proof.Machine.execMaxImm x1 x2 x3 x4 x5 s
  | .cmp x1 x2 x3 x4 x5 => Sys2Proof.Machine.execCmp x1 x2 x3 x4 x5 s
  | .cmpImm x1 x2 x3 x4 x5 => Sys2Proof.Machine.execCmpImm x1 x2 x3 x4 x5 s
  | .sel x1 x2 x3 x4 x5 => Sys2Proof.Machine.execSel x1 x2 x3 x4 x5 s
  | .clz x1 x2 x3 => Sys2Proof.Machine.execClz x1 x2 x3 s
  | .popc x1 x2 x3 => Sys2Proof.Machine.execPopc x1 x2 x3 s
  | .bext x1 x2 x3 x4 x5 x6 => Sys2Proof.Machine.execBext x1 x2 x3 x4 x5 x6 s
  | .bins x1 x2 x3 x4 x5 => Sys2Proof.Machine.execBins x1 x2 x3 x4 x5 s
  | .plog x1 x2 x3 x4 x5 => Sys2Proof.Machine.execPlog x1 x2 x3 x4 x5 s
  | .movi x1 x2 x3 => Sys2Proof.Machine.execMovi x1 x2 x3 s
  | .movhi x1 x2 x3 => Sys2Proof.Machine.execMovhi x1 x2 x3 s
  | .br x1 x2 x3 => Sys2Proof.Machine.execBr x1 x2 x3 s
  | .cbr x1 x2 x3 x4 x5 x6 => Sys2Proof.Machine.execCbr x1 x2 x3 x4 x5 x6 s
  | .call x1 x2 x3 x4 => Sys2Proof.Machine.execCall x1 x2 x3 x4 s
  | .jmp x1 x2 x3 x4 => Sys2Proof.Machine.execJmp x1 x2 x3 x4 s
  | .ret x1 x2 x3 => Sys2Proof.Machine.execRet x1 x2 x3 s
  | .loop x1 x2 x3 x4 => Sys2Proof.Machine.execLoop x1 x2 x3 x4 s
  | .rep x1 x2 x3 x4 x5 x6 => Sys2Proof.Machine.execRep x1 x2 x3 x4 x5 x6 s
  | .ld x1 x2 x3 x4 x5 x6 x7 x8 => Sys2Proof.Machine.execLd x1 x2 x3 x4 x5 x6 x7 x8 s
  | .st x1 x2 x3 x4 x5 x6 x7 x8 => Sys2Proof.Machine.execSt x1 x2 x3 x4 x5 x6 x7 x8 s
  | .aadd x1 x2 x3 x4 x5 x6 x7 x8 => Sys2Proof.Machine.execAadd x1 x2 x3 x4 x5 x6 x7 x8 s
  | .aand x1 x2 x3 x4 x5 x6 x7 x8 => Sys2Proof.Machine.execAand x1 x2 x3 x4 x5 x6 x7 x8 s
  | .aor x1 x2 x3 x4 x5 x6 x7 x8 => Sys2Proof.Machine.execAor x1 x2 x3 x4 x5 x6 x7 x8 s
  | .axor x1 x2 x3 x4 x5 x6 x7 x8 => Sys2Proof.Machine.execAxor x1 x2 x3 x4 x5 x6 x7 x8 s
  | .amin x1 x2 x3 x4 x5 x6 x7 x8 => Sys2Proof.Machine.execAmin x1 x2 x3 x4 x5 x6 x7 x8 s
  | .amax x1 x2 x3 x4 x5 x6 x7 x8 => Sys2Proof.Machine.execAmax x1 x2 x3 x4 x5 x6 x7 x8 s
  | .aswap x1 x2 x3 x4 x5 x6 x7 x8 => Sys2Proof.Machine.execAswap x1 x2 x3 x4 x5 x6 x7 x8 s
  | .acas x1 x2 x3 x4 x5 x6 x7 x8 => Sys2Proof.Machine.execAcas x1 x2 x3 x4 x5 x6 x7 x8 s
  | .afmax x1 x2 x3 x4 x5 x6 x7 x8 => Sys2Proof.Machine.execAfmax x1 x2 x3 x4 x5 x6 x7 x8 s
  | .afadd x1 x2 x3 x4 x5 x6 x7 x8 => Sys2Proof.Machine.execAfadd x1 x2 x3 x4 x5 x6 x7 x8 s
  | .fenceFull x1 x2 => Sys2Proof.Machine.execFenceFull x1 x2 s
  | .fenceRel x1 x2 => Sys2Proof.Machine.execFenceRel x1 x2 s
  | .fenceAcq x1 x2 => Sys2Proof.Machine.execFenceAcq x1 x2 s
  | .fenceFetch x1 x2 => Sys2Proof.Machine.execFenceFetch x1 x2 s
  | .waita x1 x2 x3 x4 x5 => Sys2Proof.Machine.execWaita x1 x2 x3 x4 x5 s
  | .waitaWake x1 => Sys2Proof.Machine.execWaitaWake x1 s
  | .bar x1 x2 => Sys2Proof.Machine.execBar x1 x2 s
  | .barEpisodeClose x1 x2 => Sys2Proof.Machine.execBarEpisodeClose x1 x2 s
  | .vadd x1 x2 x3 x4 x5 x6 => Sys2Proof.Machine.execVadd x1 x2 x3 x4 x5 x6 s
  | .vsub x1 x2 x3 x4 x5 x6 => Sys2Proof.Machine.execVsub x1 x2 x3 x4 x5 x6 s
  | .vmul x1 x2 x3 x4 x5 x6 => Sys2Proof.Machine.execVmul x1 x2 x3 x4 x5 x6 s
  | .vfma x1 x2 x3 x4 x5 x6 x7 => Sys2Proof.Machine.execVfma x1 x2 x3 x4 x5 x6 x7 s
  | .vmax x1 x2 x3 x4 x5 => Sys2Proof.Machine.execVmax x1 x2 x3 x4 x5 s
  | .vmin x1 x2 x3 x4 x5 => Sys2Proof.Machine.execVmin x1 x2 x3 x4 x5 s
  | .vabs x1 x2 x3 x4 => Sys2Proof.Machine.execVabs x1 x2 x3 x4 s
  | .vneg x1 x2 x3 x4 => Sys2Proof.Machine.execVneg x1 x2 x3 x4 s
  | .vand x1 x2 x3 x4 x5 => Sys2Proof.Machine.execVand x1 x2 x3 x4 x5 s
  | .vor x1 x2 x3 x4 x5 => Sys2Proof.Machine.execVor x1 x2 x3 x4 x5 s
  | .vxor x1 x2 x3 x4 x5 => Sys2Proof.Machine.execVxor x1 x2 x3 x4 x5 s
  | .vcmp x1 x2 x3 x4 x5 x6 => Sys2Proof.Machine.execVcmp x1 x2 x3 x4 x5 x6 s
  | .vsel x1 x2 x3 x4 x5 x6 => Sys2Proof.Machine.execVsel x1 x2 x3 x4 x5 x6 s
  | .vmov x1 x2 x3 => Sys2Proof.Machine.execVmov x1 x2 x3 s
  | .vbcast x1 x2 x3 x4 => Sys2Proof.Machine.execVbcast x1 x2 x3 x4 s
  | .vext x1 x2 x3 x4 => Sys2Proof.Machine.execVext x1 x2 x3 x4 s
  | .vmask x1 x2 x3 x4 x5 => Sys2Proof.Machine.execVmask x1 x2 x3 x4 x5 s
  | .vexp2 x1 x2 x3 x4 => Sys2Proof.Machine.execVexp2 x1 x2 x3 x4 s
  | .vlog2 x1 x2 x3 x4 => Sys2Proof.Machine.execVlog2 x1 x2 x3 x4 s
  | .vrcp x1 x2 x3 x4 => Sys2Proof.Machine.execVrcp x1 x2 x3 x4 s
  | .vrsq x1 x2 x3 x4 => Sys2Proof.Machine.execVrsq x1 x2 x3 x4 s
  | .vcvt x1 x2 x3 x4 x5 x6 x7 => Sys2Proof.Machine.execVcvt x1 x2 x3 x4 x5 x6 x7 s
  | .vqnt x1 x2 x3 x4 x5 x6 => Sys2Proof.Machine.execVqnt x1 x2 x3 x4 x5 x6 s
  | .vdq x1 x2 x3 x4 x5 x6 x7 => Sys2Proof.Machine.execVdq x1 x2 x3 x4 x5 x6 x7 s
  | .vscl x1 x2 x3 x4 x5 => Sys2Proof.Machine.execVscl x1 x2 x3 x4 x5 s
  | .vld x1 x2 x3 x4 x5 x6 x7 x8 => Sys2Proof.Machine.execVld x1 x2 x3 x4 x5 x6 x7 x8 s
  | .vst x1 x2 x3 x4 x5 x6 x7 x8 => Sys2Proof.Machine.execVst x1 x2 x3 x4 x5 x6 x7 x8 s
  | .vldx x1 x2 x3 x4 x5 x6 x7 x8 => Sys2Proof.Machine.execVldx x1 x2 x3 x4 x5 x6 x7 x8 s
  | .vstx x1 x2 x3 x4 x5 x6 x7 x8 => Sys2Proof.Machine.execVstx x1 x2 x3 x4 x5 x6 x7 x8 s
  | .vldz x1 x2 x3 x4 x5 x6 x7 x8 => Sys2Proof.Machine.execVldz x1 x2 x3 x4 x5 x6 x7 x8 s
  | .vstz x1 x2 x3 x4 x5 x6 x7 x8 => Sys2Proof.Machine.execVstz x1 x2 x3 x4 x5 x6 x7 x8 s
  | .vperm x1 x2 x3 x4 => Sys2Proof.Machine.execVperm x1 x2 x3 x4 s
  | .vscan x1 x2 x3 x4 x5 x6 x7 => Sys2Proof.Machine.execVscan x1 x2 x3 x4 x5 x6 x7 s
  | .vred x1 x2 x3 x4 x5 x6 => Sys2Proof.Machine.execVred x1 x2 x3 x4 x5 x6 s
  | .vcomp x1 x2 x3 => Sys2Proof.Machine.execVcomp x1 x2 x3 s
  | .vxpnd x1 x2 x3 x4 => Sys2Proof.Machine.execVxpnd x1 x2 x3 x4 s
  | .vunpk x1 x2 x3 x4 x5 => Sys2Proof.Machine.execVunpk x1 x2 x3 x4 x5 s
  | .vpack x1 x2 x3 x4 x5 => Sys2Proof.Machine.execVpack x1 x2 x3 x4 x5 s
  | .vrank x1 x2 x3 x4 x5 => Sys2Proof.Machine.execVrank x1 x2 x3 x4 x5 s
  | .vtab x1 x2 x3 x4 => Sys2Proof.Machine.execVtab x1 x2 x3 x4 s
  | .vcnt x1 x2 x3 => Sys2Proof.Machine.execVcnt x1 x2 x3 s
  | .vpop x1 x2 x3 => Sys2Proof.Machine.execVpop x1 x2 x3 s
  | .vpush x1 x2 x3 x4 x5 => Sys2Proof.Machine.execVpush x1 x2 x3 x4 x5 s
  | .parw x1 x2 x3 => Sys2Proof.Machine.execParw x1 x2 x3 s
  | .parwDef x1 x2 x3 => Sys2Proof.Machine.execParwDef x1 x2 x3 s
  | .parr x1 x2 x3 => Sys2Proof.Machine.execParr x1 x2 x3 s
  | .cfg x1 x2 => Sys2Proof.Machine.execCfg x1 x2 s
  | .cfgInstall x1 => Sys2Proof.Machine.execCfgInstall x1 s
  | .qwait x1 x2 => Sys2Proof.Machine.execQwait x1 x2 s
  | .qwaitW x1 x2 => Sys2Proof.Machine.execQwaitW x1 x2 s
  | .drain x1 x2 x3 => Sys2Proof.Machine.execDrain x1 x2 x3 s
  | .mark x1 x2 => Sys2Proof.Machine.execMark x1 x2 s
  | .kill x1 x2 x3 => Sys2Proof.Machine.execKill x1 x2 x3 s
  | .thrd x1 x2 => Sys2Proof.Machine.execThrd x1 x2 s
  | .thrdK x1 x2 => Sys2Proof.Machine.execThrdK x1 x2 s
  | .rdot x1 x2 x3 x4 x5 x6 x7 x8 x9 x10 x11 => Sys2Proof.Machine.execRdot x1 x2 x3 x4 x5 x6 x7 x8 x9 x10 x11 s
  | .ddot x1 x2 x3 x4 x5 x6 x7 x8 x9 x10 x11 => Sys2Proof.Machine.execDdot x1 x2 x3 x4 x5 x6 x7 x8 x9 x10 x11 s
  | .macroStepResult x1 => Sys2Proof.Machine.execMacroStepResult x1 s
  | .rank x1 x2 x3 x4 => Sys2Proof.Machine.execRank x1 x2 x3 x4 s
  | .aclr x1 x2 => Sys2Proof.Machine.execAclr x1 x2 s
  | .ald x1 x2 x3 x4 => Sys2Proof.Machine.execAld x1 x2 x3 x4 s
  | .ast x1 x2 x3 x4 => Sys2Proof.Machine.execAst x1 x2 x3 x4 s
  | .tpred x1 x2 x3 x4 x5 => Sys2Proof.Machine.execTpred x1 x2 x3 x4 x5 s
  | .cpy x1 x2 x3 x4 x5 x6 x7 x8 => Sys2Proof.Machine.execCpy x1 x2 x3 x4 x5 x6 x7 x8 s
  | .gth x1 x2 x3 x4 x5 => Sys2Proof.Machine.execGth x1 x2 x3 x4 x5 s
  | .coll x1 x2 x3 x4 x5 => Sys2Proof.Machine.execColl x1 x2 x3 x4 x5 s
  | .xwr x1 x2 x3 x4 x5 => Sys2Proof.Machine.execXwr x1 x2 x3 x4 x5 s
  | .engineCompletion x1 x2 => Sys2Proof.Machine.execEngineCompletion x1 x2 s
  | .peerWriteReceive x1 x2 x3 x4 => Sys2Proof.Machine.execPeerWriteReceive x1 x2 x3 x4 s
  | .peerLost x1 => Sys2Proof.Machine.execPeerLost x1 s
  | .spawn x1 x2 x3 => Sys2Proof.Machine.execSpawn x1 x2 x3 s
  | .run x1 x2 x3 => Sys2Proof.Machine.execRun x1 x2 x3 s
  | .exit x1 x2 => Sys2Proof.Machine.execExit x1 x2 s
  | .workerExitComplete x1 => Sys2Proof.Machine.execWorkerExitComplete x1 s
  | .regionExitComplete x1 => Sys2Proof.Machine.execRegionExitComplete x1 s
  | .yield x1 => Sys2Proof.Machine.execYield x1 s
  | .trap x1 x2 => Sys2Proof.Machine.execTrap x1 x2 s
  | .bkpt x1 x2 => Sys2Proof.Machine.execBkpt x1 x2 s
  | .srd x1 x2 x3 => Sys2Proof.Machine.execSrd x1 x2 x3 s
  | .swr x1 x2 x3 => Sys2Proof.Machine.execSwr x1 x2 x3 s
  | .eret x1 => Sys2Proof.Machine.execEret x1 s
  | .tlbiVa x1 x2 => Sys2Proof.Machine.execTlbiVa x1 x2 s
  | .tlbiAll x1 => Sys2Proof.Machine.execTlbiAll x1 s
  | .tlbiS2 x1 x2 x3 => Sys2Proof.Machine.execTlbiS2 x1 x2 x3 s
  | .tlbiS2all x1 x2 => Sys2Proof.Machine.execTlbiS2all x1 x2 s
  | .tlbiAck x1 => Sys2Proof.Machine.execTlbiAck x1 s
  | .dirty x1 x2 x3 => Sys2Proof.Machine.execDirty x1 x2 x3 s
  | .scrub x1 x2 x3 => Sys2Proof.Machine.execScrub x1 x2 x3 s
  | .frz x1 x2 x3 => Sys2Proof.Machine.execFrz x1 x2 x3 s
  | .frzVd x1 x2 x3 => Sys2Proof.Machine.execFrzVd x1 x2 x3 s
  | .frzVdThaw x1 => Sys2Proof.Machine.execFrzVdThaw x1 s
  | .wkeyOffer x1 x2 x3 => Sys2Proof.Machine.execWkeyOffer x1 x2 x3 s
  | .wkeyAccept x1 x2 x3 => Sys2Proof.Machine.execWkeyAccept x1 x2 x3 s
  | .wkeyInstall x1 x2 x3 => Sys2Proof.Machine.execWkeyInstall x1 x2 x3 s
  | .wkeyClose x1 x2 x3 => Sys2Proof.Machine.execWkeyClose x1 x2 x3 s
  | .wkeyFree x1 x2 x3 => Sys2Proof.Machine.execWkeyFree x1 x2 x3 s
  | .vdCreate x1 => Sys2Proof.Machine.execVdCreate x1 s
  | .vdGrant x1 => Sys2Proof.Machine.execVdGrant x1 s
  | .vdRevoke x1 => Sys2Proof.Machine.execVdRevoke x1 s
  | .vdStart x1 => Sys2Proof.Machine.execVdStart x1 s
  | .vdDestroy x1 => Sys2Proof.Machine.execVdDestroy x1 s
  | .vds2rootWrite x1 x2 => Sys2Proof.Machine.execVds2rootWrite x1 x2 s
  | .whdataWrite x1 => Sys2Proof.Machine.execWhdataWrite x1 s
  | .c0limWrite x1 => Sys2Proof.Machine.execC0limWrite x1 s
  | .s1rootWrite x1 x2 => Sys2Proof.Machine.execS1rootWrite x1 x2 s
  | .barcntWrite x1 x2 => Sys2Proof.Machine.execBarcntWrite x1 x2 s
  | .timebaseWrite x1 => Sys2Proof.Machine.execTimebaseWrite x1 s
  | .throtClear x1 => Sys2Proof.Machine.execThrotClear x1 s
  | .boundaryTableWrite x1 x2 x3 => Sys2Proof.Machine.execBoundaryTableWrite x1 x2 x3 s
  | .registerWrite x1 x2 x3 x4 => Sys2Proof.Machine.execRegisterWrite x1 x2 x3 x4 s
  | .accSlotWriteRelease x1 => Sys2Proof.Machine.execAccSlotWriteRelease x1 s
  | .orderLeave x1 => Sys2Proof.Machine.execOrderLeave x1 s
  | .queueArrive x1 => Sys2Proof.Machine.execQueueArrive x1 s
  | .nodePerform x1 => Sys2Proof.Machine.execNodePerform x1 s
  | .reencryptComplete x1 x2 => Sys2Proof.Machine.execReencryptComplete x1 x2 s
  | .accessReply x1 => Sys2Proof.Machine.execAccessReply x1 s
  | .ringPass => Sys2Proof.Machine.execRingPass s
  | .walkComplete x1 x2 x3 => Sys2Proof.Machine.execWalkComplete x1 x2 x3 s
  | .wheelSlot x1 x2 x3 => Sys2Proof.Machine.execWheelSlot x1 x2 x3 s
  | .regionPlace x1 => Sys2Proof.Machine.execRegionPlace x1 s
  | .quantumExpiry x1 => Sys2Proof.Machine.execQuantumExpiry x1 s
  | .watchdogExpiry x1 => Sys2Proof.Machine.execWatchdogExpiry x1 s
  | .markerPreemptStart x1 => Sys2Proof.Machine.execMarkerPreemptStart x1 s
  | .elementMarkerSave x1 x2 => Sys2Proof.Machine.execElementMarkerSave x1 x2 s
  | .corePreemptStop x1 => Sys2Proof.Machine.execCorePreemptStop x1 s
  | .regionSave x1 => Sys2Proof.Machine.execRegionSave x1 s
  | .preemptTimeout x1 => Sys2Proof.Machine.execPreemptTimeout x1 s
  | .freezeWave x1 => Sys2Proof.Machine.execFreezeWave x1 s
  | .regionRestore x1 => Sys2Proof.Machine.execRegionRestore x1 s
  | .faultDomainAction x1 => Sys2Proof.Machine.execFaultDomainAction x1 s
  | .killNotifyWrite x1 => Sys2Proof.Machine.execKillNotifyWrite x1 s
  | .requestTimeout x1 => Sys2Proof.Machine.execRequestTimeout x1 s
  | .softErrorCorrected => Sys2Proof.Machine.execSoftErrorCorrected s
  | .softErrorUncorrectable x1 => Sys2Proof.Machine.execSoftErrorUncorrectable x1 s
  | .quiescenceReport x1 => Sys2Proof.Machine.execQuiescenceReport x1 s
  | .trackHop x1 x2 => Sys2Proof.Machine.execTrackHop x1 x2 s
  | .threshArrive x1 => Sys2Proof.Machine.execThreshArrive x1 s
  | .killArrive x1 => Sys2Proof.Machine.execKillArrive x1 s
  | .agPoint x1 x2 => Sys2Proof.Machine.execAgPoint x1 x2 s
  | .agParamArrive x1 x2 => Sys2Proof.Machine.execAgParamArrive x1 x2 s
  | .muAccess x1 x2 => Sys2Proof.Machine.execMuAccess x1 x2 s
  | .muDone x1 x2 => Sys2Proof.Machine.execMuDone x1 x2 s
  | .mapFire x1 x2 => Sys2Proof.Machine.execMapFire x1 x2 s
  | .prefixFire x1 x2 => Sys2Proof.Machine.execPrefixFire x1 x2 s
  | .scoreFire x1 x2 => Sys2Proof.Machine.execScoreFire x1 x2 s
  | .boundHeader x1 x2 => Sys2Proof.Machine.execBoundHeader x1 x2 s
  | .boundThreshRise x1 x2 => Sys2Proof.Machine.execBoundThreshRise x1 x2 s
  | .topkFire x1 x2 => Sys2Proof.Machine.execTopkFire x1 x2 s
  | .mergeFire x1 x2 => Sys2Proof.Machine.execMergeFire x1 x2 s
  | .joinBuild x1 x2 => Sys2Proof.Machine.execJoinBuild x1 x2 s
  | .joinProbe x1 x2 => Sys2Proof.Machine.execJoinProbe x1 x2 s
  | .filterFire x1 x2 => Sys2Proof.Machine.execFilterFire x1 x2 s
  | .gatherRequest x1 x2 => Sys2Proof.Machine.execGatherRequest x1 x2 s
  | .gatherReply x1 x2 x3 => Sys2Proof.Machine.execGatherReply x1 x2 x3 s
  | .reduceFire x1 x2 => Sys2Proof.Machine.execReduceFire x1 x2 s
  | .quantFire x1 x2 => Sys2Proof.Machine.execQuantFire x1 x2 s
  | .selectFire x1 x2 => Sys2Proof.Machine.execSelectFire x1 x2 s
  | .flushMarkerAlign x1 x2 => Sys2Proof.Machine.execFlushMarkerAlign x1 x2 s
  | .inboundPostedWrite x1 x2 x3 x4 => Sys2Proof.Machine.execInboundPostedWrite x1 x2 x3 x4 s
  | .routeAck x1 x2 => Sys2Proof.Machine.execRouteAck x1 x2 s
  | .inboundRead x1 x2 x3 => Sys2Proof.Machine.execInboundRead x1 x2 x3 s
  | .inboundAtomic x1 x2 x3 x4 x5 x6 => Sys2Proof.Machine.execInboundAtomic x1 x2 x3 x4 x5 x6 s
  | .perstRelease => Sys2Proof.Machine.execPerstRelease s
  | .rotFirmwareVerify x1 => Sys2Proof.Machine.execRotFirmwareVerify x1 s
  | .firmwareInit x1 => Sys2Proof.Machine.execFirmwareInit x1 s
  | .millinerInit x1 => Sys2Proof.Machine.execMillinerInit x1 s
  | .deviceReady => Sys2Proof.Machine.execDeviceReady s
  | .powerThrottle x1 x2 x3 => Sys2Proof.Machine.execPowerThrottle x1 x2 x3 s
  | .overtempShutdown => Sys2Proof.Machine.execOvertempShutdown s
  | .configurationRequest x1 => Sys2Proof.Machine.execConfigurationRequest x1 s
  | .perstAssert => Sys2Proof.Machine.execPerstAssert s
  | .frameRetransmit x1 => Sys2Proof.Machine.execFrameRetransmit x1 s
  | .wordNotAnInstruction x1 x2 => Sys2Proof.Machine.execWordNotAnInstruction x1 x2 s
  | .instructionFetchFault x1 x2 => Sys2Proof.Machine.execInstructionFetchFault x1 x2 s

end Sys2Proof.Machine
end

