-- ==== Sys2Proof/Machine/Turn.lean ====
section
/-!
DEFINITION. The next move: the head of the agenda, or the default choice (R206; log entry 1), and when a core may
issue its next instruction (R208, R222).
-/
namespace Sys2Proof.Machine

/-! ### The registers an instruction reads (R208) -/

/-- Codes of registers as they stand in a field (R314). -/
def gs (l : List GReg) : List Nat := l.map fun r => r.val
def vs (l : List VReg) : List Nat := l.map fun r => 32 + r.val
def ps (l : List PReg) : List Nat := l.map fun r => 48 + r.val
def vgs : VG → List Nat
  | .g r => [r.val]
  | .v r => [32 + r.val]

/-- The registers that an instruction reads; an accumulator that ACLR or ALD writes counts as read. -/
def reads : Instr → List Nat
  | .add _ _ _ a b | .sub _ _ _ a b | .mul _ _ _ a b | .mulh _ _ _ a b | .div _ _ _ a b | .rem _ _ _ a b
  | .and _ _ a b | .andn _ _ a b | .or _ _ a b | .xor _ _ a b | .shl _ _ _ a b | .shr _ _ _ a b | .sar _ _ _ a b
  | .min _ _ _ a b | .max _ _ _ a b | .cmp _ _ _ a b | .cbr _ _ _ a b _ => gs [a, b]
  | .addImm _ _ _ a _ | .andImm _ _ a _ | .orImm _ _ a _ | .xorImm _ _ a _ | .shlImm _ _ _ a _ | .shrImm _ _ _ a _
  | .sarImm _ _ _ a _ | .minImm _ _ _ a _ | .maxImm _ _ _ a _ | .cmpImm _ _ _ a _ | .clz _ _ a | .popc _ _ a
  | .bext _ _ _ a _ _ | .call _ _ a _ | .jmp _ _ a _ | .ret _ _ a => gs [a]
  | .bins _ d a _ _ => gs [d, a]
  | .sel _ _ a b p => gs [a, b] ++ ps [p]
  | .plog _ _ _ a b => ps [a, b]
  | .movhi _ d _ => gs [d]
  | .loop _ cnt _ _ => gs [cnt]
  | .ld _ _ _ _ _ base idx _ => gs [base, idx]
  | .st _ _ _ _ t base idx _ => gs [t, base, idx]
  | .aadd _ _ _ _ _ base i _ | .aand _ _ _ _ _ base i _ | .aor _ _ _ _ _ base i _ | .axor _ _ _ _ _ base i _
  | .amin _ _ _ _ _ base i _ | .amax _ _ _ _ _ base i _ | .aswap _ _ _ _ _ base i _ | .afmax _ _ _ _ _ base i _
  | .afadd _ _ _ _ _ base i _ => gs [base, i]
  | .acas _ _ _ _ t base i _ => gs [t, base, i]
  | .waita _ _ _ d a => gs [d, a]
  | .vadd _ _ _ _ a b | .vsub _ _ _ _ a b | .vmul _ _ _ _ a b | .vmax _ _ _ a b | .vmin _ _ _ a b | .vand _ _ _ a b
  | .vor _ _ _ a b | .vxor _ _ _ a b | .vcmp _ _ _ _ a b | .vqnt _ _ _ _ a b | .vdq _ _ _ _ _ a b | .vperm _ _ a b
  | .vxpnd _ _ a b => vs [a, b]
  | .vfma _ _ _ _ a b e | .vsel _ _ _ a b e => vs [a, b, e]
  | .vabs _ _ _ a | .vneg _ _ _ a | .vmov _ _ a | .vext _ _ a _ | .vexp2 _ _ _ a | .vlog2 _ _ _ a | .vrcp _ _ _ a
  | .vrsq _ _ _ a | .vcvt _ _ _ _ _ _ a | .vscl _ _ _ _ a | .vscan _ _ _ _ _ _ a | .vred _ _ _ _ _ a | .vcomp _ _ a
  | .vunpk _ _ _ _ a | .vrank _ _ _ _ a | .vtab _ _ _ a | .vcnt _ _ a => vs [a]
  | .vpack _ _ _ d a => vs [d, a]
  | .vbcast _ _ _ a => gs [a]
  | .vmask _ _ _ a b => vs [a] ++ gs [b]
  | .vld _ _ _ _ _ base idx _ | .vldz _ _ _ _ _ base idx _ => gs [base, idx]
  | .vst _ _ _ _ t base idx _ => vs [t] ++ gs [base, idx]
  | .vstz _ _ _ _ t base _ _ => vs [t] ++ gs [base]
  | .vldx _ _ _ _ _ base idx _ => gs [base] ++ vs [idx]
  | .vstx _ _ _ _ t base idx _ => vs [t, idx] ++ gs [base]
  | .vpush _ x _ _ _ => vgs x
  | .parw _ d a | .parwDef _ d a | .kill _ d a => gs [d, a]
  | .parr _ _ a | .cfg _ a | .exit _ a | .spawn _ _ a | .run _ _ a | .swr _ _ a | .tlbiVa _ a | .dirty _ _ a | .scrub _ _ a
  | .wkeyOffer _ _ a | .wkeyAccept _ _ a | .wkeyInstall _ _ a | .wkeyClose _ _ a | .wkeyFree _ _ a => gs [a]
  | .drain _ d _ | .tlbiS2all _ d => gs [d]
  | .tlbiS2 _ d a | .frz _ d a | .frzVd _ d a => gs [d, a]
  | .rdot _ _ _ _ _ _ _ a b x e | .ddot _ _ _ _ _ _ _ a b x e => gs [a, b, x, e]
  | .rank _ _ b e => gs [b, e]
  | .aclr _ d => [56 + d.val]
  | .ald _ d a e | .ast _ d a e => (56 + d.val) :: gs [a, e]
  | .tpred _ _ _ a e | .gth _ _ _ a e | .coll _ _ _ a e | .xwr _ _ _ a e => gs [a, e]
  | .cpy _ _ _ _ a b n e => gs [a, b, n, e]
  | _ => []

/-- The predicate of the guard holds its value, and so do the registers that the instruction reads when it is 1. -/
def State.issuable (s : State) (g : Guard) (i : Instr) : Bool :=
  s.core.settled [48 + g.pg.val] && (!s.guard g || s.core.settled (reads i))

/-- The instruction may issue: every register that it reads holds its value. A REP waits for the registers of the
repetition it comes to. -/
def State.mayIssue (s : State) (w : Word) (i : Instr) : Bool :=
  let c := s.core
  match i with
  | .rep _ _ sd sa sb sc =>
    let k := match c.repAt with
      | some k => k
      | none => if c.rpPend then c.rpCount.toNat else 0
    c.settled [48 + (guardOf w).pg.val] && (match s.target with
     | .word u _ =>
       (match decode (repWord u ⟨sd, sa, sb, sc⟩ k) with
        | .ok x => s.issuable (guardOf (repWord u ⟨sd, sa, sb, sc⟩ k)) x
        | .error _ => true)
     | _ => true)
  | _ => s.issuable (guardOf w) i

/-- A FENCE.FETCH that has not left holds the fetches after it (R222). -/
def State.fetchHeld (s : State) : Bool :=
  s.accs.any fun a => a.party == .task s.cur && (match a.kind with
    | .fence .fetch => true
    | _ => false)

/-- An instruction of the core has issued and goes on in its next turn: a REP, a macro-op, or one that reads. -/
def Core.midway (c : Core) : Bool := c.repAt.isSome || c.stepAt.isSome || !c.readings.isEmpty

/-- The core in focus is in the middle of an instruction: in one of those, or in a WKEY, a FRZ or a command of VDCMD. -/
def State.midway (s : State) : Bool := s.core.midway || s.busy s.cur

/-- The word at the pc: that of the instruction that is midway, as it issued, or the one fetched (R67, R90). -/
def State.wordAt (s : State) : Fetched :=
  if s.midway then .word s.core.opWord s else s.fetch s.core.pc

/-- The instruction that the core in focus comes to, if it may issue (R208, R315); none after a failed stage (R286). -/
def State.issue (s : State) : Option Instr × State :=
  if s.halted || s.core.status ≠ .run || s.fetchHeld then (none, s) else
    match s.wordAt with
    | .wait => (none, s)
    | .fault e => (some (.instructionFetchFault e s.core.pc), s)
    | .word w s =>
      match decode w with
      | .error e => (some (.wordNotAnInstruction e w), { s with ir := w })
      | .ok i => if s.mayIssue w i then (some i, { s with ir := w }) else (none, s)

/-! ### Moves -/

/-- A move that is not an instruction of a core. -/
def isEvent : Instr → Bool
  | .wordNotAnInstruction _ _ | .instructionFetchFault _ _ => false
  | i => (encode i).isNone

/-- A move that a device stopped by a failed stage still makes: reset, configuration requests, power (R286). -/
def outlastsHalt : Instr → Bool
  | .perstAssert | .configurationRequest _ | .powerThrottle _ _ _ | .overtempShutdown => true
  | _ => false

/-- Taking a turn: what is to be executed, and the state in which. The cycle counts ACLK. -/
def State.take (s : State) (t : Turn) : Option Instr × State :=
  let s := { s with cycle := s.cycle + t.dt }
  match t.what with
  | .core n refetch =>
    let s := s.focus n
    let s := if refetch then
        s.setCore { s.core with icache := s.core.icache.filter fun x => x.1 != s.core.pc } else s
    s.issue
  | .event i => (if isEvent i && (!s.halted || outlastsHalt i) then some i else none, s)

/-! ### The default choice -/

/-- The move that an access may make now. -/
def State.accMove (s : State) (a : Access) : Option Instr :=
  if (a.st == .queued || a.st == .arrived) && s.overdue a then some (.requestTimeout a.id)
  else if a.isPerformed then
    match a.party with
    | .inbound f => some (.routeAck f a.id)
    | _ => if s.mayReply a then some (.accessReply a.id) else none
  else if s.mayPerform a then some (.nodePerform a.id)
  else if s.mayArrive a then some (.queueArrive a.id)
  else if s.mayLeave a then some (.orderLeave [a.id])
  else match a.needs with
    | k :: _ => if s.mayServe k a then some (.wheelSlot k.1 k.2 a.id) else none
    | [] =>
      if a.st != .arrived then none
      else if s.stalled a.pa then some (.reencryptComplete (blockOf a.pa).1 ((blockOf a.pa).2 / 64))
      else if a.ord == .sc then some .ringPass else none

/-- A core stops for a pre-emption, when it may. -/
def State.stopMove (s : State) (t : Nat) : Option Instr :=
  let c := (s.tileAt t).core
  if s.stopsTask t && c.resumeOf.isSome && (s.accsOf (.task t)).isEmpty && c.pend.isEmpty && s.wkey != some t
  then some (.corePreemptStop t) else none

/-- The end of a region's lead task has something to do. -/
def State.exitDue (s : State) (r : Nat) (x : Region) : Bool :=
  let still (t : Nat) : Bool :=
    let y := s.tileAt t
    y.fab == {} && (t == x.crown || y.core.task.isNone || y.core.status == .stopped)
  x.fault.isNone && x.domainSave.isNone &&
    (!x.tilesOf.all still || (!s.writesOut r && !(s.threads.any fun t => t.region == some r) && !s.endWaits x))

/-- The move that ends what a core waits for. -/
def State.coreMove (s : State) (t : Nat) : Option Instr :=
  let c := (s.tileAt t).core
  if !c.inflight.isEmpty then some (.macroStepResult t)
  else match c.status with
  | .asleep _ _ _ _ true => some (.waitaWake t)
  | .tlbi _ _ => if s.tlbiDone t then some (.tlbiAck t) else none
  | .barrier n => if s.barDue (s.barHome t) n then some (.barEpisodeClose t n) else none
  | .exiting _ =>
    if (s.exiting t .worker).isSome then some (.workerExitComplete t)
    else if (s.exiting t .dispatcher).isSome then some (.workerExitComplete t)
    else match (s.exiting t .lead).bind fun q => s.region q.2.region, c.task with
      | some x, some k => if s.exitDue k.region x then some (.regionExitComplete k.region) else s.stopMove t
      | _, _ => s.stopMove t
  | _ => s.stopMove t

/-- The move of an engine thread that waits for nothing outside. -/
def State.threadMove (s : State) (x : Thread) : Option Instr :=
  let noSlot := x.cls.toNat < 2 && (s.frameSlot x).isNone
  let waits := !x.lost && (match x.op with
    | .coll _ _ _ _ ranks _ _ =>
      ranks ≠ 1 && (if !x.told then noSlot else if !x.matched then true else if !x.sent then noSlot else true)
    | .xwr _ _ _ => x.sent || noSlot
    | _ => false)
  if s.threadIdle x && !waits then some (.engineCompletion x.id .done) else none

/-- The first rectangles that are free for the regions of a unit, in the order that their hints like. -/
def State.firstFit (s : State) (taken : List (Nat × Nat × Nat × Nat)) (more : List Region) : List Nat → Option (List Place)
  | [] => some []
  | m :: l =>
    match s.region m with
    | none => none
    | some x =>
      if s.budgetOk x more then
        (s.likedFirst x (((s.vd x.vd).places x.w x.h).filter (s.rectFree x.vd taken))).findSome? fun q =>
          (s.firstFit (q :: taken) (x :: more) l).map fun ps => ⟨m, q.1, q.2.1⟩ :: ps
      else none

/-- The unit of region r is placed or restored, when its turn has come. -/
def State.unitMove (s : State) (r : Nat) : Option Instr :=
  let u := s.unit r
  if u.head? == some r && s.unitReady r && (s.region r).all (fun x => s.rateOk x.vd) && !s.queue.any fun q => (u.all fun m => s.before q m) && s.unitPlaceable q then
    ((s.firstFit [] [] u).filter fun ps => !ps.any s.placeWaits).map fun ps => if s.allSaved ps then .regionRestore ps else .regionPlace ps
  else none

/-- The move that the milliner makes for a region. -/
def State.regionMove (s : State) (r : Nat) (x : Region) : Option Instr :=
  if x.fault.isSome && x.place.isSome && s.vdLive x.vd && x.domainSave.isNone && !(s.recs (s.domainOf x)).any s.rcbWaits then some (.faultDomainAction r)
  else if x.killed.isSome && s.vdLive x.vd && !s.writesOut r && !s.endWaits x then some (.killNotifyWrite r)
  else if s.saveReady r x && s.vdLive x.vd && !s.saveWaits x then some (.regionSave r)
  else if x.stop == .wave && !s.fabricBusy x && !x.tilesOf.all fun t => (s.tileAt t).fab.allStopped then
    some (.freezeWave r)
  else if 2 ≤ x.aged && x.quantumAt + 700 * x.quantum ≤ s.cycle && s.vdLive x.vd &&
      (s.queue.contains r || (x.place.isSome && x.stop == .no)) then some (.quantumExpiry r)
  else if s.queue.contains r then s.unitMove r
  else if !s.vdLive x.vd || !(x.st == .running || x.st == .placed) then none
  else match x.stop with
  | .marker since =>
    if since + 65536 ≤ s.cycle then some (.preemptTimeout r)
    else if s.marksDue x then some (.markerPreemptStart r) else none
  | .wave => none
  | .no =>
    if s.claimed r x && (s.askStop (.marker s.cycle) (s.unit r)).isSome then some (.markerPreemptStart r)
    else if x.aged == 0 && x.place.isSome && (s.vd x.vd).c0lim != 0 &&
        x.yieldAt + 700000 * (s.vd x.vd).c0lim.toNat < s.cycle then some (.watchdogExpiry r)
    else none

/-- The firings of a slot, by its kind (R151). -/
def fireMoves (t i kind : Nat) : List Instr :=
  match kind with
  | 0 => [.mapFire t i]
  | 1 => [.prefixFire t i]
  | 2 => [.scoreFire t i]
  | 3 => [.boundHeader t i, .boundThreshRise t i]
  | 4 => [.topkFire t i]
  | 5 => [.mergeFire t i]
  | 6 => [.joinBuild t i, .joinProbe t i]
  | 7 => [.filterFire t i]
  | 8 => [.gatherRequest t i, .gatherReply t i 0]
  | 9 => [.reduceFire t i]
  | 10 => [.quantFire t i]
  | 11 => [.selectFire t i]
  | _ => []

/-- The moves of the fabric of a tile. -/
def State.fabMoves (s : State) (t : Nat) : List Instr :=
  let x := (s.tileAt t).fab
  let hops := (List.range 43).filter fun e => match outletOf t e with
    | some (n, o) => !((s.tileAt n).fab.outletQ o).isEmpty
    | none => false
  let slots := (List.range 4).filter fun i => (x.slot i).on
  let mus := (List.range 4).filter fun u => (x.mu u).on
  let ags := (List.range 2).filter fun a => (x.ag a).on
  let saves : List Instr := if (s.regionAt t >>= s.region).any fun r => r.marked then
      slots.map (fun i => .elementMarkerSave t (.slot i)) ++ mus.map (fun u => .elementMarkerSave t (.mu u)) ++
        ags.map fun a => .elementMarkerSave t (.ag a)
    else []
  hops.map (.trackHop t) ++ saves ++
  slots.flatMap (fun i => fireMoves t i (slotKind (x.slot i).frame) ++ [.flushMarkerAlign t (.slot i)]) ++
  mus.flatMap (fun u => [.muAccess t u, .muDone t u, .flushMarkerAlign t (.mu u)]) ++
  ags.flatMap (fun a => [.agParamArrive t a, .agPoint t a])

/-- The regions with their numbers. -/
def State.numbered (s : State) : List (Nat × Region) := (List.range s.regions.length).zip s.regions

/-- The moves that share the turns when nothing more pressing is due: the cores that run, the core in focus first, and
the fabrics. -/
def State.shared (s : State) : List What :=
  ((s.known.filter fun t => (s.tileAt t).core.status == .run).map fun t => What.core t false) ++
  ((s.known.filter fun t => (s.firing t).isSome).flatMap s.fabMoves).map What.event ++
  (if s.ctlFlight.isEmpty then [] else [.event (.threshArrive 0), .event (.killArrive 0)]) ++
  (s.numbered.filterMap fun p =>
    if p.2.place.isSome && p.2.quiet != s.quietNow p.1 then some (.event (.quiescenceReport p.1)) else none)

/-- The default choice: an access moves on, then what is due at a core, an engine or a region; else the moves that share
the turns come by the cycle. -/
def State.default (s : State) : What :=
  match s.accs.findSome? s.accMove with
  | some i => .event i
  | none =>
    match (s.known.findSome? s.coreMove).or ((s.threads.findSome? s.threadMove).or
        ((s.numbered.findSome? fun p => s.regionMove p.1 p.2).or
          (s.recrypt.head?.map fun k => .reencryptComplete k.1 k.2))) with
    | some i => .event i
    | none =>
      let l := s.shared
      l.getD (s.cycle % l.length) (.core s.cur false)

/-- The next move. -/
def State.pick (s : State) : Option Instr × State :=
  match s.agenda with
  | t :: r => ({ s with agenda := r } : State).take t
  | [] => s.take ⟨1, s.default⟩

end Sys2Proof.Machine
end

