-- ==== Sys2Proof/Machine/Step.lean ====
section
/-!
DEFINITION. One step of the device, and the placing of an instruction where the next step fetches.
-/
namespace Sys2Proof.Machine

/-- One step: the next move is taken and executed. A device without power takes none (R287). -/
def step (s : State) : Host.Outcome State Fault Refusal :=
  if s.off then .fault .poweredOff else
    match s.pick with
    | (some i, s1) => exec i s1
    | (none, s1) => .next s1

/-- The state with an instruction word at the pc of the core in focus, in its instruction cache, that core running,
and its turn next. The word stands for a program that has been loaded and fetched (log entry 13). -/
def State.withFetchWord (s : State) (nbits w : Nat) : State :=
  { s with
    off := false, halted := false
    wkey := if s.wkey == some s.cur then none else s.wkey
    vdBusy := s.vdBusy.filter fun q => q.1 != some s.cur
    agenda := ⟨1, .core s.cur false⟩ :: s.agenda
    tile := { s.tile with core := { s.tile.core with
      status := .run, repAt := none, stepAt := none, readings := [], freezing := false
      icache := (s.tile.core.pc, s.tile.core.fetchUser, BitVec.ofNat 64 (w % 2 ^ nbits)) :: s.tile.core.icache } } }

end Sys2Proof.Machine
end

