-- ==== Sys2Proof/Safety.lean ====
section
/-!
DEFINITION. What counts as a safe run: it stops only because the device has removed its own power.
-/
namespace Sys2Proof

/-- k steps from a state never end in a refusal, and in a fault only when the power is gone (R287). -/
def Safe (s : Machine.State) : Nat → Prop
  | 0 => True
  | k + 1 =>
    match Machine.step s with
    | .next t => Safe t k
    | .fault r => r = .poweredOff
    | .refused _ => False

end Sys2Proof
end

