-- ==== Sys2Proof/Certificates/Slice0/Obligations.lean ====
section
/-!
DEFINITION. The statements of this row, and the words they are said in. An instruction of a core is spoken of where its
level, its guard and the loop ends let its operation run; each statement of a result says that it answers that next
state, what it writes, and that nothing else has changed.
-/
namespace Sys2Proof.Claims
open Sys2Proof.Machine

/-! ### Where an operation runs, and what else it changes -/

/-- The operation of an instruction of these levels and this guard runs: the level may execute it, no control transfer
stands at a loop end, and the guard is 1 (R315 steps 4 to 6). -/
structure Runs (m : Modes) (ctl : Bool) (c : Guard) (s : State) : Prop where
  level : m.ok s.core.lvl s.core.inH = true
  tail : (ctl && s.core.atLoopEnd) = false
  guard : s.guard c = true

/-- The device apart from the core in focus stands as before, and so does every byte of memory. -/
structure OnlyCore (s t : State) : Prop where
  rest : t = s.setCore t.core
  bytes : ∀ a, Memory.get t.mem a = Memory.get s.mem a

/-- What the end of an instruction may change: the pc, the loop levels, a repetition in progress, what it has read, the
arrival that a BAR has made before a handler broke into it, and the resume bit of ESTEP, the last two outside a handler
(R68, R109). -/
structure Ended (c d : Core) : Prop where
  rpst : d.rpPend = false ∧ d.rpCount = 0 ∧ d.repAt = none ∧ d.stepAt = none
  begun : d.readings = [] ∧ d.barAt = if c.inH then c.barAt else none
  estep : d.estep = if c.inH then c.estep else c.estep &&& 0x7FFFFFFFFFFFFFFF

/-- The instruction retires: the end test of the loops gives the next pc and the loop levels (R63). -/
structure Retired (c d : Core) : Prop extends Ended c d where
  next : (d.pc, d.loops) = loopEnd c.pc c.loops

/-- The registers that no plain instruction writes: level, shadow, exception registers, mode, tables, class and status,
the task and its caches (R48, R49). -/
structure SystemKept (c d : Core) : Prop where
  level : d.lvl = c.lvl ∧ d.inH = c.inH ∧ d.shadow = c.shadow
  exception : d.cause = c.cause ∧ d.epc = c.epc ∧ d.eval = c.eval ∧ d.trapv = c.trapv
  modes : d.fmode = c.fmode ∧ d.slotcls = c.slotcls
  tables : d.tb = c.tb ∧ d.tbPend = c.tbPend
  task : d.task = c.task ∧ d.owner = c.owner ∧ d.lastOwner = c.lastOwner ∧ d.lastVd = c.lastVd
  macros : d.stepAcc = c.stepAcc ∧ d.inflight = c.inflight ∧ d.heldAcc = c.heldAcc
  waiting : d.status = c.status ∧ d.resume = c.resume ∧ d.freezing = c.freezing

/-- The fetched words and cached translations are as before. -/
def CachesKept (c d : Core) : Prop := d.icache = c.icache ∧ d.tlb = c.tlb

/-- The registers of the core, apart from those named, are as before; FSTAT too unless fl says that flags are merged. -/
structure OthersKept (s t : State) (g : List GReg) (v : List VReg) (p : List PReg) (a : List AReg) : Prop where
  general : ∀ r, r ∉ g → t.g r = s.g r
  token : ∀ r, r ∉ v → t.v r = s.v r
  predicate : ∀ r, r ∉ p → t.p r = s.p r
  accumulator : ∀ r, r ∉ a → t.core.rdA r = s.core.rdA r
  system : SystemKept s.core t.core

/-- The instruction answers a next state that has gone past it with nothing changed but the g register d, which holds x;
a write to g0 changes nothing (R45). A load that was to write d no longer does. -/
def GivesG (i : Instr) (s : State) (d : GReg) (x : Word) : Prop :=
  ∃ t, exec i s = .next t ∧ t.g d = (if d = 0 then 0 else x) ∧ OthersKept s t [d] [] [] [] ∧ t.core.fstat = s.core.fstat ∧
    CachesKept s.core t.core ∧ t.core.pend = (if d = 0 then s.core.pend else dropG s.core.pend d) ∧
    Retired s.core t.core ∧ OnlyCore s t

/-- The same for the p register d; a write to p0 changes nothing, and p0 reads 1 (R45). -/
def GivesP (i : Instr) (s : State) (d : PReg) (b : Bool) : Prop :=
  ∃ t, exec i s = .next t ∧ t.p d = (if d = 0 then true else b) ∧ OthersKept s t [] [] [d] [] ∧
    t.core.fstat = s.core.fstat ∧ CachesKept s.core t.core ∧
    t.core.pend = (if d = 0 then s.core.pend else dropP s.core.pend d) ∧ Retired s.core t.core ∧ OnlyCore s t

/-- The same for the v register d, with flags merged into FSTAT (R80). -/
def GivesV (i : Instr) (s : State) (d : VReg) (x : Token) (fl : BitVec 6) : Prop :=
  ∃ t, exec i s = .next t ∧ t.v d = x ∧ OthersKept s t [] [d] [] [] ∧ t.core.fstat = s.core.fstat ||| fl ∧
    CachesKept s.core t.core ∧ t.core.pend = dropV s.core.pend d ∧ Retired s.core t.core ∧ OnlyCore s t

/-- The instruction answers a next state that has gone past it, and nothing else has changed. -/
def GivesNothing (i : Instr) (s : State) : Prop :=
  ∃ t, exec i s = .next t ∧ OthersKept s t [] [] [] [] ∧ t.core.fstat = s.core.fstat ∧ CachesKept s.core t.core ∧
    t.core.pend = s.core.pend ∧ Retired s.core t.core ∧ OnlyCore s t

/-- The state takes an exception in its handler: the task has one and is not in it, and the cause is one that a handler
takes (R257). -/
def HasHandler (s : State) : Prop := s.core.trapv ≠ 0 ∧ s.core.inH = false

/-- Handler entry with these values, and nothing else changed (R258): CAUSE, EVAL, EPC and ESTEP are written; level, loop
stack and RPST go to the shadow; the loop stack and RPST are empty, the level is S in a handler, the pc is TRAPV. -/
structure Entered (s t : State) (cause : BitVec 8) (eval epc estep : Word) : Prop where
  saved : t.core.cause = cause ∧ t.core.eval = eval ∧ t.core.epc = epc ∧ t.core.estep = estep
  shadow : t.core.shadow = ⟨s.core.lvl, s.core.loops, s.core.rpPend, s.core.rpCount⟩
  fresh : t.core.loops = [] ∧ t.core.rpPend = false ∧ t.core.rpCount = 0
  mode : t.core.lvl = .s ∧ t.core.inH = true ∧ t.core.pc = s.core.trapv
  general : ∀ r, t.g r = s.g r
  token : ∀ r, t.v r = s.v r
  predicate : ∀ r, t.p r = s.p r
  accumulator : ∀ r, t.core.rdA r = s.core.rdA r
  others : t.core.fmode = s.core.fmode ∧ t.core.fstat = s.core.fstat ∧ t.core.trapv = s.core.trapv ∧
    t.core.slotcls = s.core.slotcls ∧ t.core.tb = s.core.tb ∧ t.core.status = s.core.status ∧ t.core.task = s.core.task
  only : OnlyCore s t

/-- The instruction raises a fault at its own address, with ESTEP 0, and the handler takes it. -/
def Traps (i : Instr) (s : State) (cause : BitVec 8) (eval : Word) : Prop :=
  ∃ t, exec i s = .next t ∧ Entered s t cause eval s.core.pc 0

end Sys2Proof.Claims

namespace Sys2Proof.Claims
open Sys2Proof.Machine

/-! ### The machine as a whole -/

/-- The core n takes the next turn: the agenda gives it, and f is the state in which it comes to its instruction: that
turn is spent, its ACLK have passed, and n is in focus. -/
structure CoreTurn (s : State) (n : Nat) (f : State) : Prop where
  power : s.off = false
  turn : ∃ dt r, s.agenda = ⟨dt, .core n false⟩ :: r ∧ f = ({ s with agenda := r, cycle := s.cycle + dt } : State).focus n
  running : f.core.status = .run ∧ f.halted = false
  free : f.fetchHeld = false

/-- The word w at the pc of the core in focus, and the state once it is there: the one that has issued and goes on, as of
a REP, a macro-op, an instruction that reads, a WKEY, a FRZ or a command of VDCMD; else from the instruction cache, or the eight bytes of tile store at a pc
in the local window, which the cache then holds (R58, R61, R67, R90). -/
inductive WordAtPc (f : State) : Word → State → Prop
  | begun (h : f.midway = true) : WordAtPc f f.core.opWord f
  | cached (x : Word × Bool × Word) (new : f.midway = false)
      (h : (f.core.icache.find? fun y => y.1 == f.core.pc && y.2.1 == f.core.fetchUser) = some x) : WordAtPc f x.2.2 f
  | store (off : Nat) (w : Word) (new : f.midway = false)
      (none : (f.core.icache.find? fun y => y.1 == f.core.pc && y.2.1 == f.core.fetchUser) = none)
      (loc : f.core.pc.toNat = Config.localBase + off) (tile : off < Config.tileStore)
      (bytes : w = BitVec.ofNat 64 (Memory.read f.mem (localPa f.cur off) 8)) :
      WordAtPc f w (f.setCore { f.core with icache := (f.core.pc, f.core.fetchUser, w) :: f.core.icache })

end Sys2Proof.Claims

section
open Sys2Proof Sys2Proof.Machine Sys2Proof.Claims

/-- A step of a core runs the instruction that the word at its pc decodes to, in the state with that word noted, once the
registers that it reads hold their values. That a turn of the agenda picks the core and says how many ACLK pass is the
model's choice (log entries 1 and 2). -/
def Sys2Proof.Claims.StepRunsDecodedInstruction : Prop :=
  ∀ (s f g : State) (n : Nat) (w : Word) (i : Instr), CoreTurn s n f → WordAtPc f w g →
    decode w = .ok i → g.mayIssue w i = true →
    step s = exec i { g with ir := w }

/-- A step of the agenda that names an event runs it, with its ACLK passed and its turn spent; after a failed stage only
reset, configuration requests and power still move (R286). The agenda is the model's choice (log entries 1 and 2). -/
def Sys2Proof.Claims.StepRunsAgendaEvent : Prop :=
  ∀ (s : State) (dt : Nat) (i : Instr) (r : List Turn), s.off = false → isEvent i = true →
    (s.halted = false ∨ outlastsHalt i = true) →
    s.agenda = ⟨dt, .event i⟩ :: r →
    step s = exec i { s with agenda := r, cycle := s.cycle + dt }

/-- A word that decodes to no instruction raises its fault at the pc with the word in EVAL: ILLEGAL_ENCODING (0x01) or
ILLEGAL_OPERAND (0x02), whatever its guard. A fetch from the local window outside tile store raises PERMISSION, one from an
address that is not canonical TRANSLATION, with the address in EVAL and EPC; so do the moves that stand for such a turn
(R61, R189, R315, R339). The turn of the core is the model's choice (log entries 1 and 2). -/
def Sys2Proof.Claims.StepFaultsOnBadWord : Prop :=
  (∀ (s f g : State) (n : Nat) (w : Word) (e : DecErr), CoreTurn s n f → WordAtPc f w g →
    decode w = .error e → HasHandler f →
    ∃ t, step s = .next t ∧
      Entered { g with ir := w } t (if e = .illegalEncoding then 0x01 else 0x02) w f.core.pc 0) ∧
  (∀ (s f : State) (n : Nat), CoreTurn s n f → f.midway = false → HasHandler f → (∀ x ∈ f.core.icache, x.1 ≠ f.core.pc) →
    (∀ off, f.core.pc.toNat = Config.localBase + off → Config.tileStore ≤ off → off < 0x1000000 →
      ∃ t, step s = .next t ∧ Entered f t 0x06 f.core.pc f.core.pc 0) ∧
    (canonical f.core.pc = false → ∃ t, step s = .next t ∧ Entered f t 0x05 f.core.pc f.core.pc 0)) ∧
  (∀ (s : State) (e : DecErr) (w : Word), HasHandler s →
    Traps (.wordNotAnInstruction e w) s (if e = .illegalEncoding then 0x01 else 0x02) w) ∧
  (∀ (s : State) (cause : BitVec 8) (eval : Word), HasHandler s → cause ≠ 0x0A → cause ≠ 0x1D → cause ≠ 0x1F →
    Traps (.instructionFetchFault cause eval) s cause eval)

/-- Every instruction and event answers a next state, from every state; a step stops only for want of power. -/
def Obligations.MachineNeverStopsWithPower : Prop :=
  (∀ (i : Instr) (s : State), ∃ t, exec i s = .next t) ∧
  (∀ s : State, s.off = false → ∃ t, step s = .next t) ∧
  (∀ s : State, s.off = true → step s = .fault .poweredOff)

/-- Decoding the word of a well-formed instruction gives the instruction back, every operand at every value. -/
def Obligations.DecodeUndoesEncode : Prop :=
  ∀ (i : Instr) (w : Word), i.wf = true → encode i = some w → decode w = .ok i

/-- A word that decodes is the one encoding of its instruction, which is well formed: no bit of it is without meaning. -/
def Obligations.DecodedWordIsItsEncoding : Prop :=
  ∀ (w : Word) (i : Instr), decode w = .ok i → i.wf = true ∧ encode i = some w

/-- Every step keeps the memory in its canonical form: addresses rising, no zero byte listed. -/
def Obligations.StepKeepsMemoryCanonical : Prop :=
  ∀ s t : State, Memory.wf s.mem = true → step s = .next t → Memory.wf t.mem = true

/-- The memory after reset has the canonical form, and every byte of it reads 0. -/
def Obligations.ResetMemoryCanonical : Prop :=
  Memory.wf State.reset.mem = true ∧ ∀ a, Memory.get State.reset.mem a = 0

end

namespace Sys2Proof.Claims
open Sys2Proof.Machine

/-! ### Words, reset, and what comes before every operation -/

/-- A word of the spec with the instruction that it names; the guard is p0, not inverted. -/
def g1 : Guard := ⟨0, false⟩

/-- Encodings that the entries of chapters 20 to 23 write out. -/
def specWords : List (Word × Instr) := [
  (0x2822840000240001, .vcvt g1 .fp8e4 true false .rne 2 1),
  (0x2423900000010000, .vexp2 g1 .fp32 3 4),
  (0x3C3830A34E000001, .rdot g1 .bf16 .int4 false false false 0 12 10 13 14),
  (0x4818000040000000, .srd g1 24 0x040),
  (0x0005187000200000, .add g1 true 5 6 7),
  (0x0805004100000010, .cbr g1 .ne false 5 0 16),
  (0x1009080300000018, .ld g1 .d .plain .tile 9 2 0 24),
  (0x2C26080200400000, .vst g1 .fp8e4 .plain .tile 6 2 0 0),
  (0x2022868A40C10000, .vfma g1 .fp32 .dyn 2 1 8 9),
  (0x3421008046000000, .vpush g1 (.v 1) true true 0),
  (0x40000421C6000002, .cpy g1 .vd 0 false 1 2 7 6),
  (0x1805086359C00000, .acas g1 .d .ar .vd 5 2 6 0),
  (0x0401040000000008, .addImm g1 false 1 1 8),
  (0x1C00002000000000, .bar g1 0),
  (0x4800008000000007, .bkpt g1 7),
  (0x3805180100000000, .kill g1 5 6),
  (0x0C0080000000C000, .loop g1 2 0 3),
  (0x0033C72005420000, .plog g1 .xor 3 1 2),
  (0x0C10800400000000, .rep g1 2 0 0 1 0),
  (0x3023840000410000, .vscan g1 .fp32 .sum false .dyn 3 1),
  (0x4400003000000000, .yield g1) ]

/-- The levels that reach a state register: H alone those from 0x100 on, S and H TRAPV, BARCNT, S1ROOT and TLBCTL, all
three the others (R49). -/
def registerReached (n : Nat) (l : Lvl) : Bool :=
  if 0x100 ≤ n then l == .h else if n = 0x044 ∨ n = 0x060 ∨ n = 0x070 ∨ n = 0x071 then l != .u else true

/-- The levels at which an instruction executes: the modes that its entry lists (R53, R338), for SRD and SWR those that
reach the register (R49, R404). -/
def mayExecute (i : Instr) (l : Lvl) (inHandler : Bool) : Bool :=
  match i with
  | .srd _ _ n | .swr _ n _ => registerReached n.toNat l
  | .bar .. | .vldz .. | .vstz .. | .vpop .. | .vpush .. | .parw .. | .parwDef .. | .parr .. | .cfg .. | .qwait ..
  | .qwaitW .. | .drain .. | .mark .. | .kill .. | .thrd .. | .thrdK .. | .rdot .. | .ddot .. | .rank .. | .aclr ..
  | .ald .. | .ast .. | .tpred .. | .gth .. | .coll .. | .xwr .. | .spawn .. | .run .. | .exit ..
  | .yield .. | .trap .. => l != .h
  | .tlbiVa .. | .tlbiAll .. => l != .u
  | .tlbiS2 .. | .tlbiS2all .. | .dirty .. | .scrub .. | .frz .. | .frzVd .. => l == .h
  | .eret .. => inHandler
  | .wkeyOffer .. | .wkeyAccept .. => l == .s && !inHandler
  | .wkeyInstall .. | .wkeyFree .. => l == .h && !inHandler
  | .wkeyClose .. => l != .u && !inHandler
  | _ => true

/-- A control transfer of R65. -/
def isTransfer : Instr → Bool
  | .br .. | .cbr .. | .call .. | .jmp .. | .ret .. | .loop .. | .rep .. => true
  | _ => false

/-- An instruction that REP repeats or REP itself: REP looks at its target whatever its guard (R55, R396). -/
def isRep : Instr → Bool
  | .rep .. => true
  | _ => false

/-- The instruction has a word, and c is the guard in it. -/
def HasGuard (i : Instr) (c : Guard) : Prop := i.wf = true ∧ ∃ w, encode i = some w ∧ guardOf w = c

end Sys2Proof.Claims

section
open Sys2Proof Sys2Proof.Machine Sys2Proof.Claims

/-- Words that the spec's entries write out decode to the instructions they name. -/
def Obligations.SpecWordsDecode : Prop := ∀ p ∈ specWords, decode p.1 = .ok p.2

/-- Right after device reset the state registers that have a reset value read it: CYCLE and the others 0, TIME the
TIMEBASE, which is 0 (R49, R234, R242, R275, R287). -/
def Obligations.ResetStateRegisters : Prop :=
  ∀ n ∈ [0x030, 0x031, 0x060, 0x100, 0x101, 0x102, 0x110, 0x111, 0x112, 0x113, 0x114, 0x115, 0x120, 0x121, 0x122, 0x123,
      0x124, 0x125, 0x126, 0x127, 0x128, 0x129, 0x130, 0x131, 0x132, 0x133],
    ∀ t, State.reset.srRead t n = 0

/-- An instruction at a level at which it does not execute raises PRIVILEGE, whatever its guard: EVAL is the word (R53,
R55, R315). -/
def Sys2Proof.Claims.WrongLevelRaisesPrivilege : Prop :=
  ∀ (i : Instr) (c : Guard) (s : State), HasGuard i c → mayExecute i s.core.lvl s.core.inH = false → HasHandler s →
    Traps i s 0x0B s.ir

/-- A control transfer at the end of an active loop level raises LOOP_TAIL, whatever its guard: EVAL is the word (R65). -/
def Obligations.TransferAtLoopEndRaisesLoopTail : Prop :=
  ∀ (i : Instr) (c : Guard) (s : State), HasGuard i c → isTransfer i = true →
    (∃ l ∈ s.core.loops, l.stop = s.core.pc) → HasHandler s → Traps i s 0x0F s.ir

/-- An instruction whose guard is 0 retires and changes nothing else; REP is apart, since it looks at its target (R55), and
a macro-op whose steps have begun has passed its guard. -/
def Sys2Proof.Claims.GuardZeroHasNoEffect : Prop :=
  ∀ (i : Instr) (c : Guard) (s : State), HasGuard i c → isRep i = false →
    mayExecute i s.core.lvl s.core.inH = true → (isTransfer i = true → ∀ l ∈ s.core.loops, l.stop ≠ s.core.pc) →
    s.core.stepAt = none → s.guard c = false → GivesNothing i s

/-- The guard of an instruction is p[PG] XOR PN (R55). -/
def Sys2Proof.Claims.GuardIsPredicateXorSense : Prop :=
  ∀ (w : Word) (s : State), s.guard (guardOf w) =
    ((if (w.extractLsb' 55 3).toNat = 0 then true else s.core.p.getLsbD (w.extractLsb' 55 3).toNat) ^^ w.getLsbD 54)

/-- At the retirement of the instruction at an end, the count of the innermost level goes down; a level that comes to 0 is
popped, and a level outside it with the same end is then tested; else the start is next. Away from an end the next pc is
eight bytes on (R63). -/
def Sys2Proof.Claims.LoopEndTest : Prop :=
  ∀ (pc : Word) (l : LoopLvl) (r : List LoopLvl),
    (l.stop ≠ pc → loopEnd pc (l :: r) = (pc + 8, l :: r)) ∧
    (l.stop = pc → l.count ≠ 1 → loopEnd pc (l :: r) = (l.start, { l with count := l.count - 1 } :: r)) ∧
    (l.stop = pc → l.count = 1 → loopEnd pc (l :: r) = loopEnd pc r) ∧ loopEnd pc [] = (pc + 8, [])

/-- A fault of a task that has no handler, is in its handler, or has a cause that no handler takes: a region's task is
stopped as faulted and its region holds the fault for its fault domain, the first one if there are several; the dispatcher
ends as if by EXIT with its exception registers at the fault, and when it has ended the host is told: the status pair of
its function says DSTOP and the cause, with vector 0; INTEGRITY and MACHINE_CHECK fence the VD (R257, R282, R445). That the
vector is masked by bit 0 of byte 0xE00C of its page and then pending in byte 0xF000 is presumed (log entry 70). -/
def Obligations.UntakenFaultGoesOn : Prop :=
  ∀ (s : State) (k : Task) (cause : BitVec 8) (eval epc estep : Word), s.core.task = some k →
    (s.core.trapv = 0 ∨ s.core.inH = true ∨ cause = 0x0A ∨ cause = 0x1D ∨ cause = 0x1F) →
    let t := s.raise cause eval epc estep
    ((cause = 0x0A ∨ cause = 0x1F) → (s.vd k.vd).st ≠ .none → k.vd < 32 → (t.vd k.vd).st = .fenced) ∧
    (cause ≠ 0x0A → cause ≠ 0x1F → (k.role = .lead ∨ k.role = .worker) → ∀ x, s.region k.region = some x →
      t.core.status = .faulted ∧ t.core.task = some k ∧
      t.region k.region = some { x with fault := some (x.fault.getD ⟨cause, epc, eval, estep⟩) }) ∧
    (cause ≠ 0x0A → cause ≠ 0x1F → k.role = .dispatcher →
      t.core.status = .exiting 0 ∧ t.core.task = some { k with fell := some cause } ∧ t.core.cause = cause ∧
      t.core.eval = eval ∧ t.core.epc = epc ∧ t.core.estep = estep) ∧
    (cause ≠ 0x0A → cause ≠ 0x1F → k.role = .dispatcher → k.vd < 32 → Memory.wf s.mem = true →
      t.exitReady t.cur = true → ∃ u,
      exec (.workerExitComplete t.cur) t = .next u ∧ u.core.status = .idle ∧ u.core.task = none ∧
      u.core.cause = cause ∧ u.core.eval = eval ∧ u.core.epc = epc ∧ u.core.estep = estep ∧
      u.sent = t.sent ++ (if Memory.read t.mem (mailbox (k.vd + 1) + 0xE00C) 1 % 2 = 1 then [] else [.msix (k.vd + 1) 0]) ∧
      Memory.read u.mem (mailbox (k.vd + 1)) 8 =
        t.stage % 256 + t.bootErr.toNat * 2 ^ 8 + (if t.ready then 2 ^ 16 else 0) + 2 ^ 18 + cause.toNat * 2 ^ 24 ∧
      ∀ a, (a < mailbox (k.vd + 1) ∨ mailbox (k.vd + 1) + 8 ≤ a) → a ≠ mailbox (k.vd + 1) + 0xF000 →
        Memory.get u.mem a = Memory.get t.mem a)
end

namespace Sys2Proof.Claims
open Sys2Proof.Machine

/-! ### Integer arithmetic -/

/-- Bits [31:0] of a value (R346). -/
def low (x : Word) : BitVec 32 := x.setWidth 32
/-- A 32-bit result as the W forms write it (R346). -/
def wide (x : BitVec 32) : Word := x.signExtend 64
/-- Bits [127:64] of the exact product of two 128-bit readings of the operands (R383). -/
def high (x y : BitVec 128) : Word := (x * y).extractLsb' 64 64
/-- A condition on two 64-bit values: LT and GE signed, LTU and GEU unsigned (R353, R357). -/
def condition (k : Cond) (a b : Word) : Bool :=
  match k with
  | .eq => decide (a.toNat = b.toNat)
  | .ne => decide (a.toNat ≠ b.toNat)
  | .lt => decide (a.toInt < b.toInt)
  | .ge => decide (b.toInt ≤ a.toInt)
  | .ltu => decide (a.toNat < b.toNat)
  | .geu => decide (b.toNat ≤ a.toNat)
/-- The larger and the smaller of two values, unsigned with U (R381). -/
def larger (u : Bool) (a b : Word) : Word :=
  if (if u then decide (b.toNat ≤ a.toNat) else decide (b.toInt ≤ a.toInt)) then a else b
def smaller (u : Bool) (a b : Word) : Word :=
  if (if u then decide (a.toNat ≤ b.toNat) else decide (a.toInt ≤ b.toInt)) then a else b
/-- The shifts of a value by a count below its width (R400). -/
def shiftLeft (w : Bool) (a : Word) (n : Nat) : Word := if w then wide (low a <<< n) else a <<< n
def shiftRight (w : Bool) (a : Word) (n : Nat) : Word := if w then wide (low a >>> n) else a >>> n
def shiftArith (w : Bool) (a : Word) (n : Nat) : Word := if w then wide ((low a).sshiftRight n) else a.sshiftRight n
/-- The count in a register: its low 5 bits with W, else its low 6 (R400). -/
def countOf (w : Bool) (b : Word) : Nat := if w then (b.extractLsb' 0 5).toNat else (b.extractLsb' 0 6).toNat

end Sys2Proof.Claims

section
open Sys2Proof Sys2Proof.Machine Sys2Proof.Claims

/-- ADD, SUB, MUL, MULH, DIV and REM write g[D] as their entries say, at every level, and change nothing else: W forms work
on the low 32 bits and sign-extend; MULH takes the high half of the exact product; DIV truncates toward zero, and
-2^63 / -1 wraps; REM is the remainder of DIV (R347, R365, R383, R394, R408). -/
def Sys2Proof.Claims.ArithmeticWrites : Prop :=
  ∀ (c : Guard) (s : State) (d a b : GReg) (imm : BitVec 32) (w u : Bool), Runs .all false c s →
    GivesG (.add c w d a b) s d (if w then wide (low (s.g a) + low (s.g b)) else s.g a + s.g b) ∧
    GivesG (.addImm c w d a imm) s d (if w then wide (low (s.g a) + imm) else s.g a + imm.signExtend 64) ∧
    GivesG (.sub c w d a b) s d (if w then wide (low (s.g a) - low (s.g b)) else s.g a - s.g b) ∧
    GivesG (.mul c w d a b) s d (if w then wide (low (s.g a) * low (s.g b)) else s.g a * s.g b) ∧
    GivesG (.mulh c u d a b) s d
      (if u then high ((s.g a).setWidth 128) ((s.g b).setWidth 128)
       else high ((s.g a).signExtend 128) ((s.g b).signExtend 128)) ∧
    (s.g b ≠ 0 → GivesG (.div c u d a b) s d (if u then s.g a / s.g b else (s.g a).sdiv (s.g b))) ∧
    (s.g b ≠ 0 → GivesG (.rem c u d a b) s d (if u then s.g a % s.g b else (s.g a).srem (s.g b)))

/-- DIV and REM by 0 raise DIVIDE_BY_ZERO with EVAL 0, and write no register (R365, R394). -/
def Sys2Proof.Claims.DivisionByZeroTraps : Prop :=
  ∀ (c : Guard) (s : State) (d a b : GReg) (u : Bool), Runs .all false c s → HasHandler s → s.g b = 0 →
    Traps (.div c u d a b) s 0x0E 0 ∧ Traps (.rem c u d a b) s 0x0E 0

/-- The logical instructions and the shifts write g[D] and change nothing else; an immediate is sign-extended, a register
count is read in its low 6 bits, 5 with W, and a count field of a W form is below 32 (R348, R384, R400, R440). -/
def Sys2Proof.Claims.LogicAndShiftsWriteTheirResult : Prop :=
  ∀ (c : Guard) (s : State) (d a b : GReg) (imm : BitVec 32) (w : Bool) (n : BitVec 6), Runs .all false c s →
    GivesG (.and c d a b) s d (s.g a &&& s.g b) ∧
    GivesG (.andImm c d a imm) s d (s.g a &&& imm.signExtend 64) ∧
    GivesG (.andn c d a b) s d (s.g a &&& ~~~(s.g b)) ∧
    GivesG (.or c d a b) s d (s.g a ||| s.g b) ∧
    GivesG (.orImm c d a imm) s d (s.g a ||| imm.signExtend 64) ∧
    GivesG (.xor c d a b) s d (s.g a ^^^ s.g b) ∧
    GivesG (.xorImm c d a imm) s d (s.g a ^^^ imm.signExtend 64) ∧
    GivesG (.shl c w d a b) s d (shiftLeft w (s.g a) (countOf w (s.g b))) ∧
    GivesG (.shr c w d a b) s d (shiftRight w (s.g a) (countOf w (s.g b))) ∧
    GivesG (.sar c w d a b) s d (shiftArith w (s.g a) (countOf w (s.g b))) ∧
    ((w = true → n.toNat < 32) →
      GivesG (.shlImm c w d a n) s d (shiftLeft w (s.g a) n.toNat) ∧
      GivesG (.shrImm c w d a n) s d (shiftRight w (s.g a) n.toNat) ∧
      GivesG (.sarImm c w d a n) s d (shiftArith w (s.g a) n.toNat))

/-- MIN, MAX, CMP and SEL, with a register or a sign-extended immediate for B; CMP writes a p register, or 0 or 1 to a g
register; PLOG combines two predicates; nothing else changes (R357, R381, R388, R402). -/
def Sys2Proof.Claims.CompareAndSelectWriteTheirResult : Prop :=
  ∀ (c : Guard) (s : State) (d a b : GReg) (imm : BitVec 32) (u : Bool) (k : Cond) (p q r : PReg) (op : PlogOp),
    Runs .all false c s →
    GivesG (.min c u d a b) s d (smaller u (s.g a) (s.g b)) ∧
    GivesG (.minImm c u d a imm) s d (smaller u (s.g a) (imm.signExtend 64)) ∧
    GivesG (.max c u d a b) s d (larger u (s.g a) (s.g b)) ∧
    GivesG (.maxImm c u d a imm) s d (larger u (s.g a) (imm.signExtend 64)) ∧
    GivesG (.cmp c k (.g d) a b) s d (if condition k (s.g a) (s.g b) then 1 else 0) ∧
    GivesP (.cmp c k (.p p) a b) s p (condition k (s.g a) (s.g b)) ∧
    GivesG (.cmpImm c k (.g d) a imm) s d (if condition k (s.g a) (imm.signExtend 64) then 1 else 0) ∧
    GivesP (.cmpImm c k (.p p) a imm) s p (condition k (s.g a) (imm.signExtend 64)) ∧
    GivesG (.sel c d a b p) s d (if s.p p then s.g a else s.g b) ∧
    GivesP (.plog c op p q r) s p (match op with
      | .and => s.p q && s.p r
      | .or => s.p q || s.p r
      | .xor => s.p q ^^ s.p r
      | .andn => s.p q && !s.p r)

/-- CLZ, POPC, BEXT, BINS, MOVI and MOVHI write g[D], bit by bit as their entries say, and NOP writes nothing; nothing
else changes. lsb + width is at most 64 (R347, R351, R356, R382, R389). -/
def Sys2Proof.Claims.FieldsAndCountsWriteTheirResult : Prop :=
  ∀ (c : Guard) (s : State) (d a : GReg) (sx : Bool) (lsb wm1 : BitVec 6) (imm : BitVec 32), Runs .all false c s →
    (∃ x, GivesG (.clz c d a) s d x ∧ x.toNat ≤ 64 ∧
      (∀ i, 64 - x.toNat ≤ i → i < 64 → (s.g a).getLsbD i = false) ∧
      (x.toNat < 64 → (s.g a).getLsbD (63 - x.toNat) = true)) ∧
    GivesG (.popc c d a) s d
      (BitVec.ofNat 64 ((List.range 64).foldl (fun n i => n + ((s.g a).getLsbD i).toNat) 0)) ∧
    (lsb.toNat + wm1.toNat < 64 →
      (∃ x, GivesG (.bext c sx d a lsb wm1) s d x ∧ ∀ i, i < 64 →
        x.getLsbD i = if i ≤ wm1.toNat then (s.g a).getLsbD (lsb.toNat + i)
          else sx && (s.g a).getLsbD (lsb.toNat + wm1.toNat)) ∧
      (∃ x, GivesG (.bins c d a lsb wm1) s d x ∧ ∀ i, i < 64 →
        x.getLsbD i = if lsb.toNat ≤ i ∧ i ≤ lsb.toNat + wm1.toNat then (s.g a).getLsbD (i - lsb.toNat)
          else (s.g d).getLsbD i)) ∧
    GivesG (.movi c d imm) s d (imm.signExtend 64) ∧
    GivesG (.movhi c d imm) s d (imm ++ low (s.g d)) ∧
    GivesNothing .nop s
end

namespace Sys2Proof.Claims
open Sys2Proof.Machine

/-! ### Control transfers -/

/-- The instruction answers a next state at a target with these loop levels; the g registers named hold the values named,
and nothing else has changed. -/
def Jumps (i : Instr) (s : State) (target : Word) (loops : List LoopLvl) (w : List (GReg × Word)) : Prop :=
  ∃ t, exec i s = .next t ∧ t.core.pc = target ∧ t.core.loops = loops ∧ (∀ p ∈ w, t.g p.1 = p.2) ∧
    OthersKept s t (w.map Prod.fst) [] [] [] ∧ t.core.fstat = s.core.fstat ∧ CachesKept s.core t.core ∧
    t.core.pend = w.foldl (fun l p => dropG l p.1) s.core.pend ∧ Ended s.core t.core ∧ OnlyCore s t

/-- The loop levels that a taken BR, CBR or JMP to a target leaves: the innermost ones whose [start, end] does not hold the
target are popped (R64). -/
def levelsKept (t : Word) (l : List LoopLvl) : List LoopLvl :=
  l.dropWhile fun x => !(decide (x.start.toNat ≤ t.toNat) && decide (t.toNat ≤ x.stop.toNat))

/-- The count of a LOOP: the low 32 bits of its register, or COUNT16 with g0 (R62). -/
def loopCount (s : State) (cnt : GReg) (count : BitVec 16) : BitVec 32 :=
  if cnt = 0 then count.setWidth 32 else (s.g cnt).setWidth 32

/-- A REP of count repetitions with its steps stands at repetition i of the target word w: none has been done, or RPST or a
repetition in progress says how many; the target is one that may be repeated, in every repetition (R67, R68, R396). The
state s0 is s once the target is there: it may have come into the instruction cache. -/
structure AtRepetition (s s0 : State) (count : Nat) (k : RepSteps) (w : Word) (i : Nat) : Prop where
  target : s.target = .word w s0
  at_ : (s.core.repAt = none ∧ s.core.rpPend = false ∧ i = 0) ∨ s.core.repAt = some i ∨
    (s.core.repAt = none ∧ s.core.rpPend = true ∧ s.core.rpCount.toNat = i)
  inside : i < count
  legal : ∀ j, j < count → ∃ x f, decode (repWord w k j) = .ok x ∧ repBody x = some f

/-- What stands after repetition i: the next one, or the instruction after the target when it was the last, with the end
test of the loops taken at the target (R67, R397). -/
structure Repeated (s t : State) (count i : Nat) : Prop where
  more : i + 1 < count → t.core.pc = s.core.pc ∧ t.core.loops = s.core.loops ∧ t.core.repAt = some (i + 1) ∧
    t.core.rpPend = false ∧ t.core.rpCount = 0
  last : i + 1 = count → (t.core.pc, t.core.loops) = loopEnd (s.core.pc + 8) s.core.loops ∧ t.core.repAt = none ∧
    t.core.rpPend = false ∧ t.core.rpCount = 0

end Sys2Proof.Claims

section
open Sys2Proof Sys2Proof.Machine Sys2Proof.Claims

/-- BR, CBR, CALL, JMP and RET go to their targets: BR and CBR relative to the pc, CALL relative to the pc with g0 or to a
register, JMP and RET to a register; CALL writes g31; taken BR, CBR and JMP pop the loop levels that do not hold the target,
CALL and RET none; a CBR whose condition is 0 goes on. The hint has no effect (R64, R353, R398). -/
def Sys2Proof.Claims.BranchesGo : Prop :=
  ∀ (c : Guard) (hint : Bool) (s : State) (k : Cond) (a b : GReg) (disp : BitVec 32), Runs .all true c s →
    let near := s.core.pc + disp.signExtend 64
    let far := s.g a + disp.signExtend 64
    let called := (if a = 0 then s.core.pc else s.g a) + disp.signExtend 64
    Jumps (.br c hint disp) s near (levelsKept near s.core.loops) [] ∧
    (condition k (s.g a) (s.g b) = true → Jumps (.cbr c k hint a b disp) s near (levelsKept near s.core.loops) []) ∧
    (condition k (s.g a) (s.g b) = false → Jumps (.cbr c k hint a b disp) s (s.core.pc + 8) s.core.loops []) ∧
    (called.toNat % 8 = 0 → Jumps (.call c hint a disp) s called s.core.loops [(31, s.core.pc + 8)]) ∧
    (far.toNat % 8 = 0 → Jumps (.jmp c hint a disp) s far (levelsKept far s.core.loops) []) ∧
    ((s.g a).toNat % 8 = 0 → Jumps (.ret c hint a) s (s.g a) s.core.loops [])

/-- A CALL, JMP or RET whose target from a register is not a multiple of 8 raises MISALIGNED at itself: EVAL is the target;
no register is written and no loop level popped (R61, R353, R398). -/
def Sys2Proof.Claims.MisalignedTargetTraps : Prop :=
  ∀ (c : Guard) (hint : Bool) (s : State) (a : GReg) (disp : BitVec 32), Runs .all true c s → HasHandler s →
    (a ≠ 0 → (s.g a + disp.signExtend 64).toNat % 8 ≠ 0 → Traps (.call c hint a disp) s 0x04 (s.g a + disp.signExtend 64)) ∧
    ((s.g a + disp.signExtend 64).toNat % 8 ≠ 0 → Traps (.jmp c hint a disp) s 0x04 (s.g a + disp.signExtend 64)) ∧
    ((s.g a).toNat % 8 ≠ 0 → Traps (.ret c hint a) s 0x04 (s.g a))

/-- LOOP with a count of 0 goes past the body and pushes nothing, at any depth; else at depth 0 or 1 it pushes a level with
start after itself and end at its own address plus 8 times BODYLEN, and goes on at the start; at depth 2 it raises LOOP_NEST
with its word in EVAL (R62, R377). -/
def Sys2Proof.Claims.LoopPushesOrSkips : Prop :=
  ∀ (c : Guard) (s : State) (cnt : GReg) (count len : BitVec 16), Runs .all true c s →
    (loopCount s cnt count = 0 →
      Jumps (.loop c cnt count len) s (s.core.pc + 8 + 8 * len.setWidth 64) s.core.loops []) ∧
    (loopCount s cnt count ≠ 0 → s.core.loops.length < 2 →
      Jumps (.loop c cnt count len) s (s.core.pc + 8)
        (⟨s.core.pc + 8, s.core.pc + 8 * len.setWidth 64, loopCount s cnt count⟩ :: s.core.loops) []) ∧
    (loopCount s cnt count ≠ 0 → s.core.loops.length = 2 → HasHandler s → Traps (.loop c cnt count len) s 0x10 s.ir)

/-- One turn of a REP is one repetition of its target: what the target's instruction does in that repetition, with each
register field n as (n + i * step) mod the size of its class; a repetition whose guard is 0 does nothing; the last one
ends the REP and its target. A REP whose own guard is 0, with a legal target, retires with no effect, and the target is
the next instruction (R67, R68). -/
def Sys2Proof.Claims.RepRepeats : Prop :=
  (∀ (c : Guard) (n : BitVec 6) (sd sa sb sc : BitVec 4) (s s0 : State) (w : Word) (i : Nat),
    Runs .all true ⟨0, false⟩ s → (s.guard c = true ∨ i ≠ 0) → AtRepetition s s0 (n.toNat + 1) ⟨sd, sa, sb, sc⟩ w i →
    (∀ x f s1, decode (repWord w ⟨sd, sa, sb, sc⟩ i) = .ok x → s.guard (guardOf (repWord w ⟨sd, sa, sb, sc⟩ i)) = true →
      repBody x = some f → f s0 = .retire s1 →
      (∃ u, exec x s0 = .next u ∧ u = s1.setCore s1.core.retire) ∧
      ∃ t, exec (.rep c n sd sa sb sc) s = .next t ∧ (∀ r, t.g r = s1.g r) ∧ (∀ r, t.v r = s1.v r) ∧
        (∀ r, t.p r = s1.p r) ∧ (∀ r, t.core.rdA r = s.core.rdA r) ∧ t.core.fstat = s1.core.fstat ∧
        Repeated s t (n.toNat + 1) i ∧ OnlyCore s0 t) ∧
    (s.guard (guardOf (repWord w ⟨sd, sa, sb, sc⟩ i)) = false →
      ∃ t, exec (.rep c n sd sa sb sc) s = .next t ∧ OthersKept s t [] [] [] [] ∧ t.core.fstat = s.core.fstat ∧
        Repeated s t (n.toNat + 1) i ∧ OnlyCore s0 t)) ∧
  (∀ (c : Guard) (n : BitVec 6) (sd sa sb sc : BitVec 4) (s s0 : State) (w : Word),
    Runs .all true ⟨0, false⟩ s → s.guard c = false → s.core.repAt = none → s.core.rpPend = false → s.target = .word w s0 →
    (∀ j, j ≤ n.toNat → ∃ x f, decode (repWord w ⟨sd, sa, sb, sc⟩ j) = .ok x ∧ repBody x = some f) →
    ∃ t, exec (.rep c n sd sa sb sc) s = .next t ∧ OthersKept s t [] [] [] [] ∧ t.core.fstat = s.core.fstat ∧
      t.core.pend = s.core.pend ∧ Retired s.core t.core ∧ OnlyCore s0 t)

/-- A REP raises REPEAT_TARGET at itself before any repetition, whatever its guard, when some repetition of the target is no
instruction or is of a group that it does not repeat: EVAL is the target word (R67, R396). A fault in a repetition enters
the handler with EPC at the REP, and RPST shadowed with the repetitions done (R68, R397). A target whose fetch fails raises
that fault with EPC and EVAL the target's address; when repetitions stand in RPST, EPC is the REP, and under a guard of 0
nothing happens: that division is the model's choice (R61; log entry 11). -/
def Sys2Proof.Claims.RepFaultsAtItself : Prop :=
  ∀ (c : Guard) (n : BitVec 6) (sd sa sb sc : BitVec 4) (s s0 : State) (w : Word), Runs .all true ⟨0, false⟩ s →
    HasHandler s →
    ((∃ j, j ≤ n.toNat ∧ (match decode (repWord w ⟨sd, sa, sb, sc⟩ j) with
        | .ok x => repBody x = none
        | .error _ => True)) → s.target = .word w s0 →
      ∃ t, exec (.rep c n sd sa sb sc) s = .next t ∧ Entered s0 t 0x11 w s.core.pc 0) ∧
    (∀ cause, s.target = .fault cause → cause ≠ 0x0A → cause ≠ 0x1D → cause ≠ 0x1F →
      (s.core.rpPend = true → Traps (.rep c n sd sa sb sc) s cause (s.core.pc + 8)) ∧
      (s.core.rpPend = false → s.guard c = true → ∃ t, exec (.rep c n sd sa sb sc) s = .next t ∧
        Entered s t cause (s.core.pc + 8) (s.core.pc + 8) 0) ∧
      (s.core.rpPend = false → s.guard c = false → GivesNothing (.rep c n sd sa sb sc) s)) ∧
    (∀ i x f cause eval, (s.guard c = true ∨ i ≠ 0) → AtRepetition s s0 (n.toNat + 1) ⟨sd, sa, sb, sc⟩ w i →
      decode (repWord w ⟨sd, sa, sb, sc⟩ i) = .ok x → s.guard (guardOf (repWord w ⟨sd, sa, sb, sc⟩ i)) = true →
      repBody x = some f → f s0 = .trap s0 cause eval 0 → cause ≠ 0x0A → cause ≠ 0x1D → cause ≠ 0x1F →
      ∃ t, exec (.rep c n sd sa sb sc) s = .next t ∧ t.core.cause = cause ∧ t.core.eval = eval ∧ t.core.epc = s.core.pc ∧
        t.core.pc = s.core.trapv ∧ t.core.inH = true ∧ t.core.shadow.rpPend = true ∧
        t.core.shadow.rpCount = BitVec.ofNat 6 i ∧ (∀ r, t.g r = s.g r) ∧ (∀ r, t.v r = s.v r) ∧ (∀ r, t.p r = s.p r) ∧
        OnlyCore s0 t)
end

namespace Sys2Proof.Claims
open Sys2Proof.Machine

/-! ### Loads, stores and atomics -/

/-- Bytes of a size code, and whether a load of it sign-extends (R331). -/
def bytesOf : Sz → Nat
  | .b | .bu => 1
  | .h | .hu => 2
  | .w | .wu => 4
  | .d | .du => 8
def signed : Sz → Bool
  | .b | .h | .w => true
  | _ => false

/-- The effective address of LD and ST; an index of g0 adds nothing, since g0 reads 0 (R341). -/
def address (s : State) (base idx : GReg) (n : Nat) (off : BitVec 22) : Word :=
  s.g base + s.g idx * BitVec.ofNat 64 n + off.signExtend 64

/-- Bits of bytes are set as a list says, byte address and bits, and no other byte of memory changes. -/
def BitsSet (ups : List (Nat × Nat)) (m n : List Host.Cell) : Prop :=
  ∀ a, Memory.get n a = ups.foldl (fun b q => if q.1 = a then b ||| BitVec.ofNat 8 q.2 else b) (Memory.get m a)

/-- The checks of an access change nothing but cached translations and the A and D bits in the entries of ups: a walk caches
what it found; a core asleep on such a word may see its condition met (R195, R196, R224). -/
structure ChecksOnly (s s1 : State) (ups : List (Nat × Nat)) : Prop where
  core : { s1.core with tlb := s.core.tlb, status := s.core.status } = s.core
  accs : s1.accs = s.accs ∧ s1.threads = s.threads ∧ s1.nextId = s.nextId ∧ s1.cur = s.cur ∧ s1.ir = s.ir
  others : s1.regions = s.regions ∧ s1.vds = s.vds ∧ s1.wins = s.wins ∧ s1.tile.fab = s.tile.fab
  bytes : BitsSet ups s.mem s1.mem

/-- An offset of the window of the core in focus that is a register slot, of the registers, the state registers that its
level reaches, or the boundary tables of its region's crown (R45 to R49, R58, R177). -/
def SlotAt (s : State) (o : Nat) : Prop :=
  (0x400000 ≤ o ∧ o < 0x400100) ∨ (0x401000 ≤ o ∧ o < 0x401800) ∨ (0x402000 ≤ o ∧ o < 0x402040) ∨
  (0x403000 ≤ o ∧ o < 0x403040) ∨ (0x404000 ≤ o ∧ o < 0x406000) ∨
  (∃ n ∈ srnListed, registerReached n.toNat s.core.lvl = true ∧ 0x408000 + 8 * n.toNat ≤ o ∧ o < 0x408008 + 8 * n.toNat) ∨
  (0x50E000 ≤ o ∧ o < 0x50E408 ∧ ∃ n x, s.regionAt s.cur = some n ∧ s.region n = some x ∧ x.crown = s.cur)

/-- An offset of the window of the core in focus at which nothing is mapped (R58, R187). -/
def NothingAt (s : State) (o : Nat) : Prop :=
  (0x100000 ≤ o ∧ o < 0x400000) ∨ (0x400100 ≤ o ∧ o < 0x401000) ∨ (0x401800 ≤ o ∧ o < 0x402000) ∨
  (0x402040 ≤ o ∧ o < 0x403000) ∨ (0x403040 ≤ o ∧ o < 0x404000) ∨ (0x406000 ≤ o ∧ o < 0x408000) ∨
  (0x408000 ≤ o ∧ o < 0x410000 ∧ BitVec.ofNat 12 ((o - 0x408000) / 8) ∉ srnListed) ∨
  (0x410000 ≤ o ∧ o < 0x500000) ∨ (0x50E408 ≤ o ∧ o < 0x600000) ∨ (0x610000 ≤ o ∧ o < 0x1000000) ∨
  (0x50E000 ≤ o ∧ o < 0x50E408 ∧ ∀ n x, s.regionAt s.cur = some n → s.region n = some x → x.crown ≠ s.cur)

/-- An instruction that issued one access: from the state s1 after its checks, the access a stands last in the order buffer,
still buffered, with the next number; nothing has been read or written, no register has changed, and the instruction has
retired (R206, R208). -/
structure IssuedFrom (s1 t : State) (a : Access) : Prop where
  accs : t.accs = s1.accs ++ [a] ∧ t.nextId = s1.nextId + 1
  fresh : a.id = s1.nextId ∧ a.party = .task s1.cur ∧ a.st = .buffered
  regs : OthersKept s1 t [] [] [] [] ∧ t.core.fstat = s1.core.fstat ∧ CachesKept s1.core t.core
  retired : Retired s1.core t.core
  bytes : ∀ x, Memory.get t.mem x = Memory.get s1.mem x
  rest : t = { s1.setCore t.core with accs := t.accs, nextId := t.nextId }

/-- The access is what its instruction says: where, how many bytes, its order and scope, and the page's order kind, which a
streaming store takes as UO (R209, R216). -/
structure AccessIs (a : Access) (k : AccKind) (ea : Word) (p : Spot) (n : Nat) (o : Ord) (sp : Scope) : Prop where
  what : a.kind = k ∧ a.va = ea ∧ a.pa = p.pa ∧ a.size = n
  order : a.ord = o ∧ a.scope = sp ∧ a.page = (if o = .strm then 2 else p.ord) ∧ a.win = p.win

/-- A load or atomic that will write the g register t with n bytes, extended: registered as awaiting access id; with g0 for
t nothing will be written. A pending load that was to write t no longer does. -/
def AwaitsG (s1 u : State) (t : GReg) (n : Nat) (sx : Bool) (id : Nat) : Prop :=
  ∃ p : Pending, u.core.pend = dropG s1.core.pend t ++ [p] ∧ p.parts = [(id, 0)] ∧ p.got = 0 ∧
    p.dest = (if t = 0 then .none else .g t n sx)

/-- A metadata word says what a token's metadata are (R46). -/
structure MetaIs (t : Token) (x : Word) : Prop where
  valid : t.valid = x.extractLsb' 0 16
  row : t.lr = x.getLsbD 16 ∧ t.ls = x.getLsbD 17
  kind : t.kind = (if x.extractLsb' 18 2 = 0 then .data else if x.extractLsb' 18 2 = 1 then .bubble
    else if x.extractLsb' 18 2 = 2 then .mark else .param)
  tag : t.tag = x.extractLsb' 20 12
  fmt : t.fmt = x.extractLsb' 32 5

/-- The doubleword at an offset of a token slot in the layout of R46: lanes, metadata, zeros. -/
inductive TokenSlot (t : Token) : Nat → Word → Prop
  | lanes (k : Nat) (h : k < 8) : TokenSlot t (8 * k) (t.lanes.extractLsb' (64 * k) 64)
  | data (x : Word) (h : MetaIs t x) (rest : x.toNat < 2 ^ 37) : TokenSlot t 64 x
  | rest (k : Nat) (h : 8 < k ∧ k < 16) : TokenSlot t (8 * k) 0

/-- The doubleword at an offset of the window of the core in focus, in its register slots, element windows, boundary tables
and port queues (R45 to R47, R58, R60, R133 to R136, R177). -/
inductive SlotHolds (s : State) : Nat → Word → Prop
  | general (r : GReg) : SlotHolds s (0x400000 + 8 * r.val) (s.g r)
  | token (r : VReg) (o : Nat) (x : Word) (h : TokenSlot (s.v r) o x) : SlotHolds s (0x401000 + 128 * r.val + o) x
  | predicate (r : PReg) : SlotHolds s (0x402000 + 8 * r.val) (if s.p r then 1 else 0)
  | table (r : Fin 2) (k : Nat) (h : k < 4) : SlotHolds s (0x403000 + 32 * r.val + 8 * k) ((s.core.tb[r]).extractLsb' (64 * k) 64)
  | accumulator (r : AReg) (k : Nat) (lo hi : Lane) (l : (s.core.rdA r).el[2 * k]? = some lo)
      (h : (s.core.rdA r).el[2 * k + 1]? = some hi) : SlotHolds s (0x404000 + 1024 * r.val + 8 * k) (hi ++ lo)
  | register (n : BitVec 12) (h : n ∈ srnListed) (l : registerReached n.toNat s.core.lvl = true) :
      SlotHolds s (0x408000 + 8 * n.toNat) (s.srRead s.cur n.toNat)
  | slot (i : Fin 4) (k : Nat) (h : k < 4) :
      SlotHolds s (0x500000 + 0x1000 * i.val + 8 * k) ((s.tile.fab.slots[i]).frame.extractLsb' (64 * k) 64)
  | unit (i : Fin 4) (k : Nat) (h : k < 4) :
      SlotHolds s (0x504000 + 0x1000 * i.val + 8 * k) ((s.tile.fab.mus[i]).frame.extractLsb' (64 * k) 64)
  | generator0 (i : Fin 2) (k : Nat) (h : k < 4) :
      SlotHolds s (0x508000 + 0x2000 * i.val + 8 * k) ((s.tile.fab.ags[i]).f0.extractLsb' (64 * k) 64)
  | generator1 (i : Fin 2) (k : Nat) (h : k < 4) :
      SlotHolds s (0x508020 + 0x2000 * i.val + 8 * k) ((s.tile.fab.ags[i]).f1.extractLsb' (64 * k) 64)
  | switch (i : Fin 4) (k : Nat) (h : k < 4) :
      SlotHolds s (0x50C000 + 32 * i.val + 8 * k) ((s.tile.fab.sw[i]).extractLsb' (64 * k) 64)
  | entries (n k : Nat) (x : Region) (h : k < 64) (c : s.regionAt s.cur = some n ∧ s.region n = some x ∧ x.crown = s.cur) :
      SlotHolds s (0x50E000 + 8 * k) (x.entryTab.extractLsb' (64 * k) 64)
  | exits (n k : Nat) (x : Region) (h : k < 64) (c : s.regionAt s.cur = some n ∧ s.region n = some x ∧ x.crown = s.cur) :
      SlotHolds s (0x50E200 + 8 * k) (x.exitTab.extractLsb' (64 * k) 64)
  | control (n : Nat) (x : Region) (c : s.regionAt s.cur = some n ∧ s.region n = some x ∧ x.crown = s.cur) :
      SlotHolds s 0x50E400 (x.btCtl.setWidth 64)
  | queued (p k o : Nat) (t : Token) (x : Word) (h : p < 16 ∧ k < 8) (q : (s.tile.fab.portQueue p)[k]? = some t)
      (w : TokenSlot t o x) : SlotHolds s (0x600000 + 0x1000 * p + 128 * k + o) x
  | empty (p k : Nat) (h : p < 16 ∧ k < 512 ∧ k ≠ 480) (q : (s.tile.fab.portQueue p).length ≤ k / 16 ∨ 128 ≤ k) :
      SlotHolds s (0x600000 + 0x1000 * p + 8 * k) 0
  | count (p : Nat) (h : p < 16) (q : (s.tile.fab.portQueue p).length < 16) : SlotHolds s (0x600F00 + 0x1000 * p)
      (BitVec.ofNat 64 ((s.tile.fab.portQueue p).length + if s.tile.fab.bound p then 256 else 0))

/-- Lane pair k of a token takes a doubleword, and nothing else of it changes. -/
def PutLanes (t u : Token) (k : Nat) (x : Word) : Prop :=
  { u with lanes := t.lanes } = t ∧
  ∀ j, j < 8 → u.lanes.extractLsb' (64 * j) 64 = if j = k then x else t.lanes.extractLsb' (64 * j) 64

/-- A store answers a next state that has gone past it; of the registers those named may have changed, as f says. -/
def Stores (i : Instr) (s : State) (g : List GReg) (v : List VReg) (p : List PReg) (a : List AReg) (f : State → Prop) : Prop :=
  ∃ u, exec i s = .next u ∧ f u ∧ OthersKept s u g v p a ∧ u.core.fstat = s.core.fstat ∧ CachesKept s.core u.core ∧
    u.core.pend = s.core.pend ∧ Retired s.core u.core ∧ OnlyCore s u

end Sys2Proof.Claims

section
open Sys2Proof Sys2Proof.Machine Sys2Proof.Claims

/-- The checks of an access change only cached translations and A and D bits, those in the entries that the walk of its
address names (the second part of State.walk2, set by State.setBits); without a walk, and in the local window, they change
nothing (R58, R195). -/
def Sys2Proof.Claims.ChecksChangeOnlyTranslationState : Prop :=
  ∀ (s s1 : State) (p : Spot) (k : Asker) (l : Lvl) (u : Use) (va : Word) (n al : Nat) (vec sc : Bool),
    s.check k l u va n al vec sc = .ok p s1 →
    (s1 = s ∨ ∃ x ups, s.walk2 k.vd k.user u va = .ok (x, ups) ∧ (∀ q ∈ ups, q.2 = 0x40 ∨ q.2 = 0xC0) ∧
      s1 = (s.setBits ups).updCore k.tile (fun c => { c with tlb := tlbInsert c.tlb x }) ∧
      (Memory.wf s.mem = true → BitsSet ups s.mem s1.mem ∧ (k.tile = s.cur → ChecksOnly s s1 ups))) ∧
    (0x7FFFFF000000 ≤ va.toNat → va.toNat ≤ 0x7FFFFFFFFFFF → s1 = s ∧ p.pa = localPa k.tile (va.toNat - 0x7FFFFF000000))

/-- A load whose checks pass enters the order buffer: g[BASE] + g[IDX] * size + OFF22, the bytes of its size code, and the
register that its reply will write, sign- or zero-extended (R206, R208, R331, R341, R376). -/
def Sys2Proof.Claims.LoadEntersOrderBuffer : Prop :=
  ∀ (c : Guard) (sz : Sz) (o : Ord) (sp : Scope) (t base idx : GReg) (off : BitVec 22) (s s1 : State) (p : Spot),
    Runs .all false c s →
    s.check s.me s.core.lvl .read (address s base idx (bytesOf sz) off) (bytesOf sz) (bytesOf sz) false (o == .sc) = .ok p s1 →
    ownSlots s1.cur p.pa = false →
    ∃ u a, exec (.ld c sz o sp t base idx off) s = .next u ∧ IssuedFrom s1 u a ∧
      AccessIs a .load (address s base idx (bytesOf sz) off) p (bytesOf sz) o sp ∧ AwaitsG s1 u t (bytesOf sz) (signed sz) a.id

/-- A store whose checks pass enters the order buffer with the low bytes of g[T]; memory changes only when it is performed.
A store that its level may not make to a register that it may read writes nothing (R49, R341, R406). -/
def Sys2Proof.Claims.StoreEntersOrderBuffer : Prop :=
  ∀ (c : Guard) (sz : Sz) (o : Ord) (sp : Scope) (t base idx : GReg) (off : BitVec 22) (s s1 : State) (p : Spot),
    Runs .all false c s →
    s.check s.me s.core.lvl .write (address s base idx (bytesOf sz) off) (bytesOf sz) (bytesOf sz) false (o == .sc) = .ok p s1 →
    ownSlots s1.cur p.pa = false →
    ∃ u a, exec (.st c sz o sp t base idx off) s = .next u ∧ IssuedFrom s1 u a ∧
      AccessIs a .store (address s base idx (bytesOf sz) off) p (bytesOf sz) o sp ∧ u.core.pend = s1.core.pend ∧
      (p.ignored s.core.lvl = false → ∀ i, i < 8 * bytesOf sz → a.mask.getLsbD i = true ∧ a.data.getLsbD i = (s.g t).getLsbD i) ∧
      (p.ignored s.core.lvl = true → a.mask = 0)

/-- An atomic whose checks pass enters the order buffer with its operand from g[IDX], the comparand of ACAS from g[T], and
its operation; AMIN and AMAX compare unsigned for .WU and .DU. Its reply will write g[T] with the old value, extended
(R332, R341, R342, R343). -/
def Obligations.AtomicEntersOrderBuffer : Prop :=
  ∀ (c : Guard) (sz : Sz) (o : Ord) (sp : Scope) (t base i : GReg) (off : BitVec 22) (s s1 : State) (p : Spot),
    Runs .all false c s →
    s.check s.me s.core.lvl .atomic (address s base 0 (bytesOf sz) off) (bytesOf sz) (bytesOf sz) false (o == .sc) = .ok p s1 →
    let Enters (x : Instr) (op : AtomOp) (sx : Bool) : Prop :=
      ∃ u a, exec x s = .next u ∧ IssuedFrom s1 u a ∧
        AccessIs a (.atom op) (address s base 0 (bytesOf sz) off) p (bytesOf sz) o sp ∧
        a.data.setWidth 64 = s1.g i ∧ a.cmp = s1.g t ∧ AwaitsG s1 u t (bytesOf sz) sx a.id
    let u := sz == .wu || sz == .du
    Enters (.aadd c sz o sp t base i off) .add (signed sz) ∧ Enters (.aand c sz o sp t base i off) .and (signed sz) ∧
    Enters (.aor c sz o sp t base i off) .or (signed sz) ∧ Enters (.axor c sz o sp t base i off) .xor (signed sz) ∧
    Enters (.amin c sz o sp t base i off) (if u then .minu else .min) (signed sz) ∧
    Enters (.amax c sz o sp t base i off) (if u then .maxu else .max) (signed sz) ∧
    Enters (.aswap c sz o sp t base i off) .swap (signed sz) ∧ Enters (.acas c sz o sp t base i off) .cas (signed sz) ∧
    Enters (.afmax c sz o sp t base i off) .fmax false ∧ Enters (.afadd c sz o sp t base i off) .fadd false

/-- The checks of LD, ST and the atomics in their order, with the address in EVAL: not canonical raises TRANSLATION, not
aligned MISALIGNED, and in the local window an offset that maps nothing PERMISSION, a register slot of another size
MISALIGNED, an atomic there ATOMIC_KIND, and SC ORDER_KIND; in element windows and port queues a store PERMISSION and a
load of another size MISALIGNED; a state register that the level does not reach PERMISSION, which R59 says of a store and
the model of a load too (log entry 20) (R49, R58, R59, R177, R187, R218, R341). -/
def Sys2Proof.Claims.AccessChecksFaultInOrder : Prop :=
  ∀ (c : Guard) (sz : Sz) (o : Ord) (sp : Scope) (t base idx : GReg) (off : BitVec 22) (s : State), Runs .all false c s →
    HasHandler s →
    let ea := address s base idx (bytesOf sz) off
    let at0 := address s base 0 (bytesOf sz) off
    let All (cause : BitVec 8) : Prop := Traps (.ld c sz o sp t base idx off) s cause ea ∧
      Traps (.st c sz o sp t base idx off) s cause ea
    let Atomics (cause : BitVec 8) : Prop :=
      ∀ x ∈ [Instr.aadd c sz o sp t base idx off, .aand c sz o sp t base idx off, .aor c sz o sp t base idx off,
        .axor c sz o sp t base idx off, .amin c sz o sp t base idx off, .amax c sz o sp t base idx off,
        .aswap c sz o sp t base idx off, .acas c sz o sp t base idx off, .afmax c sz o sp t base idx off,
        .afadd c sz o sp t base idx off], Traps x s cause at0
    let canon (a : Word) : Bool := (a.extractLsb' 47 17 == 0) || (a.extractLsb' 47 17 == BitVec.allOnes 17)
    let inSlots (a : Word) : Prop := 0x7FFFFF000000 ≤ a.toNat ∧ SlotAt s (a.toNat - 0x7FFFFF000000)
    let hole (a : Word) : Prop := 0x7FFFFF000000 ≤ a.toNat ∧ NothingAt s (a.toNat - 0x7FFFFF000000)
    let loadsOnly (a : Word) : Prop := (0x7FFFFF500000 ≤ a.toNat ∧ a.toNat < 0x7FFFFF50E000) ∨
      (0x7FFFFF600000 ≤ a.toNat ∧ a.toNat < 0x7FFFFF610000)
    (canon ea = false → All 0x05) ∧ (canon at0 = false → Atomics 0x05) ∧
    (canon ea = true → ea.toNat % bytesOf sz ≠ 0 → All 0x04) ∧
    (canon at0 = true → at0.toNat % bytesOf sz ≠ 0 → Atomics 0x04) ∧
    (ea.toNat % bytesOf sz = 0 → hole ea → All 0x06) ∧ (at0.toNat % bytesOf sz = 0 → hole at0 → Atomics 0x06) ∧
    (ea.toNat % bytesOf sz = 0 → inSlots ea → bytesOf sz ≠ 8 → All 0x04) ∧
    (at0.toNat % bytesOf sz = 0 → inSlots at0 → Atomics 0x1E) ∧
    (ea.toNat % 8 = 0 → inSlots ea → bytesOf sz = 8 → o = .sc → All 0x09) ∧
    (ea.toNat % bytesOf sz = 0 → loadsOnly ea → Traps (.st c sz o sp t base idx off) s 0x06 ea ∧
      (bytesOf sz ≠ 8 → Traps (.ld c sz o sp t base idx off) s 0x04 ea)) ∧
    (at0.toNat % bytesOf sz = 0 → loadsOnly at0 → Atomics 0x1E) ∧
    (∀ n ∈ srnListed, registerReached n.toNat s.core.lvl = false → bytesOf sz = 8 →
      ea.toNat = 0x7FFFFF408000 + 8 * n.toNat → All 0x06)

/-- LD.D and ST.D of the task's own slots act in their turn: a load gives what the slot holds as of the previous
instruction, a store has its effect before the next one. A g, v, p, a or table register takes the doubleword; a write to
the slot of g0 or p0 is ignored, as is a metadata word with a reserved FMT, of which the model drops the unnamed bits (log
entry 21); an accumulator whose F is set keeps the write for later, and V and D are set when it lands, which R59 says of a
held write and the model of every write (log entry 26); a state register takes it as by SWR, with one that is read-only at
the level or a value that breaks R49 ignored. They wait while an earlier access holds them or a load is to write the
register, and an SC access raises ORDER_KIND (R45, R46, R47, R49, R58, R59, R60, R177, R206, R208, R218). -/
def Obligations.OwnRegisterSlotAccess : Prop :=
  ∀ (c : Guard) (t base idx : GReg) (off : BitVec 22) (ord : Ord) (sp : Scope) (s : State) (o : Nat), Runs .all false c s →
    s.cur < 4104 → o < 0x1000000 → address s base idx 8 off = BitVec.ofNat 64 (Config.localBase + o) →
    let st := Instr.st c .d ord sp t base idx off
    let x := s.g t
    (ord = .sc → HasHandler s → (∃ y, SlotHolds s o y) → Traps (.ld c .d ord sp t base idx off) s 0x09 (w64 (Config.localBase + o))) ∧
    (ord ≠ .sc → ∀ r : GReg, r ≠ 0 → o = 0x400000 + 8 * r.val → (∃ p ∈ s.core.pend, ∃ n sx, p.dest = .g r n sx) →
      exec st s = .next s ∧ exec (.ld c .d ord sp t base idx off) s = .next s) ∧
    (ord ≠ .sc → (∃ y ∈ s.accs, y.party = .task s.cur ∧ y.st ≠ .performed ∧ y.ord = .sc ∧ ∀ k, y.kind ≠ .fence k) →
      (∃ y, SlotHolds s o y) →
      exec (.ld c .d ord sp t base idx off) s = .next s) ∧
    (s.accsOf (.task s.cur) = [] → s.core.pend = [] → ord ≠ .sc →
    (∀ y, SlotHolds s o y → GivesG (.ld c .d ord sp t base idx off) s t y) ∧
    (∀ r : GReg, o = 0x400000 + 8 * r.val → Stores st s [r] [] [] [] fun u => u.g r = if r = 0 then 0 else x) ∧
    (∀ (r : VReg) (k : Nat), k < 16 → o = 0x401000 + 128 * r.val + 8 * k →
      Stores st s [] [r] [] [] fun u => (k < 8 → PutLanes (s.v r) (u.v r) k x) ∧
        (k = 8 → (x.extractLsb' 32 5).toNat ≤ 0x14 → MetaIs (u.v r) x ∧ (u.v r).lanes = (s.v r).lanes) ∧
        ((k = 8 ∧ 0x14 < (x.extractLsb' 32 5).toNat) ∨ 8 < k → u.v r = s.v r)) ∧
    (∀ r : PReg, o = 0x402000 + 8 * r.val → Stores st s [] [] [r] [] fun u => u.p r = if r = 0 then true else x.getLsbD 0) ∧
    (∀ (r : Fin 2) (k : Nat), k < 4 → o = 0x403000 + 32 * r.val + 8 * k →
      ∃ u, exec st s = .next u ∧ OnlyCore s u ∧ Retired s.core u.core ∧
        OthersKept s (u.setCore { u.core with tb := s.core.tb }) [] [] [] [] ∧
        (∀ q, q ≠ r → u.core.tb[q] = s.core.tb[q]) ∧
        ∀ j, j < 4 → (u.core.tb[r]).extractLsb' (64 * j) 64 = if j = k then x else (s.core.tb[r]).extractLsb' (64 * j) 64) ∧
    (∀ (r : AReg) (k : Nat), k < 128 → o = 0x404000 + 1024 * r.val + 8 * k →
      (s.core.fBit r = false → Stores st s [] [] [] [r] fun u => (u.core.rdA r).v = true ∧ (u.core.rdA r).d = true ∧
        ∀ j, j < 256 → (u.core.rdA r).el[j]? = if j = 2 * k then some (x.extractLsb' 0 32)
          else if j = 2 * k + 1 then some (x.extractLsb' 32 32) else (s.core.rdA r).el[j]?) ∧
      (s.core.fBit r = true → ∃ u, exec st s = .next u ∧ OnlyCore s u ∧ Retired s.core u.core ∧
        OthersKept s (u.setCore { u.core with heldAcc := s.core.heldAcc }) [] [] [] [] ∧
        u.core.heldAcc = s.core.heldAcc ++ [(1024 * r.val + 8 * k, x)])) ∧
    (∀ n ∈ srnListed, o = 0x408000 + 8 * n.toNat → registerReached n.toNat s.core.lvl = true →
      (srReadOnly s.core.lvl n.toNat = true → GivesNothing st s) ∧
      (srReadOnly s.core.lvl n.toNat = false → srValueOk n.toNat x = false → GivesNothing st s) ∧
      (srReadOnly s.core.lvl n.toNat = false → srValueOk n.toNat x = true → exec st s = exec (.swr c n t) s)))
end

namespace Sys2Proof.Claims
open Sys2Proof.Machine

/-! ### The ordering machine -/

/-- The accesses stand as l, then x, then r, and no other access has the number of x. -/
structure Among (s : State) (l : List Access) (x : Access) (r : List Access) : Prop where
  is : s.accs = l ++ x :: r
  only : ∀ b ∈ l ++ r, b.id ≠ x.id

/-- The state with x of `Among` replaced. -/
def swap (s : State) (l : List Access) (x : Access) (r : List Access) : State := { s with accs := l ++ x :: r }

def isFence (a : Access) : Prop := ∃ k, a.kind = .fence k
def readsAt (a : Access) : Prop := a.kind = .load ∨ ∃ op, a.kind = .atom op
def writesAt (a : Access) : Prop := a.kind = .store ∨ ∃ op, a.kind = .atom op
def share (a b : Access) : Prop := ∃ n, a.pa ≤ n ∧ n < a.pa + a.size ∧ b.pa ≤ n ∧ n < b.pa + b.size

/-- A completion or notify word that some thread, worker or region has yet to write (R38, R227). -/
def isJoin (s : State) (y : Access) : Prop := s.joinWord y.pa y.size = true

/-- The kind that governs a pair of pages: 0 SO above 1 RC above 2 UO (R210); an access with ORD 11 leads to none. -/
def governs (y x : Access) : Nat := min y.page.toNat x.page.toNat

/-- A party whose accesses are mutually unordered: an engine thread, a GATHER (R203, R226). -/
def unorderedParty (p : Party) : Prop := (∃ i, p = .thread i) ∨ ∃ t i, p = .gather t i

/-- What makes an access x of a party wait for an earlier access or fence y of it: a page kind (R209, R210), an SC access
(R217), an acquire (R213), a release (R214), or a fence with its scope (R222). A streaming store waits for no page kind
and for no acquire (R216); a memory unit keeps its accesses to one address in order on every page (R127); what an access
of a join orders reaches every later access (R227; log entry 31). -/
inductive WaitsFor (s : State) (x y : Access) : Prop where
  | unit (f : ¬isFence y) (o : x.ord ≠ .strm ∧ y.ord ≠ .strm) (u : ∃ t n, x.party = .unit t n) (b : share y x)
  | so (f : ¬isFence y) (o : x.ord ≠ .strm ∧ y.ord ≠ .strm) (k : governs y x = 0)
  | rc (f : ¬isFence y) (o : x.ord ≠ .strm ∧ y.ord ≠ .strm) (k : governs y x = 1) (b : share y x)
  | sc (f : ¬isFence y) (p : y.st ≠ .performed) (o : y.ord = .sc ∨ x.ord = .sc)
  | acquire (f : ¬isFence y) (p : y.st ≠ .performed) (r : readsAt y) (a : y.ord = .acq ∨ y.ord = .ar) (o : x.ord ≠ .strm)
      (c : s.inScope y.scope x = true ∨ isJoin s y)
  | release (f : ¬isFence y) (p : y.st ≠ .performed) (w : writesAt x) (a : x.ord = .rel ∨ x.ord = .ar)
      (c : s.inScope x.scope y = true)
  | full (k : y.kind = .fence .full) (c : s.inScope y.scope x = true)
  | rel (k : y.kind = .fence .rel) (w : writesAt x) (c : s.inScope y.scope x = true)
  | acq (k : y.kind = .fence .acq) (o : x.ord ≠ .strm) (c : s.inScope y.scope x = true)

/-- What keeps a fence in the order buffer: an earlier access in its scope that has not been performed; for ACQ it
reads, for FETCH it writes (R222). -/
def keepsFence (s : State) (k : FenceKind) (x y : Access) : Prop :=
  ¬isFence y ∧ y.st ≠ .performed ∧ s.inScope x.scope y = true ∧ (k = .acq → readsAt y) ∧ (k = .fetch → writesAt y)

/-- Every access that a pre-condition of x names has been performed, be it merged into another. -/
def AfterDone (s : State) (x : Access) : Prop :=
  ∀ b ∈ s.accs, ∀ i ∈ x.after, b.id = i ∨ i ∈ b.merged → b.st = .performed

/-- Two accesses ride in one queue: the same source, home and class (R204). -/
def OneQueue (a b : Access) : Prop := a.party = b.party ∧ homeOf a.pa = homeOf b.pa ∧ a.cls = b.cls

/-- The access stands before a resource on its way: queued, first of its queue, the resource next (R207, R240). -/
def AtResource (s : State) (k : Nat × Nat) (b : Access) : Prop :=
  b.st = .queued ∧ b.needs.head? = some k ∧ ∀ c ∈ s.accs, c.st = .queued → OneQueue c b → b.seq ≤ c.seq

/-- The access has been outstanding for more than 1 ms, 700,000 ACLK, under a VD (R256, R288). -/
def Overdue (s : State) (x : Access) : Prop := x.born + 700000 < s.cycle ∧ x.vd < 32

/-- A UO store to a memory node within one block, not of the host port (R210, R216, R291). -/
def UoStore (x : Access) : Prop :=
  x.kind = .store ∧ x.page = 2 ∧ (∀ f, x.party ≠ .inbound f) ∧ x.pa % 64 + x.size ≤ 64 ∧ 0 < x.size ∧ x.mask.toNat < 2 ^ (8 * x.size)

/-- Bit b of the byte at an address is written by a store. -/
def bitWritten (x : Access) (a b : Nat) : Bool :=
  decide (x.pa ≤ a) && decide (a < x.pa + x.size) && x.mask.getLsbD (8 * (a - x.pa) + b)

/-- The node of a home holds the ring token, with work left in this visit, and no SC access arrived there before x (R217). -/
def HasToken (s : State) (others : List Access) (x : Access) : Prop :=
  (homeOf x.pa).ring = some s.ringAt ∧ s.ringDone < 4 ∧
  ∀ b ∈ others, b.st = .arrived → b.ord = .sc → homeOf b.pa = homeOf x.pa → x.seq ≤ b.seq

/-- The bytes of a home that plain accesses meet: HBM, felt and tile stores. -/
def plainHome (pa : Nat) : Prop := pa < Config.tileBase ∨
  (Config.tileBase ≤ pa ∧ pa < Config.hostBase ∧ (pa - Config.tileBase) % Config.windowSize < Config.tileStore)

/-- n bytes from an address, little-endian (R9). -/
def valueAt (m : List Host.Cell) (pa n : Nat) : Nat :=
  ((List.range n).map fun i => (Memory.get m (pa + i)).toNat * 256 ^ i).sum

/-- The memory t is m, but that the n bytes from pa are those of x where the mask is set. -/
def wroteOnly (m t : List Host.Cell) (pa n : Nat) (x mask : BitVec 512) : Prop :=
  (∀ a, a < pa ∨ pa + n ≤ a → Memory.get t a = Memory.get m a) ∧
  (∀ i b, i < n → b < 8 → (Memory.get t (pa + i)).getLsbD b =
    (if mask.getLsbD (8 * i + b) then x.getLsbD (8 * i + b) else (Memory.get m (pa + i)).getLsbD b))

/-- What an atomic writes over the old value, for operands of n bytes (R342); float operations have their own rules. -/
def newValue (op : AtomOp) (n old x : Nat) (cmp : Word) : Option Nat :=
  let m := 2 ^ (8 * n)
  let int (v : Nat) : Int := (BitVec.ofNat (8 * n) v).toInt
  match op with
  | .add => some ((old + x) % m)
  | .and => some (old &&& x)
  | .or => some (old ||| x)
  | .xor => some (old ^^^ x)
  | .min => some (if int x < int old then x else old)
  | .max => some (if int old < int x then x else old)
  | .minu => some (if x < old then x else old)
  | .maxu => some (if old < x then x else old)
  | .swap => some x
  | .cas => if old = cmp.toNat % m then some x else none
  | .fmax | .fadd => none

end Sys2Proof.Claims

section
open Sys2Proof Sys2Proof.Machine Sys2Proof.Claims

/-- A buffered access that is no fence leaves when no earlier access or fence of its party makes it wait and those that a
pre-condition names have been performed; it enters its queue behind all that left before. Otherwise nothing happens. The
accesses of a thread or a GATHER wait for none of their own. Two UO stores of a party to one block may leave as one store,
in the place of the earlier, in which the later one's bytes win. Two points are the model's choice: under SO and RC an access waits until the earlier one
has been answered (log entry 30), and an acquire of a word of a join holds later accesses whatever its scope (log entry 31)
(R127, R203, R206, R209, R210, R213, R214, R216, R217, R222, R226, R227). -/
def Sys2Proof.Claims.AccessLeavesUnlessHeld : Prop :=
  ∀ (s : State) (l r : List Access) (x : Access), Among s l x r → x.st = .buffered → ¬isFence x →
    (∀ y ∈ x :: l, isFence y ∨ 0 < y.size) →
    (unorderedParty x.party ∨ (∀ y ∈ l, y.party = x.party → ¬WaitsFor s x y) → AfterDone s x →
      exec (.orderLeave [x.id]) s = .next { swap s l { x with st := .queued, seq := s.seqNext, born := s.cycle } r with
        seqNext := s.seqNext + 1 }) ∧
    (∀ y ∈ l, y.party = x.party → WaitsFor s x y → ¬unorderedParty x.party → exec (.orderLeave [x.id]) s = .next s) ∧
    (¬AfterDone s x → exec (.orderLeave [x.id]) s = .next s) ∧
    (∀ (m q : List Access) (z : Access), r = m ++ z :: q → (∀ b ∈ l ++ x :: m ++ q, b.id ≠ z.id) → z.st = .buffered →
      (∀ i ∈ x.id :: x.merged, i < z.id) → UoStore x → UoStore z → plainHome x.pa → z.party = x.party → z.pa / 64 = x.pa / 64 → z.cls = x.cls →
      z.win = x.win → ¬unorderedParty x.party → (∀ y ∈ l ++ m, isFence y ∨ 0 < y.size) →
      (∀ y ∈ l, y.party = x.party → ¬WaitsFor s x y) →
      (∀ y ∈ l ++ x :: m, y.party = x.party → ¬WaitsFor s z y) → x.after = [] → z.after = [] →
      ∃ w, exec (.orderLeave [x.id, z.id]) s =
          .next { s with accs := l ++ w :: (m ++ q), seqNext := s.seqNext + 1 } ∧
        w.id = x.id ∧ w.st = .queued ∧ w.kind = .store ∧ z.id ∈ w.merged ∧ w.pa = min x.pa z.pa ∧
        w.pa + w.size = max (x.pa + x.size) (z.pa + z.size) ∧
        ∀ a b, w.pa ≤ a → a < w.pa + w.size → b < 8 →
          w.mask.getLsbD (8 * (a - w.pa) + b) = (bitWritten x a b || bitWritten z a b) ∧
          ((bitWritten x a b || bitWritten z a b) = true → w.data.getLsbD (8 * (a - w.pa) + b) =
            if bitWritten z a b then z.data.getLsbD (8 * (a - z.pa) + b) else x.data.getLsbD (8 * (a - x.pa) + b)))

/-- A fence enters the order buffer and retires. It leaves as soon as no earlier access of its party that it waits for is
still to be performed, and not before; FENCE.FETCH of a task then discards the tile's instruction cache (R221, R222). -/
def Sys2Proof.Claims.FencesEnterAndLeave : Prop :=
  (∀ (c : Guard) (sp : Scope) (s : State), Runs .all false c s →
    ∀ p ∈ [(Instr.fenceFull c sp, FenceKind.full), (.fenceRel c sp, .rel), (.fenceAcq c sp, .acq), (.fenceFetch c sp, .fetch)],
      ∃ t a, exec p.1 s = .next t ∧ IssuedFrom s t a ∧ a.kind = .fence p.2 ∧ a.scope = sp ∧ t.core.pend = s.core.pend) ∧
  (∀ (s : State) (l r : List Access) (x : Access) (k : FenceKind), Among s l x r → x.st = .buffered → x.kind = .fence k →
    x.after = [] →
    ((∀ y ∈ l, y.party = x.party → ¬keepsFence s k x y) →
      exec (.orderLeave [x.id]) s = .next (match x.party with
        | .task t => if k = .fetch then ({ s with accs := l ++ r } : State).updCore t fun c => { c with icache := [] }
          else { s with accs := l ++ r }
        | _ => { s with accs := l ++ r })) ∧
    (∀ y ∈ l, y.party = x.party → keepsFence s k x y → exec (.orderLeave [x.id]) s = .next s))

/-- An access arrives at its home when it has passed its wheels and no access of its queue (same source, home and class)
left before it and still rides. A wheel serves a queued access whose next resource it is, once in a slot, when it is the
first of its queue there and no waiting access stands in an earlier group of R241, in group 4 none of a VD whose turn comes
before, and within its VD none of a region that has had less of its share. The SC token passes to the next of the
1,024 nodes. Which resources lie on a path, and how turns and shares are counted, are the model's choice (log entries 59
and 79) (R204, R206, R207, R217, R240, R241). -/
def Sys2Proof.Claims.QueuesAndWheelsMoveAccesses : Prop :=
  (∀ (s : State) (l r : List Access) (x : Access), Among s l x r → x.st = .queued →
    let first : Prop := ∀ b ∈ l ++ r, b.st = .queued → OneQueue b x → x.seq ≤ b.seq
    (x.needs = [] → first → exec (.queueArrive x.id) s =
      .next { swap s l { x with st := .arrived, seq := s.seqNext } r with seqNext := s.seqNext + 1 }) ∧
    (x.needs ≠ [] ∨ ¬first → exec (.queueArrive x.id) s = .next s) ∧
    (∀ k rest, x.needs = k :: rest → first → (k, s.cycle / 4) ∉ s.wheelUsed →
      ∀ g, s.groupNow k x = some g →
        (∀ b ∈ l ++ r, AtResource s k b → ∀ h, s.groupNow k b = some h →
          g < h ∨ (g = h ∧ (g = 3 → s.turnOf k x.vd ≤ s.turnOf k b.vd) ∧ (x.vd = b.vd → s.sharesOk k x.region b.region = true))) →
        ∃ t, exec (.wheelSlot k.1 k.2 x.id) s = .next t ∧ (k, s.cycle / 4) ∈ t.wheelUsed ∧
          (g = 3 → t.turnOf k x.vd = 32) ∧ (∀ n, x.region = some n → t.slotsGot k n = s.slotsGot k n + 1) ∧
          t = { swap s l { x with needs := rest } r with
            wheelUsed := t.wheelUsed, wheelLast := t.wheelLast, wheelGot := t.wheelGot }) ∧
    (∀ k, (k, s.cycle / 4) ∈ s.wheelUsed ∨ s.groupNow k x = none ∨ x.needs.head? ≠ some k ∨
      (∃ b ∈ l ++ r, AtResource s k b ∧ ∃ g h, s.groupNow k x = some g ∧ s.groupNow k b = some h ∧ h < g) →
      exec (.wheelSlot k.1 k.2 x.id) s = .next s)) ∧
  (∀ s : State, exec .ringPass s = .next { s with ringAt := (s.ringAt + 1) % 1024, ringDone := 0 })

/-- A memory node performs an access that has arrived within its millisecond, to HBM, felt or a tile store, whose block is
not being re-encrypted and verifies, or for a store that covers its block whose counters verify; then the block verifies
again: a load takes the bytes, a store writes exactly its masked bits and no other byte, an integer atomic writes
what R342 says over the old value in one step and takes that value, an ACAS that fails its compare writes nothing; the
float atomics write the maximumNumber and the RNE sum with subnormals kept. An SC access is performed while its node holds
the ring token, at most four in a visit, in arrival order, and not otherwise (R205, R217, R219, R256, R267, R342, R343). -/
def Obligations.NodePerformsAccess : Prop :=
  ∀ (s : State) (l r : List Access) (x : Access), Among s l x r → x.st = .arrived →
    (x.ord = .sc → ¬HasToken s (l ++ r) x → exec (.nodePerform x.id) s = .next s) ∧
    ((x.ord = .sc → HasToken s (l ++ r) x) → plainHome x.pa →
    s.stalled x.pa = false → ¬Overdue s x → x.size ≤ 64 → Memory.wf s.mem = true →
    s.isBad x.pa = false ∨ (x.kind = .store ∧ x.size = 64 ∧ x.mask = BitVec.allOnes 512 ∧ s.ctrBad x.pa = false) →
    let Done (t : State) (v : Nat) : Prop := ∃ w, t.accs = l ++ { x with st := .performed, val := w, seq := s.seqNext } :: r ∧
      w.toNat = v ∧ t.regions = s.regions ∧ t.vds = s.vds ∧ t.sent = s.sent ∧ t.ringAt = s.ringAt ∧
      t.ringDone = s.ringDone + (if x.ord = .sc then 1 else 0)
    let old := valueAt s.mem x.pa x.size
    let arg := x.data.toNat % 2 ^ (8 * x.size)
    (x.kind = .load → ∃ t, exec (.nodePerform x.id) s = .next t ∧ Done t old ∧ t.mem = s.mem) ∧
    (x.kind = .store → ∃ t, exec (.nodePerform x.id) s = .next t ∧ Done t 0 ∧
      wroteOnly s.mem t.mem x.pa x.size x.data x.mask ∧
      (x.size = 64 → x.mask = BitVec.allOnes 512 → x.pa / 64 ∉ t.bad)) ∧
    (∀ op, x.kind = .atom op → op ≠ .fmax → op ≠ .fadd → x.size = 4 ∨ x.size = 8 →
      ∃ t, exec (.nodePerform x.id) s = .next t ∧ Done t old ∧
        (match newValue op x.size old arg x.cmp with
         | some v => wroteOnly s.mem t.mem x.pa x.size (BitVec.ofNat 512 v) (BitVec.allOnes 512)
         | none => t.mem = s.mem)) ∧
    (∀ op, x.kind = .atom op → op = .fmax ∨ op = .fadd → x.size = 2 ∨ x.size = 4 →
      let f : Fmt := if x.size = 2 then .bf16 else .fp32
      let v := if op = .fmax then (pickLane f true (BitVec.ofNat 32 old) (BitVec.ofNat 32 arg)).1
        else (addLane f .rne (BitVec.ofNat 32 old) (BitVec.ofNat 32 arg)).1
      ∃ t, exec (.nodePerform x.id) s = .next t ∧ Done t old ∧
        wroteOnly s.mem t.mem x.pa x.size (v.setWidth 512) (BitVec.allOnes 512)))

/-- The reply of a performed access of the task in focus, the first of its queue on the way back, removes the access, and
where a load or atomic waits for it alone it writes its g register: the bytes, sign- or zero-extended; nothing else of the core changes, and g0 stays 0. A reply to a
tile that another VD or generation now holds writes nothing; one behind another reply of its queue waits (R204, R206, R207,
R208, R255, R331, R342). -/
def Sys2Proof.Claims.ReplyWritesG : Prop :=
  ∀ (s : State) (l r : List Access) (x : Access) (k : Nat), Among s l x r → x.st = .performed → x.party = .task s.cur →
    ((∃ b ∈ l ++ r, b.st = .performed ∧ OneQueue b x ∧ b.seq < x.seq) → exec (.accessReply x.id) s = .next s) ∧
    ((∀ b ∈ l ++ r, b.st = .performed → OneQueue b x → x.seq ≤ b.seq) →
    (s.core.owner = some (x.vd, x.gen) → ∀ d n sx p q, s.core.pend = p ++ ⟨.g d n sx, [(x.id, 0)], 0⟩ :: q →
      (∀ y ∈ p ++ q, ∀ z ∈ y.parts, z.1 ≠ x.id ∧ z.1 ∉ x.merged) → (∀ y ∈ p ++ q, y.parts ≠ []) → x.size = n → k = 8 * n →
      n = 1 ∨ n = 2 ∨ n = 4 ∨ n = 8 →
      ∃ t, exec (.accessReply x.id) s = .next t ∧ t.accs = l ++ r ∧ t.core.pend = p ++ q ∧
        OthersKept s t [d] [] [] [] ∧ t.core.fstat = s.core.fstat ∧ t.core.pc = s.core.pc ∧
        t = { s.setCore t.core with accs := l ++ r } ∧
        t.g d = (if d = 0 then 0 else if sx then (x.val.setWidth k).signExtend 64 else (x.val.setWidth k).setWidth 64)) ∧
    (∀ o, s.core.owner = some o → o ≠ (x.vd, x.gen) →
      exec (.accessReply x.id) s = .next { s with accs := l ++ r }))

/-- The end of a re-encryption lets accesses to its leaf go on. A walk by the device caches a translation it found and sets
the A and D bits of R195 in the entries that the walk names (the second part of State.walk2), and no other byte changes; a
walk for a store is made only where a store of the task goes to the page, and one that an access would not be allowed makes
no change; one that finds no entry leaves none cached for its address: until the invalidation an access may use the old or
the new entry; when walks come is the model's choice (log entry 8). A request outstanding for longer than 1 ms (700,000
ACLK) fences its VD with MACHINE_CHECK (R191, R195, R196, R256, R268). -/
def Sys2Proof.Claims.DeviceWalksAndLimits : Prop :=
  (∀ (s : State) (stack leaf : Nat), ∃ t, exec (.reencryptComplete stack leaf) s = .next t ∧
    t = { s with recrypt := t.recrypt } ∧ (∀ z, z ∈ t.recrypt ↔ z ∈ s.recrypt ∧ z ≠ (stack, leaf))) ∧
  (∀ (s : State) (va : Word) (store : Bool) (x : Tlb) (ups : List (Nat × Nat)), s.core.status = .run →
    s.core.ofVd < 32 → (s.vd s.core.ofVd).st ≠ .none → canonical va = true → localOff va = none →
    let u : Use := if store then .write else .read
    s.walk2 s.core.ofVd (s.core.lvl == .u || s.core.inH) u va = .ok (x, ups) →
    let storeGoes : Prop := ∃ a ∈ s.accs, a.party = .task s.cur ∧ writesAt a ∧ a.vd = x.vd ∧
      x.vpage ≤ a.va.toNat % 2 ^ 48 ∧ a.va.toNat % 2 ^ 48 < x.vpage + x.size ∧ x.pa a.va = a.pa
    let allowed : Prop := s.physCheck x.vd x.kind.toNat x.win (x.pa va) u x.ord.toNat = none
    (allowed → (store = true → storeGoes) →
      ∃ t, exec (.walkComplete s.cur va store) s = .next t ∧ x ∈ t.core.tlb ∧ OthersKept s t [] [] [] [] ∧
        t.core.pc = s.core.pc ∧ t.accs = s.accs ∧ (∀ q ∈ ups, q.2 = 0x40 ∨ (store = true ∧ q.2 = 0xC0)) ∧
        t = (s.setBits ups).setCore { s.core with tlb := t.core.tlb } ∧
        (Memory.wf s.mem = true → BitsSet ups s.mem t.mem)) ∧
    (¬allowed ∨ (store = true ∧ ¬storeGoes) → exec (.walkComplete s.cur va store) s = .next s)) ∧
  (∀ (s : State) (va : Word) (store : Bool) (c : BitVec 8), s.core.ofVd < 32 → (s.vd s.core.ofVd).st ≠ .none →
    canonical va = true → localOff va = none →
    s.walk2 s.core.ofVd (s.core.lvl == .u || s.core.inH) (if store then .write else .read) va = .error (.fault c) →
    let at_ := va.toNat % 2 ^ 48
    ∃ l, exec (.walkComplete s.cur va store) s = .next (s.setCore { s.core with tlb := l }) ∧
      ∀ e, e ∈ l ↔ e ∈ s.core.tlb ∧ ¬(e.vd = s.core.ofVd ∧ e.vpage ≤ at_ ∧ at_ < e.vpage + e.size)) ∧
  (∀ (s : State) (va : Word) (store : Bool), 32 ≤ s.core.ofVd ∨ (s.vd s.core.ofVd).st = .none ∨ canonical va = false ∨
    localOff va ≠ none ∨
    s.walk2 s.core.ofVd (s.core.lvl == .u || s.core.inH) (if store then .write else .read) va = .error .wait →
    exec (.walkComplete s.cur va store) s = .next s) ∧
  (∀ (s : State) (l r : List Access) (x : Access), Among s l x r → x.st = .queued ∨ x.st = .arrived → x.vd < 32 →
    Memory.wf s.mem = true →
    (x.born + 700000 < s.cycle → (s.vd x.vd).st ≠ .none → ∃ t, exec (.requestTimeout x.id) s = .next t ∧
      (t.vd x.vd).st = .fenced ∧ Memory.get t.mem (mailbox (x.vd + 1) + 3) = 0x1F) ∧
    (s.cycle ≤ x.born + 700000 → exec (.requestTimeout x.id) s = .next s))
end

namespace Sys2Proof.Claims
open Sys2Proof.Machine

/-! ### Waits and barriers -/

/-- The condition of a WAITA on the value v and its comparand x, unsigned (R437). -/
def waitCond (k : WCond) (v x : Nat) : Prop :=
  match k with
  | .eq => v = x
  | .ne => v ≠ x
  | .geu => x ≤ v
  | .ltu => v < x

/-- The offset of an address in the tile store of the local window (R58). -/
def inStore (a : Word) : Prop := 0x7FFFFF000000 ≤ a.toNat ∧ a.toNat ≤ 0x7FFFFF0FFFFF

/-- Every other core is as before. -/
def OtherTilesKept (s t : State) (q : Nat) : Prop := ∀ z, z ≠ q → t.tileAt z = s.tileAt z

end Sys2Proof.Claims

section
open Sys2Proof Sys2Proof.Machine Sys2Proof.Claims

/-- WAITA of a word outside the tile store of the local window raises PERMISSION, of a misaligned one MISALIGNED. With no
access of the task outstanding it retires at once when the word satisfies the condition, unsigned, and otherwise sleeps at
its address; a performed store to the word whose result satisfies the condition makes it due, and the wake retires it
(R224, R437). -/
def Sys2Proof.Claims.WaitaSleepsUntilSatisfied : Prop :=
  (∀ (c : Guard) (k : WCond) (dword : Bool) (d a : GReg) (s : State), Runs .all false c s → s.cur < Config.tiles →
    let n := if dword then 8 else 4
    let ea := s.g a
    let x : Word := if dword then s.g d else (s.g d).setWidth 32 |>.setWidth 64
    let pa := localPa s.cur (ea.toNat - 0x7FFFFF000000)
    let v := valueAt s.mem pa n
    (HasHandler s → ¬inStore ea → Traps (.waita c k dword d a) s 0x06 ea) ∧
    (HasHandler s → inStore ea → ea.toNat % n ≠ 0 → Traps (.waita c k dword d a) s 0x04 ea) ∧
    (inStore ea → ea.toNat % n = 0 → (∀ y ∈ s.accs, y.party ≠ .task s.cur) →
      (waitCond k v x.toNat → GivesNothing (.waita c k dword d a) s) ∧
      (¬waitCond k v x.toNat → exec (.waita c k dword d a) s =
        .next (s.setCore { s.core with status := .asleep pa n k x false })))) ∧
  (∀ (s : State) (l r : List Access) (y : Access) (pa n : Nat) (k : WCond) (x : Word),
    s.core.status = .asleep pa n k x false → n = 4 ∨ n = 8 → Among s l y r → y.st = .arrived → y.ord ≠ .sc → ¬Overdue s y →
    plainHome y.pa → s.stalled y.pa = false → s.isBad y.pa = false → y.kind = .store → y.mask ≠ 0 →
    y.pa < pa + n → pa < y.pa + y.size →
    ∃ t b, exec (.nodePerform y.id) s = .next t ∧ t.core.status = .asleep pa n k x b ∧
      (b = true ↔ waitCond k (valueAt t.mem pa n) x.toNat)) ∧
  (∀ (s : State) (q pa n : Nat) (k : WCond) (x : Word) (b : Bool), (s.tileAt q).core.status = .asleep pa n k x b →
    (b = false → exec (.waitaWake q) s = .next s) ∧
    (b = true → ∃ t, exec (.waitaWake q) s = .next t ∧ OtherTilesKept s t q ∧ t.mem = s.mem ∧
      (t.tileAt q).core.status = .run ∧ Retired (s.tileAt q).core (t.tileAt q).core ∧
      (t.tileAt q).core.g = (s.tileAt q).core.g))

/-- BAR arrives once and waits at its barrier when every earlier access within region scope has been performed and the
episode is still open; a task that a handler took from its BAR does not arrive again, and goes on or waits as the episode
stands. The episode closes when the arrivals reach the count (0 stands for every task of the region that
has started and not exited): arrivals go to 0, a count written meanwhile takes effect, and every waiter of the barrier
goes on past its BAR; an arrival of it that a handler has broken into is over too; before that nothing happens (R50, R223,
R349, R350). -/
def Sys2Proof.Claims.BarrierArrivesAndCloses : Prop :=
  (∀ (c : Guard) (n : BitVec 4) (s : State), Runs .us false c s →
    (∀ a ∈ s.accs, a.party = .task s.cur → ¬isFence a → s.inScope .rgn a = true → a.st = .performed) →
    let h := s.barHome s.cur
    let b := s.barrier h n
    ((∀ p, s.core.barAt = some p → p.1 ≠ n ∨ p.2.1 ≠ s.core.pc) → s.barDue h n = false → exec (.bar c n) s =
      .next ((s.setBarrier h n { b with arrivals := b.arrivals + 1 }).setCore { s.core with status := .barrier n })) ∧
    (s.core.barAt = some (n, s.core.pc, false) →
      exec (.bar c n) s = .next (s.setCore { s.core with barAt := none, status := .barrier n })) ∧
    (s.core.barAt = some (n, s.core.pc, true) → ∃ t, exec (.bar c n) s = .next t ∧ t.core.barAt = none ∧
      OthersKept s t [] [] [] [] ∧ (t.core.pc, t.core.loops) = loopEnd s.core.pc s.core.loops ∧ OnlyCore s t)) ∧
  (∀ (s : State) (q : Nat) (n : BitVec 4) (r : Nat) (x : Region), s.regionAt q = some r → s.region r = some x →
    let b := x.bars[n.toFin]
    let closed (c : Core) : Core := { c with barAt := c.barAt.map fun p => if p.1 = n then (p.1, p.2.1, true) else p }
    let need := if b.count = 0 then (x.tilesOf.filter fun z => (s.tileAt z).core.task.isSome).length else b.count.toNat
    (b.arrivals = 0 ∨ b.arrivals < need → exec (.barEpisodeClose q n) s = .next s) ∧
    (0 < b.arrivals → need ≤ b.arrivals → ∃ t y, exec (.barEpisodeClose q n) s = .next t ∧ t.region r = some y ∧
      y.bars[n.toFin] = { count := b.next.getD b.count, arrivals := 0, next := none } ∧
      (∀ z, s.regionAt z = some r → (s.tileAt z).core.status = .barrier n →
        (t.tileAt z).core = { (closed (s.tileAt z).core).retire with status := .run }) ∧
      (∀ z, s.regionAt z = some r → (s.tileAt z).core.status = .stopped → (s.tileAt z).core.resume = .barrier n →
        (t.tileAt z).core = { (closed (s.tileAt z).core).retire with resume := .run }) ∧
      (∀ z, s.regionAt z = some r → (s.tileAt z).core.status = .run → (t.tileAt z).core = closed (s.tileAt z).core) ∧
      (∀ z, s.regionAt z ≠ some r → t.tileAt z = s.tileAt z) ∧ t.mem = s.mem ∧ t.accs = s.accs))
end

namespace Sys2Proof.Claims
open Sys2Proof.Machine

/-! ### Token instructions -/

/-- The token y has the format, 16 lanes valid as said, with payload 0 where invalid, and LR, LS, KIND, TAG of a (R413). -/
structure TokenIs (y a : Token) (f : Fmt) (valid : Nat → Bool) (l : Nat → Lane) : Prop where
  format : y.fmt = f.tag
  metadata : y.lr = a.lr ∧ y.ls = a.ls ∧ y.kind = a.kind ∧ y.tag = a.tag
  lanes : ∀ i, i < 16 → y.valid.getLsbD i = valid i ∧ laneOf y.lanes i = if valid i then l i else 0

/-- The flags that the valid lanes of 16 raise (R413). -/
def laneFlagsOf (valid : Nat → Bool) (g : Nat → Lane × BitVec 6) : BitVec 6 :=
  (List.range 16).foldl (fun acc i => if valid i then acc ||| (g i).2 else acc) 0

/-- The instruction writes such a token to v register d, merges the flags fl, and goes on. -/
def GivesToken (i : Instr) (s : State) (d : VReg) (a : Token) (f : Fmt) (valid : Nat → Bool) (l : Nat → Lane)
    (fl : BitVec 6) : Prop :=
  ∃ y, GivesV i s d y fl ∧ TokenIs y a f valid l

/-- The instruction moves such lanes, invalid ones with the payload that its entry gives (R417, R420, R427, R435), and
raises no flag. -/
def GivesMoved (i : Instr) (s : State) (d : VReg) (a : Token) (f : Fmt) (valid : Nat → Bool) (l : Nat → Lane) : Prop :=
  ∃ y, GivesV i s d y 0 ∧ y.fmt = f.tag ∧ (y.lr = a.lr ∧ y.ls = a.ls ∧ y.kind = a.kind ∧ y.tag = a.tag) ∧
    ∀ k, k < 16 → y.valid.getLsbD k = valid k ∧ laneOf y.lanes k = l k

/-- The same, lanes and flags from one lane operation. -/
def GivesLanes (i : Instr) (s : State) (d : VReg) (a : Token) (f : Fmt) (valid : Nat → Bool)
    (g : Nat → Lane × BitVec 6) : Prop :=
  GivesToken i s d a f valid (fun k => (g k).1) (laneFlagsOf valid g)

/-- The low bits of a lane that the format's element takes (R70, R413). -/
def el (t : Token) (f : Fmt) (i : Nat) : Lane := laneOf t.lanes i &&& BitVec.ofNat 32 (2 ^ f.width - 1)

def isOn (t : Token) (i : Nat) : Bool := t.valid.getLsbD i

/-- What a lane operation on integers of w bits gives: the low w bits, no flag (R414). -/
def wraps (f : Fmt) (x : Lane) : Lane × BitVec 6 := (x &&& BitVec.ofNat 32 (2 ^ f.width - 1), 0)

/-- The six formats of lane arithmetic, and which of them are integers (R415). -/
def intFmt : Fmt → Bool
  | .int32 | .int16 | .int8 => true
  | _ => false
def laneFmt (f : Fmt) : Bool := intFmt f || f == .fp32 || f == .bf16 || f == .fp16

/-- The exact value of a result, rounded once into a float format, with invalid where the operation is (R414). -/
def rounds (f : Fmt) (x : XVal × Bool) (m : RMode) : Lane × BitVec 6 := f.roundLane x m

/-- The mode of a rounding field; DYN is FMODE as it stands (R78). -/
def modeOf (s : State) (rm : Rm) : RMode :=
  match rm with
  | .rne => .rne
  | .rtz => .rtz
  | .rdn => .rdn
  | .rup => .rup
  | .dyn => if s.core.fmode = 1 then .rtz else if s.core.fmode = 2 then .rdn else if s.core.fmode = 3 then .rup else .rne

/-- A reduction's identity and its step (R434). -/
def identity (f : Fmt) (op : RedOp) : Lane :=
  match op, f with
  | .sum, _ => 0
  | .max, .fp32 => 0xFF800000 | .max, .bf16 => 0xFF80 | .max, .fp16 => 0xFC00
  | .min, .fp32 => 0x7F800000 | .min, .bf16 => 0x7F80 | .min, .fp16 => 0x7C00
  | .max, .int32 => 0x80000000 | .max, .int16 => 0x8000 | .max, _ => 0x80
  | .min, .int32 => 0x7FFFFFFF | .min, .int16 => 0x7FFF | .min, _ => 0x7F
def redStep (f : Fmt) (op : RedOp) (m : RMode) (a b : Lane) : Lane × BitVec 6 :=
  match op with
  | .sum => addLane f m a b
  | .max => pickLane f true a b
  | .min => pickLane f false a b

/-- The running value and flags after the first n lanes (R87, R434). -/
def running (f : Fmt) (op : RedOp) (m : RMode) (t : Token) (n : Nat) : Lane × BitVec 6 :=
  (List.range n).foldl (fun r i => if isOn t i then
    ((redStep f op m r.1 (el t f i)).1, r.2 ||| (redStep f op m r.1 (el t f i)).2) else r) (identity f op, 0)

/-- The valid lanes of a token, in order, and how many lie before lane i. -/
def lanesOn (t : Token) : List Nat := (List.range 16).filter (isOn t)
def before (t : Token) (i : Nat) : Nat := ((List.range i).filter (isOn t)).length

/-- VRANK's order of values, ascending or descending, every NaN after every number (R433). -/
def ranksBefore (desc : Bool) (u v : XVal) : Bool := !u.isNaN && (v.isNaN || (if desc then v.lt u else u.lt v))

/-- FORMAT_TAG_MISMATCH on v register r: EVAL holds the tag found, the tag expected (0x1F for a set), and the field code of
the register (R57, R81). -/
def TagTraps (i : Instr) (s : State) (r : VReg) (expected : BitVec 5) : Prop :=
  Traps i s 0x03 (BitVec.ofNat 64 ((s.v r).fmt.toNat + expected.toNat * 256 + (32 + r.val) * 65536))

/-! ### What a rounding and a conversion give, from R71 to R86 -/

/-- The magnitude of a code without sign, in units of the smallest subnormal, were the exponent range unbounded above
(R72). -/
def magnitude (f : FloatFmt) (c : Nat) : Nat :=
  if c / 2 ^ f.mb = 0 then c else (2 ^ f.mb + c % 2 ^ f.mb) * 2 ^ (c / 2 ^ f.mb - 1)

/-- The magnitude of the exact value lies below that of the code after, or above that of the code before, as the mode wants:
c is the code to which n / d, in units of the smallest subnormal, is rounded (R78). -/
def roundsAt (f : FloatFmt) (neg : Bool) (n d : Nat) (m : RMode) (c : Nat) : Prop :=
  let zero := d * magnitude f c ≤ n ∧ n < d * magnitude f (c + 1)
  let away := n ≤ d * magnitude f c ∧ (c = 0 ∨ d * magnitude f (c - 1) < n)
  match m with
  | .rne => (c = 0 ∨ d * (magnitude f (c - 1) + magnitude f c) < 2 * n ∨
      (d * (magnitude f (c - 1) + magnitude f c) = 2 * n ∧ c % 2 = 0)) ∧
    (2 * n < d * (magnitude f c + magnitude f (c + 1)) ∨ (2 * n = d * (magnitude f c + magnitude f (c + 1)) ∧ c % 2 = 0))
  | .rtz => zero
  | .rdn => if neg then away else zero
  | .rup => if neg then zero else away

/-- The value, rounded as if the exponent range were unbounded, lies below the smallest normal (R79). -/
def isTiny (f : FloatFmt) (neg : Bool) (n d : Nat) (m : RMode) : Prop :=
  let zero := n < d * 2 ^ f.mb
  let away := 2 * n ≤ d * (2 * 2 ^ f.mb - 1)
  match m with
  | .rne => 4 * n < d * (4 * 2 ^ f.mb - 1)
  | .rtz => zero
  | .rdn => if neg then away else zero
  | .rup => if neg then zero else away

/-- A format's codes of the largest finite magnitude, of infinity where it has one, and of the canonical NaN, without sign
(R71, R74). -/
def largestCode : Fmt → Nat
  | .fp32 => 0x7F7FFFFF | .bf16 => 0x7F7F | .fp16 => 0x7BFF | .fp8e5 => 0x7B | .fp8e4 => 0x7E
  | .fp6e3 | .fp6e2 => 0x1F | _ => 7
def infinityCode : Fmt → Nat
  | .fp32 => 0x7F800000 | .bf16 => 0x7F80 | .fp16 => 0x7C00 | _ => 0x7C
def nanCode : Fmt → Nat
  | .fp32 => 0x7FC00000 | .bf16 => 0x7FC0 | .fp16 => 0x7E00 | .fp8e5 => 0x7E | _ => 0x7F
def withSign (f : Fmt) (neg : Bool) (c : Nat) : Lane := BitVec.ofNat 32 (if neg then 2 ^ (f.width - 1) + c else c)

/-- The integer to which n / d is rounded, with the sign given (R78). -/
def integerAt (neg : Bool) (n d : Nat) (m : RMode) (i : Nat) : Prop :=
  let zero := d * i ≤ n ∧ n < d * (i + 1)
  let away := n ≤ d * i ∧ (i = 0 ∨ d * (i - 1) < n)
  match m with
  | .rne => (i = 0 ∨ d * (2 * i - 1) < 2 * n ∨ (d * (2 * i - 1) = 2 * n ∧ i % 2 = 0)) ∧
    (2 * n < d * (2 * i + 1) ∨ (2 * n = d * (2 * i + 1) ∧ i % 2 = 0))
  | .rtz => zero
  | .rdn => if neg then away else zero
  | .rup => if neg then zero else away

/-- m * 2^e as a fraction. -/
def fraction (m : Nat) (e : Int) : Nat × Nat := (m * 2 ^ e.toNat, 2 ^ (-e).toNat)

/-- A lane of an integer format from an integer: its low bits (R76). -/
def intLane (f : Fmt) (i : Int) : Lane := BitVec.ofInt 32 i &&& BitVec.ofNat 32 (2 ^ f.width - 1)

/-- A float or a quotient of floats as a lane of an integer format: rounded, with inexact where it changed; out of range the
nearest end and invalid (R82, R83). -/
def toInteger (f : Fmt) (neg : Bool) (n d : Nat) (m : RMode) (r : Lane × BitVec 6) : Prop :=
  ∃ i lo hi, integerAt neg n d m i ∧ f.range = some (lo, hi) ∧
    let v : Int := if neg then -(i : Int) else i
    r = if v < lo then (intLane f lo, 1) else if hi < v then (intLane f hi, 1)
      else (intLane f v, if d * i = n then 0 else 0x10)

end Sys2Proof.Claims

section
open Sys2Proof Sys2Proof.Machine Sys2Proof.Claims

/-- Lane arithmetic on tokens of the instruction's format: float lanes are the exact result rounded once, integer lanes
wrap; a lane is valid where all its sources are, and only valid lanes raise flags (R413 to R416, R418). -/
def Obligations.TokenArithmeticWritesItsResult : Prop :=
  ∀ (c : Guard) (f : Fmt) (rm : Rm) (k : VCond) (d a b e : VReg) (s : State), Runs .all false c s → laneFmt f = true →
    (s.v a).fmt = f.tag → (s.v b).fmt = f.tag → (s.v e).fmt = f.tag →
    let m := modeOf s rm
    let A := s.v a
    let B := s.v b
    let x (i : Nat) : Lane := el A f i
    let y (i : Nat) : Lane := el B f i
    let z (i : Nat) : Lane := el (s.v e) f i
    let two (i : Nat) : Bool := isOn A i && isOn B i
    let Two (n : Instr) (fl : Nat → XVal × Bool) (int : Nat → Lane) : Prop :=
      GivesLanes n s d A f two fun i => if intFmt f then wraps f (int i) else rounds f (fl i) m
    Two (.vadd c f rm d a b) (fun i => (f.value (x i)).add (f.value (y i)) m) (fun i => x i + y i) ∧
    Two (.vsub c f rm d a b) (fun i => (f.value (x i)).add (f.value (y i)).neg m) (fun i => x i - y i) ∧
    Two (.vmul c f rm d a b) (fun i => (f.value (x i)).mul (f.value (y i))) (fun i => x i * y i) ∧
    GivesLanes (.vfma c f rm d a b e) s d A f (fun i => two i && isOn (s.v e) i) (fun i =>
      if intFmt f then wraps f (x i * y i + z i) else rounds f ((f.value (x i)).fma (f.value (y i)) (f.value (z i)) m) m) ∧
    (intFmt f = true →
      GivesLanes (.vmax c f d a b) s d A f two (fun i => (if f.int (x i) < f.int (y i) then y i else x i, 0)) ∧
      GivesLanes (.vmin c f d a b) s d A f two (fun i => (if f.int (y i) < f.int (x i) then y i else x i, 0)) ∧
      GivesLanes (.vabs c f d a) s d A f (isOn A) (fun i => wraps f (if f.int (x i) < 0 then -(x i) else x i)) ∧
      GivesLanes (.vneg c f d a) s d A f (isOn A) (fun i => wraps f (-(x i))) ∧
      GivesLanes (.vand c f d a b) s d A f two (fun i => (x i &&& y i, 0)) ∧
      GivesLanes (.vor c f d a b) s d A f two (fun i => (x i ||| y i, 0)) ∧
      GivesLanes (.vxor c f d a b) s d A f two (fun i => (x i ^^^ y i, 0))) ∧
    (intFmt f = false →
      GivesLanes (.vmax c f d a b) s d A f two (fun i => pickLane f true (x i) (y i)) ∧
      GivesLanes (.vmin c f d a b) s d A f two (fun i => pickLane f false (x i) (y i)) ∧
      GivesLanes (.vabs c f d a) s d A f (isOn A) (fun i => absLane f (x i)) ∧
      GivesLanes (.vneg c f d a) s d A f (isOn A) (fun i => negLane f (x i))) ∧
    GivesToken (.vcmp c f k d a b) s d A f (fun i => two i && k.holds (f.value (x i)) (f.value (y i))) x
      (laneFlagsOf two fun i => (0, if (f.value (x i)).isSNaN || (f.value (y i)).isSNaN then 1 else 0))

/-- Conversion, quantisation, scales, special functions, reductions and scans: the lane operations of R81 to R87, with the
rounding of R78 (special functions always to nearest), written with the result's tag; VCVT.AS changes the tag alone; VRED
gives lane 0 only, VSCAN the running value after, or with EXCL before, each valid lane. What the lane operations give is said by the other
parts (R81 to R87, R421, R422, R434). -/
def Sys2Proof.Claims.ConversionsAndReductionsWrite : Prop :=
  ∀ (c : Guard) (f src : Fmt) (rm : Rm) (sat fp32 excl : Bool) (op : RedOp) (d a b : VReg) (s : State),
    Runs .all false c s →
    let m := modeOf s rm
    let A := s.v a
    let x (i : Nat) : Lane := el A src i
    let scale (t : Fmt) : XVal := t.value (el (s.v b) t 0)
    (∃ y, GivesV (.vcvt c f sat true rm d a) s d y 0 ∧ y = { A with fmt := f.tag }) ∧
    (A.fmt = src.tag →
      (src ∉ [Fmt.cb4, .cb3, .idx32, .bits] →
        GivesLanes (.vcvt c f sat false rm d a) s d A f (isOn A) fun i => cvtLane src f m sat (x i)) ∧
      (∀ t, t = Fmt.e8m0 ∨ t = .fp32 → (s.v b).fmt = t.tag →
        (src ∈ [Fmt.fp32, .bf16, .fp16] → GivesLanes (.vqnt c f rm d a b) s d A f (fun i => isOn A i && isOn (s.v b) 0)
          fun i => qntLane src f m (scale t) (x i)) ∧
        (src.isNarrow = true → GivesLanes (.vdq c f sat rm d a b) s d A f (fun i => isOn A i && isOn (s.v b) 0)
          fun i => dqLane src f m sat (scale t) (x i))) ∧
      (src ∈ [Fmt.fp32, .bf16, .fp16] →
        let r := sclOf f fp32 ((lanesOn A).foldl (fun z i => z.amax (src.value (x i))) (.fin false 0 0))
        GivesToken (.vscl c f fp32 d a) s d A (if fp32 then .fp32 else .e8m0) (fun i => i == 0) (fun _ => r.1) r.2)) ∧
    (A.fmt = f.tag → f ∈ [Fmt.fp32, .bf16, .fp16] →
      GivesLanes (.vexp2 c f d a) s d A f (isOn A) (fun i => exp2Lane f .rne (el A f i)) ∧
      GivesLanes (.vlog2 c f d a) s d A f (isOn A) (fun i => log2Lane f .rne (el A f i)) ∧
      GivesLanes (.vrcp c f d a) s d A f (isOn A) (fun i => rcpLane f .rne (el A f i)) ∧
      GivesLanes (.vrsq c f d a) s d A f (isOn A) (fun i => rsqLane f .rne (el A f i))) ∧
    (A.fmt = f.tag → laneFmt f = true →
      let r := running f op m A
      GivesToken (.vscan c f op excl rm d a) s d A f (isOn A) (fun i => (r (if excl then i else i + 1)).1) (r 16).2 ∧
      GivesToken (.vred c f op rm d a) s d A f (fun i => i == 0) (fun _ => (r 16).1) (r 16).2)

/-- A rounding into a float format gives the code nearest to the exact value as the mode says, ties to even under RNE; an
inexact result sets inexact, a tiny one underflow too; past the largest finite magnitude it gives infinity or that
magnitude as the mode, SAT and the format say, with overflow and inexact; an exact zero keeps its sign (R71, R72, R73, R78,
R79). -/
def Sys2Proof.Claims.RoundingIsNearest : Prop :=
  ∀ (f : Fmt) (ff : FloatFmt) (neg : Bool) (num den : Nat) (e : Int) (m : RMode) (sat : Bool), f.float = some ff → den ≠ 0 →
    let n := num * 2 ^ (e - ff.qmin).toNat
    let d := den * 2 ^ (ff.qmin - e).toNat
    let r := ff.round neg num den e m sat
    ∃ c, roundsAt ff neg n d m c ∧
      (c ≤ largestCode f → BitVec.ofNat 32 r.1 = withSign f neg c ∧
        (d * magnitude ff c = n → r.2 = 0) ∧ (d * magnitude ff c ≠ n → isTiny ff neg n d m → r.2 = 0x18) ∧
        (d * magnitude ff c ≠ n → ¬isTiny ff neg n d m → r.2 = 0x10)) ∧
      (largestCode f < c → r.2 = 0x14 ∧ BitVec.ofNat 32 r.1 = withSign f neg
        (if sat = false ∧ f ∈ [Fmt.fp32, .bf16, .fp16, .fp8e5] ∧ (m = .rne ∨ (m = .rdn ∧ neg = true) ∨ (m = .rup ∧ neg = false))
          then infinityCode f else largestCode f))

/-- The values of VCVT, VQNT, VDQ and VSCL: the rows of their tables, with one rounding of the exact value, quotient or
product. Four of their cases the spec does not fix, and the model chooses (log entry 89): an E8M0 code into an integer, an
infinity over a finite scale into an integer, the sign of an integer zero times a negative scale, and the canonical NaN of a
format without one (R74, R75, R76, R79, R82, R83, R84, R85). -/
def Sys2Proof.Claims.ConversionValues : Prop :=
  ∀ (src dst : Fmt) (m : RMode) (sat : Bool) (x : Lane) (sv : XVal),
    let v := src.value x
    let hasNan := dst ∈ [Fmt.fp32, .bf16, .fp16, .fp8e5, .fp8e4]
    let hasInf := dst ∈ [Fmt.fp32, .bf16, .fp16, .fp8e5]
    let invalidResult : Lane × BitVec 6 := if dst.float.isNone then (0, 1) else
      if hasNan then (withSign dst false (nanCode dst), 1) else (withSign dst false (largestCode dst), 0x21)
    (∀ ff, dst.float = some ff →
      (∀ s k e, v = .fin s k e → cvtLane src dst m sat x = lane (ff.round s k 1 e m sat)) ∧
      (∀ s, v = .inf s → cvtLane src dst m sat x = if hasInf
        then (withSign dst s (if sat then largestCode dst else infinityCode dst), 0) else (withSign dst s (largestCode dst), 1)) ∧
      (∀ g s, v = .nan g s → cvtLane src dst m sat x = if hasNan
        then (withSign dst (src != .e8m0 && s) (nanCode dst), if g then 1 else 0)
        else (withSign dst s (largestCode dst), 0x21))) ∧
    (∀ lo hi, dst.range = some (lo, hi) →
      (src.range.isSome = true → cvtLane src dst m sat x =
        if lo ≤ src.int x ∧ src.int x ≤ hi then (intLane dst (src.int x), 0)
        else if sat then (intLane dst (if src.int x < lo then lo else hi), 4) else (intLane dst (src.int x), 0)) ∧
      (src.range = none → (∀ g s, v = .nan g s → cvtLane src dst m sat x = (0, 1)) ∧
        (∀ s, v = .inf s → cvtLane src dst m sat x = (intLane dst (if s then lo else hi), 1)) ∧
        (∀ s k e, v = .fin s k e → toInteger dst s (fraction k e).1 (fraction k e).2 m (cvtLane src dst m sat x)))) ∧
    (sv.isZero = true ∨ sv.isNaN = true ∨ v.isNaN = true ∨ (v.isInf = true ∧ sv.isInf = true) →
      qntLane src dst m sv x = invalidResult) ∧
    (∀ s t n q, v = .inf s → sv = .fin t n q → n ≠ 0 → qntLane src dst m sv x =
      (match dst.range with
       | some (lo, hi) => intLane dst (if s != t then lo else hi)
       | none => if dst.float.isSome then withSign dst (s != t) (largestCode dst) else 0, 1)) ∧
    (∀ s k e t, v = .fin s k e → sv = .inf t → qntLane src dst m sv x =
      (if dst.float.isSome then withSign dst (s != t) 0 else 0, 0)) ∧
    (∀ s k e t n q, v = .fin s k e → sv = .fin t n q → n ≠ 0 →
      (∀ ff, dst.float = some ff → qntLane src dst m sv x = lane (ff.round (s != t) k n (e - q) m true)) ∧
      (dst.range.isSome = true →
        toInteger dst (s != t) (fraction k (e - q)).1 ((fraction k (e - q)).2 * n) m (qntLane src dst m sv x))) ∧
    (∀ ff, dst.float = some ff → hasInf →
      (v.isNaN = true ∨ sv.isNaN = true → dqLane src dst m sat sv x =
        (withSign dst false (nanCode dst), if v.isSNaN ∨ sv.isSNaN then 1 else 0)) ∧
      (v.isNaN = false → sv.isNaN = false → (v.isInf = true ∧ sv.isZero = true) ∨ (v.isZero = true ∧ sv.isInf = true) →
        dqLane src dst m sat sv x = (withSign dst false (nanCode dst), 1)) ∧
      (v.isNaN = false → sv.isNaN = false → v.isZero = false → sv.isZero = false → v.isInf = true ∨ sv.isInf = true →
        dqLane src dst m sat sv x =
          (withSign dst (v.sign != sv.sign) (if sat then largestCode dst else infinityCode dst), 0)) ∧
      (∀ s k e t n q, v = .fin s k e → sv = .fin t n q →
        dqLane src dst m sat sv x = lane (ff.round (s != t) (k * n) 1 (e + q) m sat))) ∧
    (sv = .nan true false ∨ sv = .nan false false → sclOf dst true sv = (0x7FC00000, 1) ∧ sclOf dst false sv = (0xFF, 1)) ∧
    (sclOf dst true (.inf false) = (0x7F800000, 1) ∧ sclOf dst false (.inf false) = (0xFE, 1)) ∧
    (∀ e, sclOf dst true (.fin false 0 e) = (0x3F800000, 0) ∧ sclOf dst false (.fin false 0 e) = (0x7F, 0)) ∧
    (∀ t ∈ [(Fmt.fp8e4, (8 : Int), 896), (.fp8e5, 15, 114688), (.fp6e3, 4, 56), (.fp6e2, 2, 15), (.fp4, 2, 12), (.int8, 6, 254),
        (.uint8, 7, 510), (.int4, 2, 14), (.int3, 1, 6), (.int2, 0, 2)], ∀ k e, k ≠ 0 →
      sclOf t.1 true (.fin false k e) = lane (f32.round false (2 * k) t.2.2 e .rup false) ∧
      ∀ l : Nat, 2 ^ l ≤ k → k < 2 ^ (l + 1) → sclOf t.1 false (.fin false k e) =
        (let z := (l : Int) + e - t.2.1
         if z < -127 then 0 else if 127 < z then 254 else BitVec.ofInt 32 (z + 127), 0))

/-- The special operands of VEXP2, VLOG2, VRCP and VRSQ, an exact reciprocal rounded once, and the exact cases of the other
three: 2 to an integer, the logarithm of a power of 2, the inverse root of a power of 4. At other operands the model rounds
an approximation that it presumes close enough (log entry 34) (R74, R86). -/
def Sys2Proof.Claims.SpecialFunctionValues : Prop :=
  ∀ (f : Fmt) (ff : FloatFmt) (x : Lane), f ∈ [Fmt.fp32, .bf16, .fp16] → f.float = some ff →
    let nan := withSign f false (nanCode f)
    let inf (s : Bool) := withSign f s (infinityCode f)
    let at4 (a b c d : Lane × BitVec 6) : Prop :=
      exp2Lane f .rne x = a ∧ log2Lane f .rne x = b ∧ rcpLane f .rne x = c ∧ rsqLane f .rne x = d
    (∀ s, f.value x = .fin s 0 ff.qmin → at4 (lane (ff.round false 1 1 0 .rne false)) (inf true, 2) (inf s, 2) (inf s, 2)) ∧
    (f.value x = .inf false → at4 (inf false, 0) (inf false, 0) (0, 0) (0, 0)) ∧
    (f.value x = .inf true → at4 (0, 0) (nan, 1) (withSign f true 0, 0) (nan, 1)) ∧
    (∀ g s, f.value x = .nan g s → let r := (nan, if g then 1 else 0); at4 r r r r) ∧
    (∀ k e, k ≠ 0 → f.value x = .fin true k e → log2Lane f .rne x = (nan, 1) ∧ rsqLane f .rne x = (nan, 1)) ∧
    (∀ s k e, k ≠ 0 → f.value x = .fin s k e → rcpLane f .rne x = lane (ff.round s 1 k (-e) .rne false)) ∧
    (∀ s k e i, f.value x = .fin s k e → k ≠ 0 → (fraction k e).1 = i * (fraction k e).2 → i < 2048 →
      exp2Lane f .rne x = lane (ff.round false 1 1 (if s then -(i : Int) else i) .rne false)) ∧
    (∀ (e : Int) (l : Nat), f.value x = .fin false (2 ^ l) e →
      log2Lane f .rne x = lane (ff.round (decide ((l : Int) + e < 0)) ((l : Int) + e).natAbs 1 0 .rne false)) ∧
    (∀ (e : Int) (l : Nat) (j : Int), f.value x = .fin false (2 ^ l) e → (l : Int) + e = 2 * j →
      rsqLane f .rne x = lane (ff.round false 1 1 (-j) .rne false))

/-- The movements inside and between registers: VSEL, VMOV, VBCAST, VEXT, VMASK, VPERM, VCOMP, VXPND, VUNPK, VPACK, VRANK,
VTAB and VCNT write what their entries give; VTAB waits while its table is pending. That VSEL, VMASK, VXPND and VUNPK leave the
payload of an invalid lane as their pseudocode gives it, and not 0, is the model's reading (log entry 16) (R417, R419, R420, R427, R428, R433,
R435, R436). -/
def Sys2Proof.Claims.TokenMovesWrite : Prop :=
  ∀ (c : Guard) (f : Fmt) (tb desc : Bool) (part : BitVec 3) (lane : BitVec 4) (d a b e : VReg) (gd ga : GReg) (s : State),
    Runs .all false c s →
    let A := s.v a
    let B := s.v b
    let count := (lanesOn A).length
    let M (t : Fmt) (n : Instr) (valid : Nat → Bool) (l : Nat → Lane) : Prop := GivesToken n s d A t valid l 0
    let K (n : Instr) (valid : Nat → Bool) (l : Nat → Lane) : Prop := GivesMoved n s d A f valid l
    let kept (i : Nat) : Bool := decide ((i : Int) < (s.g ga).toInt)
    (A.fmt = f.tag → B.fmt = f.tag → K (.vsel c f d a b e) (fun i => if isOn (s.v e) i then isOn A i else isOn B i)
      fun i => if isOn (s.v e) i then el A f i else el B f i) ∧
    GivesV (.vmov c d a) s d A 0 ∧
    GivesToken (.vbcast c f d ga) s d {} f (fun _ => true) (fun _ => (s.g ga).setWidth 32 &&& BitVec.ofNat 32 (2 ^ f.width - 1)) 0 ∧
    GivesG (.vext c gd a lane) s gd
      ((laneOf A.lanes lane.toNat).setWidth 64 + (if isOn A lane.toNat then 0x100000000 else 0)) ∧
    (A.fmt = f.tag → K (.vmask c f d a ga) (fun i => kept i && isOn A i) fun i => if kept i then el A f i else 0) ∧
    (A.fmt = f.tag → B.fmt = 0x13 → M f (.vperm c d a b)
      (fun i => isOn B i && decide ((laneOf B.lanes i).toNat < 16) && isOn A (laneOf B.lanes i).toNat)
      fun i => el A f (laneOf B.lanes i).toNat) ∧
    (A.fmt = f.tag → M f (.vcomp c d a) (fun i => decide (i < count)) fun i => el A f ((lanesOn A).getD i 0)) ∧
    (A.fmt = f.tag → B.fmt ≠ 0 → B.fmt.toNat ≤ 0x14 → K (.vxpnd c d a b) (fun i => isOn B i && isOn A (before B i))
      fun i => if isOn B i then el A f (before B i) else 0) ∧
    (A.fmt = 0x14 → f.width = 16 ∨ f.width = 8 ∨ f.width = 4 → part.toNat < 32 / f.width → K (.vunpk c f part d a)
      (fun i => isOn A ((16 * part.toNat + i) * f.width / 32))
      fun i => (A.lanes >>> ((16 * part.toNat + i) * f.width)).setWidth 32 &&& BitVec.ofNat 32 (2 ^ f.width - 1)) ∧
    (A.fmt = f.tag → (s.v d).fmt = 0x14 ∨ (s.v d).fmt = 0 → f.width = 16 ∨ f.width = 8 ∨ f.width = 4 →
      part.toNat < 32 / f.width → ∃ y, GivesV (.vpack c f part d a) s d y 0 ∧ y.fmt = 0x14 ∧
        (y.lr = A.lr ∧ y.ls = A.ls ∧ y.kind = A.kind ∧ y.tag = A.tag) ∧
        (∀ i, i < 16 → (y.lanes >>> ((16 * part.toNat + i) * f.width)).setWidth 32 &&& BitVec.ofNat 32 (2 ^ f.width - 1) =
          if isOn A i then el A f i else 0) ∧
        (∀ j, j < 16 → 16 * part.toNat * f.width ≤ 32 * j → 32 * j < (16 * part.toNat + 16) * f.width →
          (y.valid.getLsbD j = true ↔ ∀ i, i < 16 → (16 * part.toNat + i) * f.width / 32 = j → isOn A i = true)) ∧
        (∀ j, j < 16 → 32 * j < 16 * part.toNat * f.width ∨ (16 * part.toNat + 16) * f.width ≤ 32 * j →
          laneOf y.lanes j = (if (s.v d).fmt = 0 then 0 else laneOf (s.v d).lanes j) ∧
          y.valid.getLsbD j = ((s.v d).fmt != 0 && isOn (s.v d) j))) ∧
    (A.fmt = f.tag → laneFmt f = true → ∃ order : List Nat, order.Perm (lanesOn A) ∧
      order.Pairwise (fun i j => ranksBefore desc (f.value (el A f i)) (f.value (el A f j)) = true ∨
        (ranksBefore desc (f.value (el A f j)) (f.value (el A f i)) = false ∧ i < j)) ∧
      M .idx32 (.vrank c f desc d a) (fun k => decide (k < count)) fun k => BitVec.ofNat 32 (order.getD k 0)) ∧
    (f = .cb4 ∨ f = .cb3 → A.fmt = f.tag →
      (s.core.tbPend.getLsbD (if tb then 1 else 0) = true → exec (.vtab c tb d a) s = .next s) ∧
      (s.core.tbPend.getLsbD (if tb then 1 else 0) = false → M .bf16 (.vtab c tb d a) (isOn A) fun i =>
        (((if tb then s.core.tb[1] else s.core.tb[0]) >>> (16 * (el A f i).toNat)).setWidth 16).setWidth 32)) ∧
    (A.fmt ≠ 0 → GivesG (.vcnt c gd a) s gd (BitVec.ofNat 64 count))

/-- A v source of another tag raises FORMAT_TAG_MISMATCH before any state changes (R57, R81, R413, R418 to R420, R427, R428,
R433 to R436). -/
def Sys2Proof.Claims.WrongTagTraps : Prop :=
  ∀ (c : Guard) (f : Fmt) (rm : Rm) (k : VCond) (op : RedOp) (u v : Bool) (part : BitVec 3) (d a b e : VReg) (g : GReg)
    (s : State), Runs .all false c s → HasHandler s →
    ((s.v a).fmt ≠ f.tag → ∀ i ∈ [Instr.vadd c f rm d a b, .vsub c f rm d a b, .vmul c f rm d a b, .vfma c f rm d a b e,
      .vmax c f d a b, .vmin c f d a b, .vabs c f d a, .vneg c f d a, .vand c f d a b, .vor c f d a b, .vxor c f d a b,
      .vcmp c f k d a b, .vsel c f d a b e, .vmask c f d a g, .vexp2 c f d a, .vlog2 c f d a, .vrcp c f d a, .vrsq c f d a,
      .vscan c f op u rm d a, .vred c f op rm d a, .vpack c f part d a, .vrank c f u d a], TagTraps i s a f.tag) ∧
    ((s.v a).fmt = f.tag → (s.v b).fmt ≠ f.tag → ∀ i ∈ [Instr.vadd c f rm d a b, .vsub c f rm d a b, .vmul c f rm d a b,
      .vfma c f rm d a b e, .vmax c f d a b, .vmin c f d a b, .vand c f d a b, .vor c f d a b, .vxor c f d a b,
      .vcmp c f k d a b, .vsel c f d a b e], TagTraps i s b f.tag) ∧
    ((s.v a).fmt = f.tag → (s.v b).fmt = f.tag → (s.v e).fmt ≠ f.tag → TagTraps (.vfma c f rm d a b e) s e f.tag) ∧
    ((s.v a).fmt = f.tag → (s.v d).fmt ≠ 0x14 → (s.v d).fmt ≠ 0 → TagTraps (.vpack c f part d a) s d 0x1F) ∧
    ((s.v a).fmt = 0 → ∀ i ∈ [Instr.vperm c d a b, .vcomp c d a, .vxpnd c d a b, .vcnt c g a, .vcvt c f u false rm d a,
      .vqnt c f rm d a b, .vdq c f u rm d a b, .vscl c f u d a, .vtab c v d a], TagTraps i s a 0x1F) ∧
    ((s.v a).fmt ≠ 0x14 → TagTraps (.vunpk c f part d a) s a 0x14) ∧
    ((s.v a).fmt ≠ 0 → (s.v b).fmt ≠ 0x13 → TagTraps (.vperm c d a b) s b 0x13)
end

namespace Sys2Proof.Claims
open Sys2Proof.Machine

/-! ### Vector memory -/

/-- Bytes of an element as R423 counts them. -/
def elBytes (f : Fmt) : Nat := if f.width < 8 then 1 else f.width / 8

/-- The parts of up to 64 bytes at an address, one for each 64-byte block, lower address first: address, bytes, offset
(R220). -/
def blocks (va : Word) (n : Nat) : List (Word × Nat × Nat) :=
  let r := 64 - va.toNat % 64
  if n ≤ r then [(va, n, 0)] else [(va, r, 0), (va + BitVec.ofNat 64 r, n - r, r)]

/-- The parts of the active lanes in ascending order, each with its place 4 i in the payload (R426). -/
def laneBlocks (s : State) (f : Fmt) (base : GReg) (x : Token) (off : BitVec 22) (active : List Nat) :
    List (Word × Nat × Nat) :=
  active.map fun i =>
    (s.g base + off.signExtend 64 + (laneOf x.lanes i).setWidth 64 * BitVec.ofNat 64 (elBytes f), elBytes f, 4 * i)

/-- One access for each checked part stands last in the order buffer, in the order of the parts and with the next numbers;
each is as its part says, and what says of its data. -/
def PartsIssued (s1 : State) (accs : List Access) (ps : List (Spot × Word × Nat × Nat)) (k : AccKind) (o : Ord) (sp : Scope)
    (what : Access → Nat → Nat → Prop) : Prop :=
  ∃ new : List Access, accs = s1.accs ++ new ∧ new.length = ps.length ∧
    ∀ i p va n off a, ps[i]? = some (p, va, n, off) → new[i]? = some a →
      a.id = s1.nextId + i ∧ a.party = .task s1.cur ∧ a.st = .buffered ∧ AccessIs a k va p n o sp ∧ what a off n

/-- From the state s1 after the checks: the instruction has issued accesses and retired, and the registers stand. -/
structure IssuedParts (s1 u : State) (k : Nat) : Prop where
  regs : OthersKept s1 u [] [] [] [] ∧ u.core.fstat = s1.core.fstat ∧ CachesKept s1.core u.core
  retired : Retired s1.core u.core
  count : u.nextId = s1.nextId + k
  rest : u = { s1.setCore u.core with accs := u.accs, nextId := u.nextId }

/-- The load that v register t waits for: one part for each access, at the bit offset of its bytes (R208). -/
def AwaitsV (s1 u : State) (t : VReg) (d : Dest) (ps : List (Spot × Word × Nat × Nat)) : Prop :=
  u.core.pend = dropV s1.core.pend t ++ [⟨d, ps.mapIdx fun i x => (s1.nextId + i, 8 * x.2.2.2), 0⟩]

/-- A well-formed descriptor of a format from its three doublewords: CAPACITY, COUNT, LENGTH, POFF (R292). -/
def descriptor (f : Fmt) (d0 d1 d2 : Word) (cap count len poff : Nat) : Prop :=
  (d0.setWidth 32).toNat = f.tag.toNat ∧ (d2 >>> 32) = 0 ∧ cap = (d0 >>> 32).toNat ∧ count = (d1.setWidth 32).toNat ∧
  len = (d1 >>> 32).toNat ∧ poff = (d2.setWidth 32).toNat ∧ count % 16 = 0 ∧ cap % 2 = 0 ∧ len % 2 = 0 ∧ len ≤ cap ∧
  poff % 2 = 0 ∧ 32 ≤ poff

/-- The lanes of a token that its record holds, the record as a number, and its length, padded to an even one (R293). -/
def present (x : Token) (f : Fmt) : List Nat := (lanesOn x).filter fun i => !f.isZeroLane (el x f i)
def recordNum (x : Token) (f : Fmt) : Nat :=
  ((present x f).map fun i => 2 ^ i).sum +
    ((present x f).mapIdx fun k i => (el x f i).toNat * 2 ^ (16 + 8 * elBytes f * k)).sum
def recordLen (f : Fmt) (k : Nat) : Nat := 2 + elBytes f * k + (elBytes f * k) % 2

/-- The lanes that a record's mask names, and lane i of the token it holds (R296). -/
def maskLanes (mask : Nat) : List Nat := (List.range 16).filter mask.testBit
def recordLane (f : Fmt) (mask vals i : Nat) : Lane :=
  if mask.testBit i then
    BitVec.ofNat 32 (vals / 2 ^ (8 * elBytes f * ((maskLanes mask).filter (· < i)).length) % 2 ^ (8 * elBytes f))
  else 0

/-- The parts in the task's own register slots, ports and element windows, which are read in the turn of the instruction as
LD reads them, and the others. -/
def ownOf (s : State) (ps : List (Spot × Word × Nat × Nat)) : List (Spot × Word × Nat × Nat) :=
  ps.filter fun q => ownSlots s.cur q.1.pa
def othersOf (s : State) (ps : List (Spot × Word × Nat × Nat)) : List (Spot × Word × Nat × Nat) :=
  ps.filter fun q => !ownSlots s.cur q.1.pa

/-- The loads of these parts stand last in the order buffer, or the stores; the instruction waits for them with its word kept
and with these bytes at hand, and nothing else has changed. -/
def AwaitsParts (s1 u : State) (qs : List (Spot × Word × Nat × Nat)) (got : Nat) : Prop :=
  u = { s1.setCore u.core with accs := u.accs, nextId := s1.nextId + qs.length } ∧
  u.core = { s1.core with
    readings := s1.core.readings ++ [⟨qs.mapIdx fun k x => (s1.nextId + k, 8 * x.2.2.2), got⟩], opWord := s1.ir }

/-- The instruction at the pc issues a read of these parts, from the state s1 after their checks, and waits for it; while an
own slot of the task among them cannot be read it issues none (R59, R206). -/
def ReadsOn (i : Instr) (s s1 : State) (ps : List (Spot × Word × Nat × Nat)) (o : Ord) (sp : Scope) : Prop :=
  let ready : Prop := ∀ q ∈ ownOf s1 ps, s1.ownSlotReady (s1.taskAccess .load q.2.1 q.1 q.2.2.1 o sp) = true
  (¬ready → exec i s = .next s) ∧
  (ready → ∃ u, exec i s = .next u ∧ PartsIssued s1 u.accs (othersOf s1 ps) .load o sp (fun _ _ _ => True) ∧
    AwaitsParts s1 u (othersOf s1 ps) ((ownOf s1 ps).foldr (fun q x =>
      (s1.slotRead s1.cur (tileOfPa q.1.pa).2).toNat * 2 ^ (8 * q.2.2.2) ||| x) 0))

end Sys2Proof.Claims

section
open Sys2Proof Sys2Proof.Machine Sys2Proof.Claims

/-- VLD, VST, VLDX and VSTX whose checks pass issue one access for each part or active lane, in order, and retire: loads to
a register that waits for them, stores of the valid lanes' bits only. A VLDX with no active lane writes its invalid result
at once. A failing check of any part faults with the first such address in EVAL, and nothing has been issued
(R220, R423 to R426). -/
def Sys2Proof.Claims.VectorMemoryIssuesParts : Prop :=
  ∀ (c : Guard) (f : Fmt) (o : Ord) (sp : Scope) (t iv : VReg) (base idx : GReg) (off : BitVec 22) (s : State),
    Runs .all false c s →
    let ea := address s base idx (2 * f.width) off
    let parts := blocks ea (2 * f.width)
    let x := s.v iv
    let y := s.v t
    let lanes := laneBlocks s f base x off (lanesOn x)
    let both := laneBlocks s f base x off ((lanesOn x).filter (isOn y))
    let reads := s.checkParts .read (elBytes f) true
    let writes := s.checkParts .write (elBytes f) true
    (∀ ps s1, reads parts = .ok (ps, s1) → ∃ u, exec (.vld c f o sp t base idx off) s = .next u ∧
      IssuedParts s1 u ps.length ∧ PartsIssued s1 u.accs ps .load o sp (fun _ _ _ => True) ∧ AwaitsV s1 u t (.v t f) ps) ∧
    (∀ ps s1, y.fmt = f.tag → writes parts = .ok (ps, s1) → ∃ u, exec (.vst c f o sp t base idx off) s = .next u ∧
      IssuedParts s1 u ps.length ∧ PartsIssued s1 u.accs ps .store o sp (fun a at0 n => ∀ b, b < 8 * n →
        a.mask.getLsbD b = isOn y ((8 * at0 + b) / f.width) ∧
        a.data.getLsbD b = (laneOf y.lanes ((8 * at0 + b) / f.width)).getLsbD ((8 * at0 + b) % f.width))) ∧
    (∀ ps s1, x.fmt = 0x13 → lanesOn x ≠ [] → reads lanes = .ok (ps, s1) →
      ∃ u, exec (.vldx c f o sp t base iv off) s = .next u ∧ IssuedParts s1 u ps.length ∧
        PartsIssued s1 u.accs ps .load o sp (fun _ _ _ => True) ∧ AwaitsV s1 u t (.lanes t f x.valid) ps) ∧
    (x.fmt = 0x13 → lanesOn x = [] →
      GivesToken (.vldx c f o sp t base iv off) s t {} f (fun _ => false) (fun _ => 0) 0) ∧
    (∀ ps s1, x.fmt = 0x13 → y.fmt = f.tag → 8 ≤ f.width → writes both = .ok (ps, s1) →
      ∃ u, exec (.vstx c f o sp t base iv off) s = .next u ∧ IssuedParts s1 u ps.length ∧
        PartsIssued s1 u.accs ps .store o sp (fun a at0 n => ∀ b, b < 8 * n → a.mask.getLsbD b = true ∧
          a.data.getLsbD b = (laneOf y.lanes (at0 / 4)).getLsbD b)) ∧
    (HasHandler s → ∀ cause va, untakable cause = false →
      (reads parts = .error (.trap cause va) → Traps (.vld c f o sp t base idx off) s cause va) ∧
      (y.fmt = f.tag → writes parts = .error (.trap cause va) → Traps (.vst c f o sp t base idx off) s cause va) ∧
      (x.fmt = 0x13 → reads lanes = .error (.trap cause va) → Traps (.vldx c f o sp t base iv off) s cause va) ∧
      (x.fmt = 0x13 → y.fmt = f.tag → writes both = .error (.trap cause va) →
        Traps (.vstx c f o sp t base iv off) s cause va))

/-- VSTZ reads its descriptor, appends the record of its token (mask, the nonzero valid lanes, padding) after LENGTH, then,
once every byte of the record has been performed, COUNT + 16 and the new LENGTH, and writes that to g[IDX]; a record that does
not fit raises SPARSE_OVERRUN; with REL it waits first for the earlier accesses in its scope. VLDZ reads the descriptor, the
mask at its cursor, and the values, which its register awaits, and moves the cursor past the record. These reads are loads of
the task, and the instruction goes on when they have been answered; a descriptor in the task's own register slots is read and
written there in the turn of the instruction. A misaligned descriptor raises MISALIGNED, one that is
not well formed, or a cursor off its records, SPARSE_FORMAT (R59, R206, R292, R293, R295 to R298). -/
def Sys2Proof.Claims.SparseRecordsAreWrittenAndRead : Prop :=
  ∀ (c : Guard) (f : Fmt) (o : Ord) (sp : Scope) (t : VReg) (base idx : GReg) (off : BitVec 22) (s : State),
    Runs .us false c s →
    let d := s.g base + off.signExtend 64
    let x := s.v t
    let st := Instr.vstz c f o sp t base idx off
    let ld := Instr.vldz c f o sp t base idx off
    let free : Prop := o = .rel → ∀ a ∈ s.accs, a.party = .task s.cur → ¬isFence a → s.inScope sp a = true → a.st = .performed
    (HasHandler s → d.toNat % 8 ≠ 0 → Traps st s 0x04 d ∧ Traps ld s 0x04 d) ∧
    (d.toNat % 8 = 0 → s.core.readings = [] →
      (¬free → x.fmt = f.tag → exec st s = .next s) ∧
      ∀ ps s1, s.checkParts .read 8 false [(d, 8, 0), (d + 8, 8, 8), (d + 16, 8, 16)] = .ok (ps, s1) →
        (x.fmt = f.tag → free → ReadsOn st s s1 ps .plain .tile) ∧ ReadsOn ld s s1 ps o sp) ∧
    (∀ r q, s.core.readings = r ++ [q] → q.parts ≠ [] → r.length < 2 → (∀ y ∈ r, y.parts = []) → d.toNat % 8 = 0 →
      (r = [] → x.fmt = f.tag → free → exec st s = .next s) ∧ (r = [] → exec ld s = .next s)) ∧
    (∀ n, d.toNat % 8 = 0 →
      let d0 := BitVec.ofNat 64 n
      let d1 := BitVec.ofNat 64 (n / 2 ^ 64)
      let d2 := BitVec.ofNat 64 (n / 2 ^ 128)
      (HasHandler s → (∀ cap count len poff, ¬descriptor f d0 d1 d2 cap count len poff) → s.core.readings = [⟨[], n⟩] →
        Traps ld s 0x13 d ∧ (x.fmt = f.tag → free → Traps st s 0x13 d)) ∧
      (∀ cap count len poff, descriptor f d0 d1 d2 cap count len poff →
        let k := recordLen f (present x f).length
        let total := len + k
        let cur := (s.g idx).toNat
        let at0 := d + BitVec.ofNat 64 (poff + cur)
        (s.core.readings = [⟨[], n⟩] → x.fmt = f.tag → free →
          (HasHandler s → cap < total → Traps st s 0x12 d) ∧
          (∀ ps s2 q va w z s3, total ≤ cap →
            s.checkParts .write 1 true (blockParts 3 (d + BitVec.ofNat 64 (poff + len)) k 0) = .ok (ps, s2) →
            s2.checkParts .write 8 false [(d + 8, 8, 0)] = .ok ([(q, va, w, z)], s3) →
            let sent (l : List Access) : Prop := PartsIssued s3 l ps .store (if o = .strm then .strm else .plain) .tile
              (fun b at1 m => ∀ i, i < 8 * m → b.mask.getLsbD i = true ∧ b.data.getLsbD i = (recordNum x f).testBit (8 * at1 + i))
            (ownSlots s3.cur q.pa = true → ∃ u, exec st s = .next u ∧ sent u.accs ∧ AwaitsParts s3 u ps 0) ∧
            (ownSlots s3.cur q.pa = false → ∃ u accs a, exec st s = .next u ∧ u.accs = accs ++ [a] ∧ sent accs ∧
              AccessIs a .store va q 8 .plain .tile ∧ a.after = (List.range ps.length).map (s3.nextId + ·) ∧
              a.data = BitVec.ofNat 512 ((count + 16) % 2 ^ 32 + total * 2 ^ 32) ∧
              u.g idx = (if idx = 0 then 0 else BitVec.ofNat 64 total) ∧ OthersKept s3 u [idx] [] [] [] ∧
              Retired s3.core u.core))) ∧
        (∀ ps s2 q va w z s3 m, s.core.readings = [⟨[], n⟩, ⟨[], m⟩] → x.fmt = f.tag → free → total ≤ cap →
          s.checkParts .write 1 true (blockParts 3 (d + BitVec.ofNat 64 (poff + len)) k 0) = .ok (ps, s2) →
          s2.checkParts .write 8 false [(d + 8, 8, 0)] = .ok ([(q, va, w, z)], s3) →
          ownSlots s3.cur q.pa = true → (tileOfPa q.pa).2 < 0x408000 →
          let ready : Prop := s3.core.inflight = [] ∧ s3.core.stepAt = none ∧
            s3.ownSlotReady (s3.taskAccess .store va q 8 .plain .tile) = true
          let t := (s3.slotWrite s3.cur (tileOfPa q.pa).2 (BitVec.ofNat 64 ((count + 16) % 2 ^ 32 + total * 2 ^ 32))).setG
            idx (BitVec.ofNat 64 total)
          (¬ready → exec st s = .next s) ∧ (ready → exec st s = .next (t.setCore t.core.retire))) ∧
        (HasHandler s → s.core.readings = [⟨[], n⟩] → cur % 2 = 1 ∨ len < cur + 2 → Traps ld s 0x13 d) ∧
        (∀ ps s1, s.core.readings = [⟨[], n⟩] → cur % 2 = 0 → cur + 2 ≤ len →
          s.checkParts .read 1 true (blockParts 2 at0 2 0) = .ok (ps, s1) → ReadsOn ld s s1 ps .plain .tile) ∧
        (∀ mask, s.core.readings = [⟨[], n⟩, ⟨[], mask⟩] → cur % 2 = 0 → cur + 2 ≤ len →
          let j := (maskLanes mask).length
          (HasHandler s → len < cur + recordLen f j → Traps ld s 0x13 d) ∧
          (cur + recordLen f j ≤ len → j = 0 → ∃ u, exec ld s = .next u ∧
            TokenIs (u.v t) {} f (fun _ => true) (fun _ => 0) ∧
            u.g idx = (if idx = 0 then 0 else BitVec.ofNat 64 (cur + recordLen f j)) ∧ OthersKept s u [idx] [t] [] [] ∧
            Retired s.core u.core) ∧
          (∀ ps s3, cur + recordLen f j ≤ len → j ≠ 0 →
            s.checkParts .read 1 true (blockParts 3 (at0 + 2) (elBytes f * j) 0) = .ok (ps, s3) →
            ∃ u, exec ld s = .next u ∧ PartsIssued s3 u.accs ps .load .plain .tile (fun _ _ _ => True) ∧
              (let l := dropV s3.core.pend t ++ [⟨.sparse t f mask, ps.mapIdx fun i x => (s3.nextId + i, 8 * x.2.2.2), 0⟩]
               u.core.pend = if idx = 0 then l else dropG l idx) ∧
              u.g idx = (if idx = 0 then 0 else BitVec.ofNat 64 (cur + recordLen f j)) ∧ OthersKept s3 u [idx] [] [] [] ∧
              Retired s3.core u.core))))

/-- The last reply that a register waits for writes it: a packed token, the lanes of VLDX, the record of VLDZ, the elements of
ALD, the predicate of TPRED. An earlier one adds its bytes, and writes nothing; so does one that an instruction at the pc
reads (R107, R108, R206, R208, R293, R296, R424, R426). -/
def Sys2Proof.Claims.RepliesWriteTokensAndTiles : Prop :=
  ∀ (s : State) (l r : List Access) (x : Access) (p q : List Pending) (dest : Dest) (rest : List (Nat × Nat)) (o got : Nat),
    Among s l x r → x.st = .performed → x.party = .task s.cur → s.core.owner = some (x.vd, x.gen) →
    (∀ b ∈ l ++ r, b.st = .performed → OneQueue b x → x.seq ≤ b.seq) →
    s.core.pend = p ++ ⟨dest, (x.id, o) :: rest, got⟩ :: q → (∀ y ∈ p ++ q, ∀ z ∈ y.parts, z.1 ≠ x.id) →
    (∀ y ∈ p ++ q, y.parts ≠ []) → (∀ z ∈ rest, z.1 ≠ x.id) →
    let n := got ||| (x.val.toNat % 2 ^ (8 * x.size)) * 2 ^ o
    let bitsAt (i w : Nat) : Lane := BitVec.ofNat 32 (n / 2 ^ (i * w) % 2 ^ w)
    ∃ t, exec (.accessReply x.id) s = .next t ∧ t = { s.setCore t.core with accs := l ++ r } ∧ t.core.pc = s.core.pc ∧
      t.core.fstat = s.core.fstat ∧ SystemKept s.core t.core ∧
      (rest ≠ [] → t.core.pend = p ++ ⟨dest, rest, n⟩ :: q ∧ OthersKept s t [] [] [] []) ∧
      (rest = [] → t.core.pend.length = (p ++ q).length ∧
        (∀ d f, dest = .v d f → OthersKept s t [] [d] [] [] ∧
          TokenIs (t.v d) {} f (fun _ => true) fun i => bitsAt i f.width) ∧
        (∀ d f valid, dest = .lanes d f valid → OthersKept s t [] [d] [] [] ∧
          TokenIs (t.v d) {} f (fun i => valid.getLsbD i) fun i => bitsAt i 32 &&& BitVec.ofNat 32 (2 ^ f.width - 1)) ∧
        (∀ d f mask, dest = .sparse d f mask → OthersKept s t [] [d] [] [] ∧
          TokenIs (t.v d) {} f (fun _ => true) (recordLane f mask n)) ∧
        (∀ d m k, dest = .acc d m k → m ≤ 16 → k ≤ 16 → OthersKept s t [] [] [] [d] ∧ (t.core.rdA d).v = true ∧
          (t.core.rdA d).d = true ∧ ∀ i j, i < 16 → j < 16 → (t.core.rdA d).el[16 * i + j]? =
            if i < m ∧ j < k then some (bitsAt (i * k + j) 32) else (s.core.rdA d).el[16 * i + j]?) ∧
        (∀ d f k, dest = .pred d f k → OthersKept s t [] [] [d] [] ∧
          t.p d = ((d == 0) || (s.p d && (List.range k).all fun i => f.isZeroLane (bitsAt i f.width))))) ∧
      ∀ (i : Nat) (y : Reading), s.core.readings[i]? = some y → ∃ z : Reading, t.core.readings[i]? = some z ∧
        ((∀ w ∈ y.parts, w.1 ≠ x.id) → z = y) ∧
        (∀ w v, y.parts = (x.id, w) :: v → (∀ u ∈ v, u.1 ≠ x.id) →
          z = ⟨v, y.got ||| (x.val.toNat % 2 ^ (8 * x.size)) * 2 ^ w⟩)
end

namespace Sys2Proof.Claims
open Sys2Proof.Machine

/-! ### Core ports and elements of the fabric -/

/-- The TAG with which a token passes the entry port (exit = false) or the exit port of a crown tile whose table is on:
BLK * 16 + TAG mod 16 of the valid entry TAG div 16; none for an entry that is not valid. Elsewhere, and for MARK and
PARAM, the TAG stays (R177, R178). -/
def passTag (s : State) (exit : Bool) (x : Token) : Option (BitVec 12) :=
  match s.regionAt s.cur >>= s.region with
  | none => some x.tag
  | some r =>
    if r.crown = s.cur ∧ r.btCtl.getLsbD (if exit then 1 else 0) = true ∧ (x.kind = .data ∨ x.kind = .bubble) then
      let e := ((if exit then r.exitTab else r.entryTab) >>> (16 * (x.tag.toNat / 16))).setWidth 16
      if e.getLsbD 15 then some (BitVec.ofNat 12 ((e.setWidth 8).toNat * 16 + x.tag.toNat % 16)) else none
    else some x.tag

/-- The instruction has written the g and v registers named, the fabric and perhaps tag counts of its region; the core goes
on or stays as said elsewhere, and memory and accesses stand. -/
structure PortMove (s t : State) (g : List GReg) (v : List VReg) : Prop where
  regs : OthersKept s t g v [] [] ∧ t.core.fstat = s.core.fstat ∧ CachesKept s.core t.core
  rest : t.mem = s.mem ∧ t.accs = s.accs ∧ t.cur = s.cur ∧ t.vds = s.vds ∧ t.regions.length = s.regions.length
  ports : ∃ i o, t.tile.fab = { s.tile.fab with inQ := i, outQ := o }

/-- VPUSH waits for room, for fences of the task, and while the region's pushes stall; a flush marker also from the request
of a pre-emption on (R244, R380, R431, R432). -/
def mayPush (s : State) (port : Fin 8) (tok : Token) : Prop :=
  s.tile.fab.outQ[port].length < 8 ∧ (∀ a ∈ s.accs, a.party = .task s.cur → ¬isFence a) ∧
  ∀ r x, s.regionAt s.cur = some r → s.region r = some x → x.marked = false ∧ (tok.kind = .mark → x.stop = .no)

/-- The tag after a boundary, on a port that has one. -/
def tagAt (s : State) (exit : Bool) (port : Fin 8) (x : Token) : Option (BitVec 12) :=
  if port = 7 then passTag s exit x else some x.tag

/-- The token that VPUSH sends before any translation; neither a BUBBLE nor a MARK carries a value (R114, R379, R431). -/
def sends (s : State) (x : VG) (lr ls : Bool) : Token :=
  let t : Token := match x with
    | .v r => s.v r
    | .g r => { lanes := (s.g r).setWidth 512, valid := 3, fmt := 0x14 }
  let bare : Bool := decide (t.kind = .bubble ∨ t.kind = .mark)
  { t with
    lr := t.lr || lr || decide (t.kind = .bubble), ls := t.ls || ls, own := false, pm := false
    valid := if bare then 0 else t.valid, lanes := if bare then 0 else t.lanes, fmt := if t.kind = .mark then 0 else t.fmt }

/-- The write that a PARAM token of a slot asks for (R147). -/
def asks (t : Token) : Nat × BitVec 32 := ((laneOf t.lanes 0).toNat, laneOf t.lanes 1)
/-- A PARAM token that a slot accepts (R147). -/
def asksWell (t : Token) : Prop := t.kind = .param ∧ (laneOf t.lanes 0).toNat ≤ 6
/-- A SCORE slot whose parameters come with its segments (R154). -/
def segmented (x : Slot) : Prop := slotKind x.frame = 2 ∧ ((x.reg 0) >>> 16).setWidth 2 = (2 : BitVec 2)

/-- The element address in w names an element of a region of that shape: row in [13:8], column in [5:0], class in [17:16],
index in [19:18], parameter in [26:24], other bits 0 (R374). -/
def elementAddr (x : Region) (w : Word) : Prop :=
  w &&& 0xFFFFFFFFF8F0C0C0 = 0 ∧ ((w >>> 8).setWidth 6).toNat < x.h ∧ (w.setWidth 6).toNat < x.w
def elCls (w : Word) : Nat := ((w >>> 16).setWidth 2).toNat
def elIx (w : Word) : Nat := ((w >>> 18).setWidth 2).toNat
def elPar (w : Word) : Nat := ((w >>> 24).setWidth 3).toNat
def elTile (x : Region) (w : Word) : Nat := x.crown + ((w >>> 8).setWidth 6).toNat * 64 + (w.setWidth 6).toNat

/-- Bits [lo, lo + n) of a frame. -/
def fld (f : BitVec 256) (lo n : Nat) : Nat := (f.extractLsb' lo n).toNat
/-- Column, row, class and index of a frame (R132). -/
def placeOf (f : BitVec 256) : Nat × Nat × Nat × Nat := (fld f 250 6, fld f 244 6, fld f 242 2, fld f 240 2)
/-- A filter entry that the loader takes (R121). -/
def entryOk (e : Nat) : Prop :=
  let op := e / 256
  let arg := e % 256
  (op = 0 ∧ arg = 0) ∨ (op = 1 ∧ 1 ≤ arg / 8 ∧ arg / 8 ≤ 16 ∧ arg / 8 ≠ 9 ∧ arg % 8 ≤ 4) ∨
  ((op = 2 ∨ op = 3 ∨ op = 5) ∧ arg = 0) ∨ (op = 4 ∧ arg < 16)
/-- The frame of the image at the same tile with this class and index, all zero when there is none. -/
def beside (fs : List (BitVec 256)) (f : BitVec 256) (cls ix : Nat) : BitVec 256 :=
  (fs.find? fun g => placeOf g == (fld f 250 6, fld f 244 6, cls, ix)).getD 0
/-- Both halves of a generator fit (R135). -/
def halvesOk (f0 f1 : BitVec 256) : Prop :=
  (if fld f0 234 2 = 1 then fld f1 112 16 ≠ 0 else fld f1 112 16 = 0) ∧ fld f1 0 112 = 0 ∧
  (fld f0 238 2 < 2 → fld f1 216 24 = 0 ∧ fld f1 184 32 = 0) ∧ (fld f0 238 2 < 3 → fld f1 160 24 = 0 ∧ fld f1 128 32 = 0)
/-- A frame is valid in its fields: a parameter set that its kind takes (R145, R147; frameKindOk), or the fields of R134
to R136. -/
def frameValid (fs : List (BitVec 256)) (f : BitVec 256) : Prop :=
  let mode := fld f 236 4
  let ord := fld f 225 3
  let ix := fld f 240 2
  (fld f 242 2 = 0 → frameKindOk f (fun j => f.extractLsb' (32 * j) 32) = true) ∧
  (fld f 242 2 = 1 → mode ≤ 4 ∧ (if mode = 2 ∨ mode = 3 then 1 ≤ fld f 228 5 ∧ fld f 228 5 ≤ 0x14 else fld f 228 5 = 0) ∧
    (ord = 0 ∨ (ord = 1 ∧ mode = 2) ∨ (ord = 2 ∧ mode = 3)) ∧ fld f 195 20 % 128 = 0 ∧
    fld f 195 20 + 128 * fld f 181 14 ≤ 0x100000 ∧ fld f 0 181 = 0) ∧
  (fld f 242 2 = 2 → (ix < 2 → ∀ k, k < 8 → fld f (234 - 30 * k) 6 ≤ 42 ∧ entryOk (fld f (222 - 30 * k) 12) ∧
      entryOk (fld f (210 - 30 * k) 12)) ∧
    (ix = 2 → (∀ j, j < 20 → fld f (234 - 6 * j) 6 ≤ 42) ∧ fld f 0 120 = 0) ∧
    (ix = 3 → (∀ j, j < 26 → fld f (234 - 6 * j) 6 ≤ 42) ∧ (∀ j, j < 9 → fld f (64 - 4 * j) 4 ≤ 8) ∧ fld f 0 32 = 0)) ∧
  (fld f 242 2 = 3 → if ix % 2 = 0
    then fld f 234 2 ≠ 3 ∧ (fld f 234 2 = 2 → f.getLsbD 236 = true) ∧ fld f 224 10 = 0 ∧ fld f 0 64 = 0 ∧
      (fld f 238 2 < 1 → fld f 96 24 = 0 ∧ fld f 64 32 = 0) ∧
      ((∀ g ∈ fs, placeOf g ≠ (fld f 250 6, fld f 244 6, 3, ix + 1)) → halvesOk f 0)
    else halvesOk (beside fs f 3 (ix - 1)) f)
/-- Every enabled input of the frame's element has a source in the switch frames of its tile (R136, R137). -/
def inputsSourced (fs : List (BitVec 256)) (f : BitVec 256) : Prop :=
  let ix := fld f 240 2
  let mode := fld f 236 4
  let two := beside fs f 2 2
  let three := beside fs f 2 3
  (fld f 242 2 = 0 → (∀ i, i < 4 → f.getLsbD (232 + i) = true → fld two (234 - 6 * (4 * ix + i)) 6 ≠ 0) ∧
    (f.getLsbD 229 = true → fld three (64 - 4 * (4 + ix)) 4 ≠ 0)) ∧
  (fld f 242 2 = 1 → (mode = 1 ∨ mode = 3 ∨ mode = 4 → fld three (234 - 24 * ix) 6 ≠ 0) ∧
    (mode = 2 ∨ mode = 3 → fld three (228 - 24 * ix) 6 ≠ 0) ∧
    (mode ≠ 0 → f.getLsbD 234 = true → fld three (222 - 24 * ix) 6 ≠ 0) ∧
    (mode ≠ 0 → f.getLsbD 235 = true → fld three (216 - 24 * ix) 6 ≠ 0)) ∧
  (fld f 242 2 = 3 → ix % 2 = 0 → f.getLsbD 237 = true → f.getLsbD 236 = true → fld three (138 - 6 * (ix / 2)) 6 ≠ 0)

/-- The tile in focus lies in region r, which is placed. -/
def InRegion (s : State) (r : Nat) (x : Region) : Prop :=
  s.regionAt s.cur = some r ∧ s.region r = some x ∧ x.place.isSome = true

/-- A slot's parameter register may take the value with the others as they stand (R147). -/
def setOk (y : Slot) (i : Nat) (v : BitVec 32) : Prop :=
  frameKindOk y.frame (fun j => if j = i then v else y.reg j) = true

end Sys2Proof.Claims

section
open Sys2Proof Sys2Proof.Machine Sys2Proof.Claims

/-- The ports of a core. An unbound one raises PORT with its number. VPOP takes the head, whole or its low 64 bits; VPUSH
appends its token, LR and LS merged; tags pass the boundary tables of R178, whose invalid entry raises PORT; MARK appends
a flush marker; DRAIN takes one token a turn, counts it in g[D], and retires at LS. An empty port keeps VPOP and DRAIN
waiting, and so does a pre-emption marker at the head; a full port, a fence or a stall keeps VPUSH and MARK waiting (R114,
R124, R177, R178, R244, R366, R378, R379, R429, R431, R432). -/
def Obligations.CorePortsMoveTokens : Prop :=
  ∀ (c : Guard) (port : Fin 8) (r : VReg) (g : GReg) (x : VG) (lr ls : Bool) (s : State), Runs .us false c s →
    let fab := s.tile.fab
    let pops := [Instr.vpop c (.v r) port, .vpop c (.g g) port, .drain c g port]
    let pushes := [Instr.vpush c x lr ls port, .mark c port]
    let out := sends s x lr ls
    (HasHandler s →
      (fab.bound port.val = false → ∀ i ∈ pops, Traps i s 0x17 (BitVec.ofNat 64 port.val)) ∧
      (fab.bound (8 + port.val) = false → ∀ i ∈ pushes, Traps i s 0x17 (BitVec.ofNat 64 (8 + port.val))) ∧
      (∀ tok rest, fab.bound port.val = true → fab.inQ[port] = tok :: rest → tagAt s true port tok = none →
        ∀ i ∈ [Instr.vpop c (.v r) port, .vpop c (.g g) port],
          Traps i s 0x17 (BitVec.ofNat 64 (tok.tag.toNat + 4096))) ∧
      (fab.bound (8 + port.val) = true → tagAt s false port out = none →
        Traps (.vpush c x lr ls port) s 0x17 (BitVec.ofNat 64 out.tag.toNat))) ∧
    (fab.bound port.val = true → fab.inQ[port] = [] → ∀ i ∈ pops, exec i s = .next s) ∧
    (∀ tok rest, fab.bound port.val = true → fab.inQ[port] = tok :: rest → tok.kind = .mark → tok.pm = true →
      ∀ i ∈ pops, exec i s = .next s) ∧
    (∀ tok rest, fab.bound port.val = true → fab.inQ[port] = tok :: rest → ¬(tok.kind = .mark ∧ tok.pm = true) →
      (∀ tag, tagAt s true port tok = some tag →
        (∃ t, exec (.vpop c (.v r) port) s = .next t ∧ t.v r = { tok with tag := tag, own := false, pm := false } ∧
          t.tile.fab = { fab with inQ := fab.inQ.set port rest } ∧ PortMove s t [] [r] ∧ Retired s.core t.core) ∧
        (∃ t, exec (.vpop c (.g g) port) s = .next t ∧ t.g g = (if g = 0 then 0 else tok.lanes.setWidth 64) ∧
          t.tile.fab = { fab with inQ := fab.inQ.set port rest } ∧ PortMove s t [g] [] ∧ Retired s.core t.core)) ∧
      (∃ t, exec (.drain c g port) s = .next t ∧ t.g g = (if g = 0 then 0 else s.g g + 1) ∧
        t.tile.fab = { fab with inQ := fab.inQ.set port rest } ∧ PortMove s t [g] [] ∧
        (tok.ls = true → Retired s.core t.core) ∧ (tok.ls = false → t.core.pc = s.core.pc))) ∧
    (fab.bound (8 + port.val) = true →
      (∀ tag, tagAt s false port out = some tag → ¬mayPush s port out → exec (.vpush c x lr ls port) s = .next s) ∧
      (¬mayPush s port { kind := .mark } → exec (.mark c port) s = .next s) ∧
      (∀ tag, tagAt s false port out = some tag → mayPush s port out → ∃ t, exec (.vpush c x lr ls port) s = .next t ∧
        t.tile.fab = { fab with outQ := fab.outQ.set port (fab.outQ[port] ++ [{ out with tag := tag }]) } ∧
        PortMove s t [] [] ∧ Retired s.core t.core) ∧
      (mayPush s port { kind := .mark } → ∃ t, exec (.mark c port) s = .next t ∧
        t.tile.fab = { fab with outQ := fab.outQ.set port (fab.outQ[port] ++ [{ kind := .mark }]) } ∧
        PortMove s t [] [] ∧ Retired s.core t.core))

/-- PARW sets a parameter of an idle slot or of a generator between rounds, PARW.DEF appends the write to those that wait
for the next boundary, after those of the PARAM tokens that have reached the element, PARR reads the value, KILL enters a range
in the queue of a slot's control input and names its tags, THRD reads the core's threshold pair and THRD.K takes its oldest
kill, or 0. A bad element address raises FABRIC with reason 4 (R374, R375, R385 to R387, R409). That a kill is queued at an
idle operator, where a PARAM carries its number and value, and EVAL of a failing PARR are the model's choice (log entries 42,
47, 51). -/
def Obligations.ElementsAreReadAndWritten : Prop :=
  ∀ (c : Guard) (d a : GReg) (s : State) (r : Nat) (x : Region), Runs .us false c s → InRegion s r x →
    let w := s.g d
    let v := s.g a
    let t := elTile x w
    let sl := (s.tileAt t).fab.slot (elIx w)
    let ag := (s.tileAt t).fab.ag (elIx w)
    let Did (i : Instr) (f : Fabric → Fabric) : Prop :=
      ∃ u, exec i s = .next u ∧ (u.tileAt t).fab = f (s.tileAt t).fab ∧ OthersKept s u [] [] [] [] ∧ Retired s.core u.core ∧
        u.mem = s.mem ∧ u.accs = s.accs ∧ ∀ q, q ≠ t → (u.tileAt q).fab = (s.tileAt q).fab
    (HasHandler s → ¬elementAddr x w → ∀ i ∈ [Instr.parw c d a, .parwDef c d a, .kill c d a, .parr c a d],
      Traps i s 0x19 (BitVec.ofNat 64 (4 * 0x1000000) ||| (w &&& 0xFFFFF))) ∧
    (elementAddr x w → elCls w = 0 → sl.on = true →
      (elPar w < 7 → v >>> 32 = 0 → sl.valueOk (elPar w) (v.setWidth 32) = true →
        (sl.idle = true → setOk sl (elPar w) (v.setWidth 32) → Did (.parw c d a) fun f => f.updSlot (elIx w) fun y =>
          { y with p := y.p.setIfInBounds (elPar w) (v.setWidth 32) }) ∧
        (∀ l rest, sl.par = l ++ rest → (∀ z ∈ l, asksWell z) → (segmented sl → l = []) →
          (¬segmented sl → ∀ z, rest.head? = some z → ¬asksWell z) →
          Did (.parwDef c d a) fun f => f.updSlot (elIx w) fun y =>
            { y with par := rest, due := y.due ++ l.map asks ++ [(elPar w, v.setWidth 32)] })) ∧
      (elPar w < 7 → GivesG (.parr c a d) s a ((sl.reg (elPar w)).setWidth 64)) ∧
      (elPar w = 0 → takesKill sl.frame = true → v &&& 0xFFFFFFFFF000F000 = 0 →
        (v.setWidth 12).toNat ≤ ((v >>> 16).setWidth 12).toNat → sl.ctl.kills.length < 8 →
        ∃ u, exec (.kill c d a) s = .next u ∧ ((u.tileAt t).fab.slot (elIx w)).ctl.kills =
            sl.ctl.kills ++ [((v.setWidth 12).toNat, ((v >>> 16).setWidth 12).toNat)] ∧
          (∃ y, u.region r = some y ∧ y.tagKilled = x.tagKilled ++ [((v.setWidth 12).toNat, ((v >>> 16).setWidth 12).toNat)]) ∧
          OthersKept s u [] [] [] [] ∧ Retired s.core u.core ∧ u.mem = s.mem ∧ u.accs = s.accs)) ∧
    (elementAddr x w → elCls w = 3 → elIx w < 2 → elPar w < 5 → ag.on = true →
      (ag.valueOk (elPar w) v = true →
        (ag.running = false → Did (.parw c d a) fun f => f.updAg (elIx w) fun y => y.put (elPar w) v) ∧
        (Did (.parwDef c d a) fun f => f.updAg (elIx w) fun y =>
          { y.gather y.par.length with due := (y.gather y.par.length).due ++ [(elPar w, v)] })) ∧
      GivesG (.parr c a d) s a (if elPar w = 0 then ag.base.setWidth 64 else (ag.ext[elPar w - 1]?.getD 0).setWidth 64)) ∧
    (s.tile.fab.ctlSource 8 ≠ 0 →
      GivesG (.thrd c d) s d (BitVec.ofNat 64 (s.tile.fab.ctl.tag.toNat * 0x100000000 + s.tile.fab.ctl.score.toNat)) ∧
      (s.tile.fab.ctl.kills = [] → GivesG (.thrdK c d) s d 0) ∧
      (∀ lo hi rest, s.tile.fab.ctl.kills = (lo, hi) :: rest → ∃ u, exec (.thrdK c d) s = .next u ∧
        u.g d = (if d = 0 then 0 else BitVec.ofNat 64 (0x8000000000000000 + hi * 0x10000 + lo)) ∧
        u.tile.fab.ctl.kills = rest ∧ OthersKept s u [d] [] [] [] ∧ Retired s.core u.core ∧ u.mem = s.mem))

/-- The region's configuration. QWAIT writes the quiet bit and the bout count in [31:16]; QWAIT.W waits for quiet. CFG of a
quiet region on its crown installs an image whose checks pass: elements as its frames say, the bout count one higher, tags
as new; address 0 turns every element off; another tile raises FABRIC, a misaligned image MISALIGNED, a refused one
CONFIG_REFUSED with its reason and frame, after the whole image has been read. A CFG that waited is installed by the device;
the tree reports when the region is quiet. That reading and installing are one turn (log entry 45), and that quiet means
reported and so now (log entry 46), is the model's choice (R137, R139, R141, R142, R144, R173). -/
def Sys2Proof.Claims.ConfigurationRuns : Prop :=
  (∀ (c : Guard) (g : GReg) (s : State) (r : Nat) (x : Region), Runs .us false c s → InRegion s r x →
    let va := s.g g
    let quiet : Prop := x.quiet = true ∧ s.quietNow r = true
    let calm : Prop := ∀ a ∈ s.accs, a.party ≠ .task s.cur
    let Installed (s2 u : State) (image : Word) (tags : Nat) (fs : List (BitVec 256)) : Prop :=
      (∀ q ∈ x.tilesOf, (u.tileAt q).fab = buildFabric fs (x.offOf q % 64) (x.offOf q / 64)) ∧
      (∃ y, u.region r = some y ∧ y.bouts = x.bouts + 1 ∧ y.curImage = image ∧ y.curTags = tags ∧ y.tagHeld = [] ∧
        y.tagKilled = [] ∧ y.place = x.place ∧ y.st = x.st) ∧
      OthersKept s2 u [] [] [] [] ∧ Retired s2.core u.core ∧ u.mem = s2.mem ∧ u.accs = s2.accs
    (quiet → GivesG (.qwait c g) s g (BitVec.ofNat 64 (1 + x.bouts.toNat * 65536)) ∧
      GivesG (.qwaitW c g) s g (BitVec.ofNat 64 (1 + x.bouts.toNat * 65536))) ∧
    (¬quiet → GivesG (.qwait c g) s g (BitVec.ofNat 64 (x.bouts.toNat * 65536)) ∧ exec (.qwaitW c g) s = .next s) ∧
    (HasHandler s → x.crown ≠ s.cur → Traps (.cfg c g) s 0x19 0) ∧
    (HasHandler s → x.crown = s.cur → va.toNat % 32 ≠ 0 → Traps (.cfg c g) s 0x04 va) ∧
    (x.crown = s.cur → va.toNat % 32 = 0 → ¬(quiet ∧ calm) → exec (.cfg c g) s = .next s) ∧
    (x.crown = s.cur → va.toNat % 32 = 0 → quiet → calm →
      (va = 0 → ∃ u, exec (.cfg c g) s = .next u ∧ Installed s u 0 0 []) ∧
      (∀ cause eval, va ≠ 0 → HasHandler s → s.readFrame va = .error (.trap cause eval) → Traps (.cfg c g) s cause eval) ∧
      (∀ h s1 cause eval, va ≠ 0 → HasHandler s → s.readFrame va = .ok (h, s1) →
        s1.readFrames (va + 32) ((h >>> 200).setWidth 16).toNat = .error (.trap cause eval) →
        Traps (.cfg c g) s cause eval) ∧
      (∀ h s1 fs s2, va ≠ 0 → s.readFrame va = .ok (h, s1) →
        s1.readFrames (va + 32) ((h >>> 200).setWidth 16).toNat = .ok (fs, s2) →
        (HasHandler s → headerOk h = false → Traps (.cfg c g) s 0x18 0x10000) ∧
        (∀ reason frame, HasHandler s → headerOk h = true → loaderCheck x.w x.h x.tags h fs = some (reason, frame) →
          Traps (.cfg c g) s 0x18 (BitVec.ofNat 64 (reason * 65536 + frame))) ∧
        (headerOk h = true → loaderCheck x.w x.h x.tags h fs = none →
          ∃ u, exec (.cfg c g) s = .next u ∧ Installed s2 u va ((h >>> 184).setWidth 16).toNat fs)))) ∧
  (∀ (s : State) (r : Nat) (x : Region) (c : Guard) (g : GReg) (w : Word), s.region r = some x → x.place.isSome = true →
    x.crown = s.cur → s.core.status = .run → (s.core.pc, s.core.fetchUser, w) ∈ s.core.icache →
    (∀ p u z, (p, u, z) ∈ s.core.icache → p = s.core.pc → u = s.core.fetchUser → z = w) → decode w = .ok (.cfg c g) →
    exec (.cfgInstall r) s = exec (.cfg c g) { s with ir := w }) ∧
  (∀ (s : State) (r : Nat) (x : Region), s.region r = some x → ∃ t, exec (.quiescenceReport r) s = .next t ∧
    t.region r = some { x with quiet := s.quietNow r } ∧ (∀ q, q ≠ r → t.region q = s.region q) ∧
    t = { s with regions := t.regions })
/-- What the loader decides of an image whose header is well formed, in the order of its table: the CRC, the shape, the first
frame whose address lies outside or has come before, the first that is not valid in its fields, the first whose element has
an enabled input without a source, the first that names a source that is no enabled output, the rates and depths, the tags.
Which sources are enabled outputs, what R138 finds, and what a kind takes are said by the model's own functions
(R121, R131 to R138, R173). -/
def Sys2Proof.Claims.LoaderDecides : Prop :=
  ∀ (w h tags : Nat) (hd : BitVec 256) (fs : List (BitVec 256)), 0 < w → w ≤ 64 → 0 < h → h ≤ 64 →
    let R := loaderCheck w h tags hd fs
    let First (bad : Nat → BitVec 256 → Prop) (i : Nat) : Prop :=
      (∃ f, fs[i]? = some f ∧ bad i f) ∧ ∀ j, j < i → ∀ f, fs[j]? = some f → ¬bad j f
    let misplaced (i : Nat) (f : BitVec 256) : Prop :=
      w ≤ fld f 250 6 ∨ h ≤ fld f 244 6 ∨ ∃ j g, j < i ∧ fs[j]? = some g ∧ placeOf g = placeOf f
    let crc : Prop := crc32c (fs.flatMap fun f => (List.range 32).map fun i => f.extractLsb' (8 * i) 8) = hd.extractLsb' 136 32
    let shape : Prop := fld hd 224 8 = w ∧ fld hd 216 8 = h
    let named (f : BitVec 256) : Prop := (gridOf fs w h).sourcesOn f = true
    let n := (issuersOf fs w h).length
    (¬crc → R = some (2, 0)) ∧ (crc → ¬shape → R = some (3, 0)) ∧
    (crc → shape → (∀ i, First misplaced i → R = some (4, i + 1)) ∧ ((∀ i f, fs[i]? = some f → ¬misplaced i f) →
      (∀ i, First (fun _ f => ¬frameValid fs f) i → R = some (5, i + 1)) ∧ ((∀ f ∈ fs, frameValid fs f) →
        (∀ i, First (fun _ f => ¬inputsSourced fs f) i → R = some (6, i + 1)) ∧ ((∀ f ∈ fs, inputsSourced fs f) →
          (∀ i, First (fun _ f => ¬named f) i → R = some (6, i + 1)) ∧ ((∀ f ∈ fs, named f) →
            (∀ e, (gridOf fs w h).rateFault = some e → R = some (7, frameNo fs e)) ∧
            ((gridOf fs w h).rateFault = none →
              (tags < fld hd 184 16 ∨ (0 < n ∧ fld hd 184 16 < n) → R = some (8, 0)) ∧
              (fld hd 184 16 ≤ tags → (n = 0 ∨ n ≤ fld hd 184 16) → R = none)))))))
end

namespace Sys2Proof.Claims
open Sys2Proof.Machine

/-! ### Moves of the fabric -/

/-- A move of the fabric of tile t alone: cores, memory, accesses and registers of the device stand; t's fabric is y. -/
structure FabricMove (s u : State) (t : Nat) (y : Fabric) : Prop where
  here : (u.tileAt t).fab = y
  cores : ∀ q, (u.tileAt q).core = (s.tileAt q).core
  others : ∀ q, q ≠ t → (u.tileAt q).fab = (s.tileAt q).fab
  rest : u.mem = s.mem ∧ u.accs = s.accs ∧ u.vds = s.vds ∧ u.threads = s.threads ∧ u.sent = s.sent

/-- A token at an inlet after its delivery: appended, through the two filter entries of an outgoing track (R121); a flush
marker at a parameter input is absorbed (R379). -/
def delivered (x y : Fabric) (i : Inlet) (tok : Token) : Prop :=
  match i with
  | .track k => ∃ l h0 m h1, filterAll (x.filter k 0) (x.track k).hold0 [tok] = .ok (l, h0) ∧
      filterAll (x.filter k 1) (x.track k).hold1 l = .ok (m, h1) ∧
      y.track k = { q := (x.track k).q ++ m, hold0 := h0, hold1 := h1 }
  | .slotPar _ | .agPar _ => y.inletQ i = if tok.kind = .mark ∧ tok.pm = false then x.inletQ i else x.inletQ i ++ [tok]
  | _ => y.inletQ i = x.inletQ i ++ [tok]

/-- The filters of an outgoing track take the token. -/
def filtersTake (x : Fabric) (i : Inlet) (tok : Token) : Prop :=
  ∀ k, i = .track k → ∃ l h0 m h1, filterAll (x.filter k 0) (x.track k).hold0 [tok] = .ok (l, h0) ∧
    filterAll (x.filter k 1) (x.track k).hold1 l = .ok (m, h1)

/-- A lane of these bits counts as zero for ZMASK: the low bits of its tag's width, but the sign of a float, are 0; E8M0 never
does, and an untyped lane by all 32 bits (R108, R121). -/
def zeroFor (tag : BitVec 5) (l : Lane) : Prop :=
  match Fmt.ofTag tag with
  | none => l = 0
  | some .e8m0 => False
  | some f => if f.float.isSome then l.toNat % 2 ^ (f.width - 1) = 0 else l.toNat % 2 ^ f.width = 0
/-- The token differs from x in its lanes alone, which are these, valid as said. -/
def laned (x y : Token) (valid : Nat → Prop) (l : Nat → Lane) : Prop :=
  y = { x with lanes := y.lanes, valid := y.valid } ∧
  ∀ i, i < 16 → (y.valid.getLsbD i = true ↔ valid i) ∧ laneOf y.lanes i = l i

/-- The address of the point at which a generator stands: base plus index times stride for each dimension (R128). -/
def pointAt (y : AddrGen) : Word :=
  ((List.range (agDims y.f0)).map fun d =>
    BitVec.ofNat 64 (y.ix[d]?.getD 0) * (agStride y.f0 y.f1 d).signExtend 64).foldl (· + ·) (y.curBase.setWidth 64)
def lastIn (y : AddrGen) (d : Nat) : Prop := y.ix[d]?.getD 0 + 1 = (y.curExt[d]?.getD 0).toNat

/-- The index of dimension d goes back to 0 at the next point when all inside it do. -/
def carries (y : AddrGen) (d : Nat) : Prop := (y.curExt[d]?.getD 0).toNat ≤ y.ix[d]?.getD 0 + 1

/-- A round as it starts: base and extents with the writes that wait, all indices 0 (R129, R130). -/
def roundOf (x : AddrGen) : AddrGen := if x.running then x else x.start

end Sys2Proof.Claims

section
open Sys2Proof Sys2Proof.Machine Sys2Proof.Claims

/-- A token moves one hop when every live inlet that its source feeds has room: it leaves its outlet and enters each of
them through the filters of the track; otherwise it stays. A THRESH replaces a register that it outranks, a KILL enters a
queue that is not full, else it is dropped (R115, R116, R119 to R122, R136, R166). -/
def Sys2Proof.Claims.TokensMove : Prop :=
  (∀ (s : State) (t src r n : Nat) (o : Outlet), s.firing t = some r → outletOf t src = some (n, o) →
    let x := (s.tileAt t).fab
    let dst := x.fed src
    let q := (s.tileAt n).fab.outletQ o
    (q = [] ∨ dst = [] ∨ s.regionAt n ≠ some r ∨ (∃ i ∈ dst, x.room i = false) → exec (.trackHop t src) s = .next s) ∧
    (∀ tok rest, q = tok :: rest → dst ≠ [] → s.regionAt n = some r → (∀ i ∈ dst, x.room i = true) →
      (∀ i ∈ dst, filtersTake x i tok) →
      ∃ u, exec (.trackHop t src) s = .next u ∧ (u.tileAt n).fab.outletQ o = rest ∧
        (∀ i ∈ dst, delivered x (u.tileAt t).fab i tok) ∧
        (∀ p ∈ x.inlets, p.1 ∉ dst → (u.tileAt t).fab.inletQ p.1 = x.inletQ p.1) ∧
        (∀ z, (u.tileAt z).core = (s.tileAt z).core) ∧ u.mem = s.mem ∧ u.accs = s.accs)) ∧
  (∀ (s : State) (i t k : Nat) (score : BitVec 32) (lo hi : BitVec 12), (s.regionAt t).isSome = true → k < 5 →
    let old := if k < 4 then ((s.tileAt t).fab.slot k).ctl else (s.tileAt t).fab.ctl
    let Becomes (e : Instr) (c : Ctl) : Prop := ∃ u, exec e s = .next u ∧
      (if k < 4 then ((u.tileAt t).fab.slot k).ctl else (u.tileAt t).fab.ctl) = c ∧
      u.ctlFlight = s.ctlFlight.eraseIdx i ∧ u.mem = s.mem ∧ u.accs = s.accs
    (s.ctlFlight[i]? = some (t, k, false, score, lo, hi) → Becomes (.threshArrive i)
      (if ranksAbove score lo old.score old.tag then { old with score := score, tag := lo } else old)) ∧
    (s.ctlFlight[i]? = some (t, k, true, score, lo, hi) → Becomes (.killArrive i)
      (if old.kills.length < 8 then { old with kills := old.kills ++ [(lo.toNat, hi.toNat)] } else old)))

/-- What a filter entry does to DATA tokens, one after the other: nothing (0), CVT with saturation to the target tag (1), CMPCT
of the valid lanes of a row into full tokens (2), TRN16 of a group of 16 (3), LPERM by XOR (4), ZMASK of zeros (5). Other
tokens pass, but that a BUBBLE inside a group of TRN16 raises FABRIC, as do an LR before the 16th token and a second FMT
(reason 10), and a source that VCVT does not take (reason 9). A BUBBLE or PARAM token that meets a CMPCT filter with lanes of
an unfinished row passes: the model's choice (log entry 96) (R82, R121, R150). -/
def Sys2Proof.Claims.FiltersDecide : Prop :=
  ∀ (e : BitVec 12) (hold : List Token),
    let op := (e.extractLsb' 8 4).toNat
    let arg := (e.extractLsb' 0 8).toNat
    let on (x : Token) (i : Nat) : Prop := x.valid.getLsbD i = true
    filterAll e hold [] = .ok ([], hold) ∧
    (∀ x l l1 h1 l2 h2, filterAll e hold [x] = .ok (l1, h1) → filterAll e h1 l = .ok (l2, h2) →
      filterAll e hold (x :: l) = .ok (l1 ++ l2, h2)) ∧
    (∀ x, op = 0 ∨ (x.kind ≠ .data ∧ (op ≠ 3 ∨ x.kind ≠ .bubble ∨ hold = [])) → filterAll e hold [x] = .ok ([x], hold)) ∧
    (op = 1 → ∀ x src dst, x.kind = .data → x.fmt = src.tag → Fmt.ofTag (BitVec.ofNat 5 (arg / 8)) = some dst →
      (src ∈ [Fmt.cb4, .cb3, .idx32, .bits] → filterAll e hold [x] = .error 9) ∧
      (src ∉ [Fmt.cb4, .cb3, .idx32, .bits] → ∃ y, filterAll e hold [x] = .ok ([y], hold) ∧
        laned { x with fmt := dst.tag } y (on x) fun i => if x.valid.getLsbD i then
          (cvtLane src dst (if arg % 8 = 2 then .rtz else if arg % 8 = 3 then .rdn else if arg % 8 = 4 then .rup else .rne)
            true (el x src i)).1 else 0)) ∧
    (op = 2 → ∀ l z, (∀ x ∈ l, x.kind = .data ∧ x.lr = false) → z.kind = .data → z.lr = true →
      let all := (l ++ [z]).flatMap fun x => (lanesOn x).map (laneOf x.lanes)
      let first := (l ++ [z]).headD z
      (all = [] → ∃ y, filterAll e [] (l ++ [z]) = .ok ([y], []) ∧ y.kind = .bubble ∧ y.valid = 0 ∧ y.lr = true ∧ y.ls = z.ls ∧
        y.tag = first.tag ∧ y.fmt = first.fmt) ∧
      (all ≠ [] → ∃ ys, filterAll e [] (l ++ [z]) = .ok (ys, []) ∧ ys.length = (all.length + 15) / 16 ∧
        ∀ k y, ys[k]? = some y → y.kind = .data ∧ y.tag = first.tag ∧ y.fmt = first.fmt ∧
          (y.lr = true ↔ k + 1 = ys.length) ∧ (y.ls = true ↔ k + 1 = ys.length ∧ z.ls = true) ∧
          ∀ i, i < 16 → (on y i ↔ 16 * k + i < all.length) ∧ laneOf y.lanes i = all.getD (16 * k + i) 0)) ∧
    (op = 3 →
      (∀ x, x.kind = .bubble → hold ≠ [] → filterAll e hold [x] = .error 10) ∧
      (∀ x, x.kind = .data → hold.length < 15 → x.lr = true → filterAll e hold [x] = .error 10) ∧
      (∀ x, x.kind = .data → (∃ y ∈ hold, y.fmt ≠ x.fmt) → filterAll e hold [x] = .error 10) ∧
      (∀ l z f, l.length = 15 → (∀ x ∈ l ++ [z], x.kind = .data ∧ x.fmt = f) → (∀ x ∈ l, x.lr = false) →
        ∃ ys, filterAll e [] (l ++ [z]) = .ok (ys, []) ∧ ys.length = 16 ∧
          ∀ i y x, ys[i]? = some y → (l ++ [z])[i]? = some x →
            laned { x with lr := decide (i = 15) && z.lr, ls := decide (i = 15) && z.ls } y
              (fun j => on ((l ++ [z]).getD j {}) i) fun j => laneOf ((l ++ [z]).getD j {}).lanes i)) ∧
    (op = 4 → ∀ x, x.kind = .data → ∃ y, filterAll e hold [x] = .ok ([y], hold) ∧
      laned x y (fun i => on x (i ^^^ (arg % 16))) fun i => laneOf x.lanes (i ^^^ (arg % 16))) ∧
    (op = 5 → ∀ x, x.kind = .data → ∃ y, filterAll e hold [x] = .ok ([y], hold) ∧
      (∀ i, i < 16 → (on x i ∧ zeroFor x.fmt (laneOf x.lanes i) → laneOf y.lanes i = 0) ∧
        (¬(on x i ∧ zeroFor x.fmt (laneOf x.lanes i)) → laneOf y.lanes i = laneOf x.lanes i)) ∧
      laned x y (fun i => on x i ∧ ¬zeroFor x.fmt (laneOf x.lanes i)) fun i => laneOf y.lanes i)

/-- A generator emits the address of its next point when the last has gone: a round of mode 00 has the frame's base and
extents, another those that the writes waiting for it leave; a token of FMT BITS with the address in lanes 0
and 1, LR at the end of the innermost dimension and LS at the end of the nest, where the round ends; an extent of 0 gives
one BUBBLE. A PARAM token joins the writes for its next round, one with a bad selector raises FABRIC (R128 to R130). -/
def Obligations.GeneratorsEmitTheirPoints : Prop :=
  ∀ (s : State) (t a r : Nat), s.firing t = some r → a < 2 →
    let x := (s.tileAt t).fab.ag a
    let y := roundOf x
    let all (p : Nat → Prop) : Prop := ∀ d, d < agDims x.f0 → p d
    x.on = true → x.stopped = false →
    (x.out = [] → (∀ q, s.region r = some q → q.marked = false) → x.running = true ∨ x.mayStart = true →
      (all (fun d => (y.curExt[d]?.getD 0) ≠ 0) →
        ∃ u z tok, exec (.agPoint t a) s = .next u ∧
          FabricMove s u t ((s.tileAt t).fab.updAg a fun _ => z) ∧ z.out = [tok] ∧ tok.fmt = 0x14 ∧ tok.valid = 3 ∧
          (x.running = false → agMode x.f0 = 0 → y.curBase = agBase x.f0 ∧
            ∀ d, d < 4 → y.curExt[d]? = some (agExt x.f0 x.f1 d)) ∧
          (x.running = false → agMode x.f0 ≠ 0 → x.due = [] → y.curBase = x.base ∧ y.curExt = x.ext) ∧
          tok.kind = .data ∧ tok.lanes.setWidth 64 = pointAt y ∧ (tok.lr = true ↔ lastIn y 0) ∧
          (tok.ls = true ↔ all (lastIn y)) ∧ z.curBase = y.curBase ∧ z.curExt = y.curExt ∧
          (all (lastIn y) → z.running = false ∧ z.rounds = x.rounds + 1 ∧ z.ended = (y.ended || y.lastRound)) ∧
          (¬all (lastIn y) → z.running = true ∧ z.rounds = x.rounds ∧
            all fun d => ((∀ e, e < d → carries y e) → carries y d → z.ix[d]?.getD 0 = 0) ∧
              ((∀ e, e < d → carries y e) → ¬carries y d → z.ix[d]?.getD 0 = y.ix[d]?.getD 0 + 1) ∧
              (¬(∀ e, e < d → carries y e) → z.ix[d]?.getD 0 = y.ix[d]?.getD 0))) ∧
      ((∃ d, d < agDims x.f0 ∧ (y.curExt[d]?.getD 0) = 0) →
        ∃ u z, exec (.agPoint t a) s = .next u ∧ FabricMove s u t ((s.tileAt t).fab.updAg a fun _ => z) ∧
          z.out = [{ kind := .bubble, lr := true, ls := true }] ∧ z.running = false ∧ z.rounds = x.rounds + 1)) ∧
    (∀ tok rest, x.par = tok :: rest → tok.kind = .param → x.armed = none →
      let sel := (laneOf tok.lanes 0).toNat
      let val := (tok.lanes >>> 32).setWidth 64
      (sel ≤ agDims x.f0 → ∃ u z, exec (.agParamArrive t a) s = .next u ∧
        FabricMove s u t ((s.tileAt t).fab.updAg a fun _ => z) ∧ z.par = rest ∧ z.due = x.due ++ [(sel, val)] ∧
        z.armed = if agMode x.f0 = 2 ∧ tok.lr = true then some tok.ls else none) ∧
      (4 < sel → exec (.agParamArrive t a) s = .next (s.fabricFault t 3 a 0 3)))

/-- When a wait token counts (log entry 40), which part and level an access names (48), the done tokens of FIFO and spill units
and their credits (84, 91) are the model's choice. A load unit issues the reads of its address token, a store unit the masked writes of its data token, a spill unit the
128 bytes of its token at the next slot of its window; a FIFO unit keeps its tokens in order. A completed access sends the
loaded token with TAG, LR and LS of the address token, and the done token. The tags of the rows that a store or spill ends are
given up when the reply of its request has come. A flush marker at every enabled input goes on alone. The state s0 is s with
the unit as it stands (R125 to R127, R175, R379). -/
def Obligations.MemoryUnitsAccessAndComplete : Prop :=
  ∀ (s : State) (t u r : Nat) (q : Region), s.firing t = some r → s.region r = some q → u < 4 →
    let f := (s.tileAt t).fab
    let y := f.mu u
    let fmt := fmtOf (muFmt y.frame)
    let s0 := s.updFab t fun g => g.updMu u fun _ => y
    let free : Prop := muWait y.frame 0 = false ∧ muWait y.frame 1 = false
    let Issues (k : AccKind) (a : Token) (ends : List Token) (ps : List (Spot × Word × Nat × Nat)) (s1 : State) (data addr : List Token)
        (what : Access → Nat → Nat → Prop) : Prop :=
      ∃ v new, exec (.muAccess t u) s = .next v ∧ v.accs = s1.accs ++ new ∧ new.length = ps.length ∧
        ((v.tileAt t).fab.mu u).busy = y.busy ++ [(ps.mapIdx fun i p => (s1.nextId + i, 8 * p.2.2.2), a, 0, ends)] ∧
        ((v.tileAt t).fab.mu u).data = data ∧ ((v.tileAt t).fab.mu u).addr = addr ∧
        ∀ i p va n off z, ps[i]? = some (p, va, n, off) → new[i]? = some z → z.id = s1.nextId + i ∧
          z.party = .unit t u ∧ z.kind = k ∧ z.pa = p.pa ∧ z.size = n ∧ z.st = .buffered ∧ what z off n
    let packed (d : Token) (f : Fmt) (z : Access) (off n : Nat) : Prop := ∀ b, b < 8 * n →
      z.mask.getLsbD b = isOn d ((8 * off + b) / f.width) ∧
      z.data.getLsbD b = (laneOf d.lanes ((8 * off + b) / f.width)).getLsbD ((8 * off + b) % f.width)
    y.on = true → y.stopped = false →
    (muMode y.frame = 2 → free → ∀ a rest ps s1, y.addr = a :: rest → a.kind = .data →
      s0.unitParts t q.vd .read (elBytes fmt) (blocks (a.lanes.setWidth 64) (2 * fmt.width)) = .ok (ps, s1) →
      Issues .load a [] ps s1 y.data rest fun _ _ _ => True) ∧
    (muMode y.frame = 3 → free → ∀ a rest d drest ps s1, y.addr = a :: rest → y.data = d :: drest → a.kind = .data →
      d.kind = .data → d.fmt = fmt.tag →
      s0.unitParts t q.vd .write (elBytes fmt) (blocks (a.lanes.setWidth 64) (2 * fmt.width)) = .ok (ps, s1) →
      Issues .store a ([a, d].filter Token.lr) ps s1 drest rest (packed d fmt)) ∧
    (muMode y.frame = 4 → free → ∀ d drest, y.data = d :: drest → d.kind ≠ .mark → y.next < muSize y.frame →
      ∃ (v : State) (a b : Access), exec (.muAccess t u) s = .next v ∧ v.accs = s.accs ++ [a, b] ∧
        ((v.tileAt t).fab.mu u).data = drest ∧ ((v.tileAt t).fab.mu u).next = y.next + 1 ∧
        a.pa = windowPa t + muOff y.frame + 128 * y.next ∧ b.pa = a.pa + 64 ∧ a.kind = .store ∧ b.kind = .store ∧
        a.size = 64 ∧ b.size = 64 ∧ a.mask = BitVec.allOnes 512 ∧ a.data = d.lanes ∧ b.data.setWidth 64 = d.meta ∧
        b.data.toNat < 2 ^ 64) ∧
    (muMode y.frame = 1 → free → ∀ d drest, y.data = d :: drest → d.kind ≠ .mark → y.held.length < muSize y.frame →
      ∃ v, exec (.muAccess t u) s = .next v ∧ ((v.tileAt t).fab.mu u).data = drest ∧
        ((v.tileAt t).fab.mu u).out ++ ((v.tileAt t).fab.mu u).held = y.out ++ y.held ++ [d] ∧
        (y.out = [] → y.done = [] → ∃ h, ((v.tileAt t).fab.mu u).out = [h] ∧ ((v.tileAt t).fab.mu u).done =
          if muDoneOn y.frame then [{ fmt := 0x14, lr := h.lr, ls := h.ls }] else [])) ∧
    (∀ l rr z o a val ends rest, Among s l z rr → z.st = .performed → z.party = .unit t u → z.region = some r →
      (∀ b ∈ l ++ rr, b.st = .performed → OneQueue b z → z.seq ≤ b.seq) → y.busy = ([(z.id, o)], a, val, ends) :: rest →
      (∀ b ∈ rest, b.1 ≠ [] ∧ ∀ p ∈ b.1, p.1 ≠ z.id ∧ p.1 ∉ z.merged) →
      ∃ v m, exec (.accessReply z.id) s = .next v ∧ v.accs = l ++ rr ∧
        ((v.tileAt t).fab.mu u).busy = ([], a, m, []) :: rest ∧ v.regions = (s.tagEnds r ends).regions ∧ v.mem = s.mem) ∧
    (∀ a val ends rest, y.busy = ([], a, val, ends) :: rest → y.out = [] → y.done = [] → a.kind = .data →
      ∃ v, exec (.muDone t u) s = .next v ∧ ((v.tileAt t).fab.mu u).busy = rest ∧
        (muMode y.frame = 2 → ∃ tok, ((v.tileAt t).fab.mu u).out = [tok] ∧ tok.lr = a.lr ∧ tok.ls = a.ls ∧ tok.tag = a.tag ∧
          tok.fmt = fmt.tag ∧ tok.valid = 0xFFFF ∧ ∀ i, i < 16 →
            laneOf tok.lanes i = (val >>> (i * fmt.width)).setWidth 32 &&& BitVec.ofNat 32 (2 ^ fmt.width - 1)) ∧
        ((v.tileAt t).fab.mu u).done =
          (if muDoneOn y.frame then [{ fmt := 0x14, lr := a.lr, ls := a.ls }] else [])) ∧
    (∀ w z, z = f.slot w → w < 4 → z.on = true → z.stopped = false → z.outQ 0 = [] → z.outQ 1 = [] → z.inputs ≠ [] →
      (∀ i ∈ z.inputs, ∃ rest, z.inQ i = { kind := .mark } :: rest) → (slotKind z.frame = 3 → z.op.toks = []) →
      ∃ v, exec (.flushMarkerAlign t (.slot w)) s = .next v ∧
        (∀ i ∈ z.inputs, ((v.tileAt t).fab.slot w).inQ i = (z.inQ i).drop 1) ∧
        (∀ o, o < 2 → ((v.tileAt t).fab.slot w).outQ o = if slotOut z.frame o then [{ kind := .mark }] else [])) ∧
    ((∃ j, j < 4 ∧ y.uses j = true) → (∀ j, j < 4 → y.uses j = true → ∃ rest, y.inQ j = { kind := .mark } :: rest) →
      y.busy = [] → y.held = [] → y.out = [] → y.done = [] → ∃ v z, exec (.flushMarkerAlign t (.mu u)) s = .next v ∧
        z = (v.tileAt t).fab.mu u ∧ (∀ j, j < 4 → z.inQ j = (y.inQ j).drop (if y.uses j then 1 else 0)) ∧
        z.out = (if muMode y.frame = 1 ∨ muMode y.frame = 2 then [{ kind := .mark }] else []) ∧
        z.done = if muDoneOn y.frame then [{ kind := .mark }] else [])
end

namespace Sys2Proof.Claims
open Sys2Proof.Machine

/-! ### Operators -/

/-- Slot sl of tile t, x, stands ready as an operator of this kind: its region r runs, it is on, its outputs are empty
(R115, R145). -/
structure OnSlot (s : State) (t sl r kind : Nat) (x : Slot) : Prop where
  region : s.firing t = some r
  slot : sl < 4 ∧ (s.tileAt t).fab.slot sl = x ∧ x.on = true ∧ x.stopped = false ∧ slotKind x.frame = kind
  outs : x.outQ 0 = [] ∧ x.outQ 1 = []

/-- And no parameter write and no kill waits or has been taken, and no row is being dropped (R147, R148). -/
structure MayFire (s : State) (t sl r kind : Nat) (x : Slot) : Prop extends OnSlot s t sl r kind x where
  calm : x.par = [] ∧ x.due = [] ∧ x.ctl.kills = [] ∧ x.op.killed = [] ∧ x.op.dropRow = false

/-- The event answers a next state in which the slot is as said; cores, memory and accesses stand. -/
def Fires (e : Instr) (s : State) (t sl : Nat) (P : Slot → Prop) : Prop :=
  ∃ u, exec e s = .next u ∧ P ((u.tileAt t).fab.slot sl) ∧ (∀ q, (u.tileAt q).core = (s.tileAt q).core) ∧ u.mem = s.mem ∧
    u.accs = s.accs

/-- The tokens at the heads of the inputs: DATA of one format, agreeing in LR and LS (R146). -/
def headsAre (x : Slot) (ins : List Nat) (f : Fmt) (hd : Nat → Token) (tl : Nat → List Token) : Prop :=
  ∀ i ∈ ins, x.inQ i = hd i :: tl i ∧ (hd i).kind = .data ∧ (hd i).fmt = f.tag ∧ (hd i).lr = (hd (ins.headD 0)).lr ∧
    (hd i).ls = (hd (ins.headD 0)).ls

/-- Those heads are gone. -/
def tookHeads (y : Slot) (ins : List Nat) (tl : Nat → List Token) : Prop := ∀ i ∈ ins, y.inQ i = tl i

/-- Bits [lo, lo + n) of a parameter. -/
def pf (x : Slot) (i lo n : Nat) : Nat := ((x.reg i >>> lo).setWidth n).toNat

/-- The rounding field of an operator: 0 and 1 nearest, 2 to zero, 3 down, 4 up (R78, R121). -/
def opMode (n : Nat) : RMode := if n = 2 then .rtz else if n = 3 then .rdn else if n = 4 then .rup else .rne

/-- The operation of PREFIX and REDUCE. -/
def opRed (n : Nat) : RedOp := if n = 0 then .sum else if n = 1 then .max else .min

/-- The running value of a row after the first n lanes of a token (R87, R153). -/
def rowRun (f : Fmt) (op : RedOp) (m : RMode) (start : Lane) (t : Token) (n : Nat) : Lane :=
  (List.range n).foldl (fun r i => if isOn t i then (redStep f op m r (el t f i)).1 else r) start

/-- min(max(x, P1), P2) as MAX and MIN choose, put into the format where it is a bound, and x itself where it is not; for a
P1 and a P2 that are no NaN (R152). -/
def clamped (f : Fmt) (m : RMode) (x : Lane) (lo hi : XVal) : Lane :=
  let v := f.value x
  let low : Bool := v.isNaN || v.ltz lo
  if hi.ltz (if low then lo else v) then (rounds f (hi, false) m).1
  else if low then (rounds f (lo, false) m).1 else x

/-- The result lane of a MAP function (R152). Results of EXP2, RCP and RSQ are those of VEXP2, VRCP and VRSQ. -/
def mapValue (fn : Nat) (f : Fmt) (m : RMode) (p1 p2 : BitVec 32) (x y z : Lane) : Lane :=
  match fn with
  | 1 => if intFmt f then (wraps f (p1 * BitVec.ofInt 32 (f.int x) + p2)).1
    else (rounds f ((fp32 p1).fma (f.value x) (fp32 p2) m) m).1
  | 2 => if intFmt f then (wraps f (x + y)).1 else (rounds f ((f.value x).add (f.value y) m) m).1
  | 3 => if intFmt f then (wraps f (x - y)).1 else (rounds f ((f.value x).add (f.value y).neg m) m).1
  | 4 => if intFmt f then (wraps f (x * y)).1 else (rounds f ((f.value x).mul (f.value y)) m).1
  | 5 => if intFmt f then (wraps f (x * y + z)).1 else (rounds f ((f.value x).fma (f.value y) (f.value z) m) m).1
  | 6 => if intFmt f then (if f.int x < f.int y then y else x) else (pickLane f true x y).1
  | 7 => if intFmt f then (if f.int y < f.int x then y else x) else (pickLane f false x y).1
  | 8 => if intFmt f then intLane f (min (max (f.int x) p1.toInt) p2.toInt) else clamped f m x (fp32 p1) (fp32 p2)
  | 9 => if intFmt f then (if f.int x < 0 then 0 else x) else (pickLane f true x 0).1
  | 10 => (exp2Lane f m x).1
  | 11 => (rcpLane f m x).1
  | 12 => (rsqLane f m x).1
  | _ => x

/-- RERANK: P1 * s + clamp(b, 0, P2), rounded down (R152). -/
def reranked (p1 p2 s b : BitVec 32) : Lane :=
  let v := fp32 b
  let a := if v.isNaN || v.ltz (.fin false 0 0) then .fin false 0 0 else v
  (rounds .fp32 ((fp32 p1).fma (fp32 s) (if (fp32 p2).ltz a then fp32 p2 else a) .rdn) .rdn).1

/-- An element passes the condition of FILTER against P1; a NaN passes only NE (R159). -/
def passes (x : Slot) (f : Fmt) (e : Lane) : Bool :=
  let code := pf x 0 6 3
  let holds (lt gt : Bool) : Bool :=
    match code with
    | 0 => !lt && !gt
    | 1 => lt || gt
    | 2 => lt
    | 3 => !lt
    | 4 => !gt
    | _ => gt
  let p := x.reg 1
  if intFmt f then holds (decide (f.int e < p.toInt)) (decide (p.toInt < f.int e))
  else if f = .uint8 ∨ f = .idx32 then holds (decide (e.toNat < p.toNat)) (decide (p.toNat < e.toNat))
  else if (f.value e).isNaN || (fp32 p).isNaN then code == 1
  else holds ((f.value e).lt (fp32 p)) ((fp32 p).lt (f.value e))

/-- A BUBBLE with the TAG and FMT of a row. -/
def bubbleOf (h : Token) (ls : Bool) : Token :=
  { fmt := h.fmt, tag := h.tag, kind := .bubble, lr := true, ls := ls, own := h.own }

/-- A lane of an exact node's input counts as v at the agreed exponent e, with h spare bits: a float is rounded once to an
integer, ties to even, an INT32 is taken as it is (R88, R161). -/
def countsAs (f : Fmt) (h : Nat) (e : Int) (l : Lane) (v : Int) : Prop :=
  if f = .int32 then v = f.int l
  else ∃ neg m q a, f.value l = .fin neg m q ∧
    integerAt neg (fraction m (q + 29 - h - e)).1 (fraction m (q + 29 - h - e)).2 .rne a ∧ v = if neg then -(a : Int) else a

/-- The weight of a logit x beside the largest m at temperature t, in units of 2^-149: VEXP2 of (x - m) / t * log2 e, that
product rounded once (R163). -/
def weightOf (m t x : XVal) : Nat :=
  match (x.add m.neg .rne).1, t, fp32 0x3FB8AA3B with
  | .fin neg a e, .fin _ b q, .fin _ c k =>
    ((fp32 (exp2Lane .fp32 .rne (BitVec.ofNat 32 (f32.round neg (a * c) b (e + k - q) .rne false).1)).1).at (-149)).toNat
  | _, _, _ => 0

/-- The mixing of SELECT's seed and counter (R163). -/
def mixed (seed counter : BitVec 64) : BitVec 64 :=
  let a := seed + counter * 0x9E3779B97F4A7C15
  let b := (a ^^^ (a >>> 30)) * 0xBF58476D1CE4E5B9
  let c := (b ^^^ (b >>> 27)) * 0x94D049BB133111EB
  c ^^^ (c >>> 31)

/-- Score and tag of a row's first token; an invalid lane 0 ranks as a NaN (R156, R165). -/
def pairOf (t : Token) : BitVec 32 × BitVec 12 := (if isOn t 0 then laneOf t.lanes 0 else 0x7FC00000, t.tag)

end Sys2Proof.Claims

section
open Sys2Proof Sys2Proof.Machine Sys2Proof.Claims

/-- MAP, PREFIX, FILTER, REDUCE in plain mode, QUANT and SELECT in argmax mode consume one token of each input and emit what
their entries give, with LR, LS and TAG of in0; a BUBBLE passes and resets the state of the row; a kill drops the rows it
names. Values of EXP2, RCP and RSQ are those of the token instructions, approximated where log entry 34 says (the model's
choice) (R146, R148, R152, R153, R159, R161 to R163). -/
def Sys2Proof.Claims.OperatorsFire : Prop :=
  ∀ (s : State) (t sl r : Nat) (x : Slot) (f : Fmt) (hd : Nat → Token) (tl : Nat → List Token),
    let h := hd 0
    let m := opMode (pf x 0 5 3)
    let fmt0 := Fmt.ofTag (BitVec.ofNat 5 (pf x 0 0 5)) = some f
    let sent (y : Slot) (P : Token → Prop) : Prop := ∃ z, y.outQ 0 = [z] ∧ P z
    (MayFire s t sl r 0 x → slotOut x.frame 0 = true → fmt0 → laneFmt f = true → x.inputs.headD 1 = 0 → headsAre x x.inputs f hd tl →
      let fn := pf x 0 8 8
      let arg (j i : Nat) : Lane := ((x.inputs.map hd)[j]?.map fun z => el z f i).getD 0
      Fires (.mapFire t sl) s t sl fun y => tookHeads y x.inputs tl ∧ y.op.inRow = !h.lr ∧ y.outQ 1 = [] ∧
        (fn ≠ 13 → (fn = 8 → intFmt f = false → (fp32 (x.reg 1)).isNaN = false ∧ (fp32 (x.reg 2)).isNaN = false) →
          (10 ≤ fn → intFmt f = false) → sent y fun z => z.ls = h.ls ∧ TokenIs z h f (fun i => x.inputs.all fun j => isOn (hd j) i)
          fun i => mapValue fn f m (x.reg 1) (x.reg 2) (arg 0 i) (if 1 < x.inputs.length then arg 1 i else 0)
            (if 2 < x.inputs.length then arg 2 i else 0)) ∧
        (fn = 13 → f = .fp32 → x.inputs.length = 1 → sent y fun z =>
          (∀ i, i < 16 → laneOf z.lanes i = if i = 0 ∧ x.op.inRow = false ∧ isOn h 0 = true ∧ isOn h (pf x 4 0 4) = true
            then reranked (x.reg 1) (x.reg 2) (laneOf h.lanes 0) (laneOf h.lanes (pf x 4 0 4)) else laneOf h.lanes i) ∧
          z.valid = h.valid ∧ z.tag = h.tag ∧ z.lr = h.lr ∧ z.ls = h.ls)) ∧
    (MayFire s t sl r 1 x → slotOut x.frame 0 = true → fmt0 → laneFmt f = true → headsAre x [0] f hd tl →
      let op := opRed (pf x 0 8 2)
      let run := rowRun f op m (if x.op.inRow then x.op.run else identity f op) h
      Fires (.prefixFire t sl) s t sl fun y => tookHeads y [0] tl ∧ y.op.inRow = (!h.lr) ∧ y.op.run = run 16 ∧
        sent y fun z => TokenIs z h f (isOn h) fun i => run (if (x.reg 0).getLsbD 10 then i else i + 1)) ∧
    (MayFire s t sl r 7 x → slotOut x.frame 0 = true → Fmt.ofTag (BitVec.ofNat 5 (pf x 0 9 5)) = some f →
      f ∈ [Fmt.fp32, .bf16, .fp16, .int32, .int16, .int8, .uint8, .idx32] → x.op.inRow = false → headsAre x [0] f hd tl →
      let pass (i : Nat) : Bool := isOn h i && passes x f (el h f i)
      let key := pf x 0 2 4
      let whole := h.lr = true
      Fires (.filterFire t sl) s t sl fun y => tookHeads y [0] tl ∧ y.op.inRow = (!h.lr) ∧
        ((x.reg 0).getLsbD 0 = false →
          (pass key = true → y.outQ 0 = [h]) ∧ (pass key = false → ¬whole → y.outQ 0 = []) ∧
          (pass key = false → whole → (x.reg 0).getLsbD 1 = true → y.outQ 0 = [bubbleOf h h.ls]) ∧
          (pass key = false → whole → (x.reg 0).getLsbD 1 = false → h.ls = false → y.outQ 0 = []) ∧
          (pass key = false → whole → (x.reg 0).getLsbD 1 = false → h.ls = true →
            y.outQ 0 = [{ bubbleOf h true with own := false }])) ∧
        ((x.reg 0).getLsbD 0 = true →
          ((∃ i, i < 16 ∧ pass i = true) → sent y fun z => z.tag = h.tag ∧ z.lr = h.lr ∧ z.ls = h.ls ∧ z.fmt = h.fmt ∧
            ∀ i, i < 16 → z.valid.getLsbD i = pass i ∧ (isOn h i = true → pass i = false → laneOf z.lanes i = 0) ∧
              (pass i = true → laneOf z.lanes i = laneOf h.lanes i)) ∧
          ((∀ i, i < 16 → pass i = false) → whole → y.outQ 0 = [bubbleOf h h.ls]))) ∧
    (MayFire s t sl r 9 x → slotOut x.frame 0 = true → fmt0 → laneFmt f = true → (x.reg 0).getLsbD 10 = false →
      let ins := x.inputs.filter (· < 3)
      ins.headD 0 ∈ ins → headsAre x ins f hd tl →
      let g := hd (ins.headD 0)
      Fires (.reduceFire t sl) s t sl fun y => tookHeads y ins tl ∧ sent y fun z =>
        TokenIs z g f (fun i => ins.all fun j => isOn (hd j) i) fun i =>
          (ins.drop 1).foldl (fun acc j => (redStep f (opRed (pf x 0 8 2)) m acc (el (hd j) f i)).1) (el g f i)) ∧
    (MayFire s t sl r 10 x → slotOut x.frame 0 = true → Fmt.ofTag (BitVec.ofNat 5 (pf x 0 5 5)) = some f →
      x.op.toks = [] → headsAre x [0] f hd tl → (h.lr = true ∨ (x.reg 0).getLsbD 11 = false) →
      ∀ dst, Fmt.ofTag (BitVec.ofNat 5 (pf x 0 0 5)) = some dst →
      let wide := (x.reg 0).getLsbD 10
      let kind : Fmt := if wide then .fp32 else .e8m0
      let sc := (sclOf dst wide ((lanesOn h).foldl (fun z i => z.amax (f.value (el h f i))) (.fin false 0 0))).1
      Fires (.quantFire t sl) s t sl fun y => tookHeads y [0] tl ∧ y.op.toks = [] ∧
        (sent y fun z => TokenIs z h dst (isOn h) fun i =>
          (qntLane f dst (opMode (pf x 0 12 3)) (kind.value sc) (el h f i)).1) ∧
        (slotOut x.frame 1 = true → ∃ z, y.outQ 1 = [z] ∧ TokenIs z h kind (fun i => i == 0) fun _ => sc) ∧
        (slotOut x.frame 1 = false → y.outQ 1 = [])) ∧
    (MayFire s t sl r 11 x → slotOut x.frame 0 = true → Fmt.ofTag (BitVec.ofNat 5 (pf x 0 1 5)) = some f →
      x.op.toks = [] → headsAre x [0] f hd tl → h.lr = true → (x.reg 0).getLsbD 0 = false →
      let ok (i : Nat) : Bool := isOn h i && !(f.value (el h f i)).isNaN
      Fires (.selectFire t sl) s t sl fun y => tookHeads y [0] tl ∧ y.op.toks = [] ∧
        ((∀ i, i < 16 → ok i = false) → y.outQ 0 = [bubbleOf h h.ls]) ∧
        (∀ e, e < 16 → ok e = true → (∀ i, i < 16 → ok i = true → (f.value (el h f e)).lt (f.value (el h f i)) = false) →
          (∀ i, i < e → ok i = true → (f.value (el h f i)).lt (f.value (el h f e)) = true) →
          sent y fun z => TokenIs z h .idx32 (fun i => decide (i < 2)) fun i =>
            if i = 0 then BitVec.ofNat 32 e else el h f e)) ∧
    (∀ e k, (e, k) ∈ [(Instr.mapFire t sl, 0), (.prefixFire t sl, 1), (.filterFire t sl, 7)] → MayFire s t sl r k x →
      x.inputs = [0] → ∀ rest, x.inQ 0 = h :: rest → h.kind = .bubble →
      Fires e s t sl fun y => y.inQ 0 = rest ∧ y.op.inRow = (!h.lr) ∧ (k = 7 → y.op.toks = []) ∧
        y.outQ 0 = if slotOut x.frame 0 then [h] else []) ∧
    (∀ e k, (e, k) ∈ [(Instr.quantFire t sl, 10), (.selectFire t sl, 11)] → MayFire s t sl r k x →
      ∀ rest, x.inQ 0 = h :: rest → h.kind = .bubble →
      Fires e s t sl fun y => y.inQ 0 = rest ∧ y.op.inRow = (!h.lr) ∧ y.op.toks = [] ∧
        (y.outQ 0 = if slotOut x.frame 0 then [h] else []) ∧
        y.outQ 1 = if slotOut x.frame 1 ∧ k = 10 then [h] else []) ∧
    (∀ e k, (e, k) ∈ [(Instr.mapFire t sl, 0), (.prefixFire t sl, 1), (.filterFire t sl, 7)] → OnSlot s t sl r k x →
      x.par = [] → x.due = [] → x.op.inRow = false → takesKill x.frame = true → x.inputs = [0] →
      Fmt.ofTag (BitVec.ofNat 5 (pf x 0 (if k = 7 then 9 else 0) 5)) = some f →
      ∀ rest lo hi, x.ctl.kills = [(lo, hi)] → x.inQ 0 = h :: rest → h.kind = .data → h.fmt = f.tag →
      lo ≤ h.tag.toNat → h.tag.toNat ≤ hi →
      Fires e s t sl fun y => y.inQ 0 = rest ∧ y.outQ 0 = [] ∧ y.ctl.kills = [] ∧ y.op.dropRow = true ∧
        y.op.inRow = !h.lr)
/-- REDUCE in exact mode takes the agreed exponents from in3, then adds its inputs exactly, each float rounded once at its
block's exponent; a node that is no root emits INT32, the root rounds each sum once into its target; a sum outside INT32
raises FABRIC with reason 8, and code 0xFF gives the root the canonical NaN. SELECT in sample mode takes the first element of
the nucleus whose running sum of weights exceeds the drawn share, and counts; with an infinite largest logit the weights
have no value, and which valid element it takes is left open (log entry 5) (R88, R161, R163). -/
def Sys2Proof.Claims.ExactSumsAndSamples : Prop :=
  (∀ (s : State) (t sl r : Nat) (x : Slot) (e : Token) (rest : List Token), MayFire s t sl r 9 x →
    (x.reg 0).getLsbD 10 = true → x.op.exps = none → x.inQ 3 = e :: rest → e.kind = .data → e.fmt = Fmt.e8m0.tag →
    ∀ (hd : Nat → Token) (tl : Nat → List Token) (fm : Nat → Fmt), let ins := x.inputs.filter (· < 3)
    ins ≠ [] → (∀ i ∈ ins, x.inQ i = hd i :: tl i ∧ (hd i).kind = .data ∧ (hd i).fmt = (fm i).tag ∧
      (fm i = .int32 ∨ (fm i ≠ .e8m0 ∧ (fm i).float.isSome = true)) ∧ (hd i).lr = (hd (ins.headD 0)).lr ∧
      (hd i).ls = (hd (ins.headD 0)).ls) →
    Fires (.reduceFire t sl) s t sl fun y => y.inQ 3 = rest ∧ y.op.exps = some e ∧ y.op.count = 0 ∧ y.outQ 0 = [] ∧
      ∀ i ∈ ins, y.inQ i = x.inQ i) ∧
  (∀ (s : State) (t sl r : Nat) (x : Slot) (ex : Token) (hd : Nat → Token) (tl : Nat → List Token) (fm : Nat → Fmt) (h : Nat)
    (term : Nat → Nat → Int), MayFire s t sl r 9 x → slotOut x.frame 0 = true → (x.reg 0).getLsbD 10 = true →
    x.op.exps = some ex → pf x 0 12 9 ≤ 2 ^ h → (h = 0 ∨ 2 ^ (h - 1) < pf x 0 12 9) →
    let ins := x.inputs.filter (· < 3)
    let g := hd (ins.headD 0)
    let k := x.op.count
    let code := (laneOf ex.lanes (k / 2)).toNat % 256
    let e : Int := (code : Int) - 127
    let root := (x.reg 0).getLsbD 11
    let on (i : Nat) : Bool := isOn ex (k / 2) && ins.all fun j => isOn (hd j) i
    let sum (i : Nat) : Int := (ins.map fun j => term j i).sum
    let inside (i : Nat) : Prop := -2147483648 ≤ sum i ∧ sum i ≤ 2147483647
    let Takes (dst : Fmt) (l : Nat → Lane) : Prop := Fires (.reduceFire t sl) s t sl fun y => tookHeads y ins tl ∧
      y.op.exps = (if k = 31 then none else some ex) ∧ y.op.count = (if k = 31 then 0 else k + 1) ∧
      ∃ z, y.outQ 0 = [z] ∧ TokenIs z g dst on l
    ins ≠ [] → k < 32 → (∀ i ∈ ins, x.inQ i = hd i :: tl i ∧ (hd i).kind = .data ∧ (hd i).fmt = (fm i).tag ∧
      (fm i = .int32 ∨ (fm i ≠ .e8m0 ∧ (fm i).float.isSome = true)) ∧ (hd i).lr = g.lr ∧ (hd i).ls = g.ls) →
    (code ≠ 255 → (∀ i, i < 16 → on i = true → ∀ j ∈ ins, countsAs (fm j) h e (el (hd j) (fm j) i) (term j i)) →
      ((∃ i, i < 16 ∧ on i = true ∧ ¬inside i) → exec (.reduceFire t sl) s = .next (s.fabricFault t 0 sl 0 8)) ∧
      ((∀ i, i < 16 → on i = true → inside i) → root = false → Takes .int32 fun i => BitVec.ofInt 32 (sum i)) ∧
      (∀ dst, (∀ i, i < 16 → on i = true → inside i) → root = true → Fmt.ofTag (BitVec.ofNat 5 (pf x 0 0 5)) = some dst →
        dst.float.isSome = true → Takes dst fun i => if sum i = 0 then 0 else
          (rounds dst (.fin (decide (sum i < 0)) (sum i).natAbs (e - 29 + h), false) .rne).1)) ∧
    (∀ dst, code = 255 → root = true → Fmt.ofTag (BitVec.ofNat 5 (pf x 0 0 5)) = some dst →
      dst ∈ [Fmt.fp32, .bf16, .fp8e4, .fp8e5] → Takes dst fun _ => BitVec.ofNat 32 (nanCode dst))) ∧
  (∀ (s : State) (t sl r : Nat) (x : Slot) (f : Fmt) (h : Token) (rest : List Token) (top : Nat), MayFire s t sl r 11 x →
    slotOut x.frame 0 = true → Fmt.ofTag (BitVec.ofNat 5 (pf x 0 1 5)) = some f → x.op.toks = [] → x.inQ 0 = h :: rest →
    h.kind = .data → h.fmt = f.tag → h.lr = true → (x.reg 0).getLsbD 0 = true →
    let val (i : Nat) : XVal := f.value (el h f i)
    let ok (i : Nat) : Prop := i < 16 ∧ isOn h i = true ∧ (val i).isNaN = false
    let Picks (e : Nat) : Prop := Fires (.selectFire t sl) s t sl fun y => y.inQ 0 = rest ∧ y.op.toks = [] ∧
      (y.reg 6 ++ y.reg 5 : BitVec 64) = (x.reg 6 ++ x.reg 5 : BitVec 64) + 1 ∧
      ∃ z, y.outQ 0 = [z] ∧ TokenIs z h .idx32 (fun i => decide (i < 2)) fun i => if i = 0 then BitVec.ofNat 32 e else el h f e
    ok top → (∀ i, ok i → (val top).lt (val i) = false) →
    ((val top).isInf = true → ∃ e, ok e ∧ Picks e) ∧
    ((val top).isInf = false → ∀ (order : List Nat) (n j : Nat) (neg : Bool) (num : Nat) (q : Int),
      let w (i : Nat) : Nat := weightOf (val top) (fp32 (x.reg 1)) (val i)
      let sum (k : Nat) : Nat := ((order.take k).map w).sum
      let share := fraction num q
      let u := ((mixed (x.reg 4 ++ x.reg 3) (x.reg 6 ++ x.reg 5)) >>> 11).toNat
      (∀ i, i ∈ order ↔ ok i) → order.Pairwise (fun a b => w b < w a ∨ (w a = w b ∧ a < b)) →
      fp32 (x.reg 2) = .fin neg num q → 0 < n → n ≤ order.length → share.1 * sum order.length ≤ sum n * share.2 →
      (∀ k, k < n → sum k * share.2 < share.1 * sum order.length) →
      j < n → u * sum n < sum (j + 1) * 2 ^ 53 → (∀ i, i < j → sum (i + 1) * 2 ^ 53 ≤ u * sum n) →
      Picks (order.getD j 0)))
end

namespace Sys2Proof.Claims
open Sys2Proof.Machine

/-! ### Ranked streams -/

/-- Pair a ranks above pair b: higher score, lower tag on equal scores, a NaN score below all (R166). -/
def above (a b : BitVec 32 × BitVec 12) : Prop := ranksAbove a.1 a.2 b.1 b.2 = true

/-- A NaN score, and the place of another among the numbers: sign and magnitude of its FP32 code; both zeros stand at 0. -/
def nanScore (s : BitVec 32) : Prop := 0x7F800000 < (s &&& 0x7FFFFFFF).toNat
def place (s : BitVec 32) : Int := if s.getLsbD 31 then -((s &&& 0x7FFFFFFF).toNat : Int) else (s &&& 0x7FFFFFFF).toNat

/-- The term of element e of a candidate row, for the MODE of SCORE: product, negated squared distance, table entry (R154). -/
def term (s : State) (t : Nat) (x : Slot) (e : Nat) (v : Lane) : XVal :=
  let word (off : Nat) : XVal := fp32 (BitVec.ofNat 32 (valueAt s.mem (windowPa t + off) 4))
  let f := (Fmt.ofTag (BitVec.ofNat 5 (pf x 0 0 5))).getD .bits
  if pf x 0 8 2 = 2 then word (pf x 2 0 20 + (e * 256 + v.toNat) * 4)
  else if pf x 0 8 2 = 1 then
    let d := ((word (pf x 1 0 20 + 4 * e)).add (f.value v).neg .rne).1
    (d.mul d).1.neg
  else ((word (pf x 1 0 20 + 4 * e)).mul (f.value v)).1

/-- The sum of the terms of a one-token row, and the score: rounded once, an exact zero +0 (R154). -/
def rowSum (s : State) (t : Nat) (x : Slot) (f : Fmt) (h : Token) : XVal :=
  (lanesOn h).foldl (fun r i => (r.add (term s t x i (el h f i)) .rne).1) (.fin false 0 0)
def rowScore (v : XVal) : Lane := if v.isZero then 0 else BitVec.ofNat 32 (f32.roundX v .rne false).1

/-- A PARAM token: selector and value in lanes 0 to 2 (R130, R147). -/
def isParam (z : Token) (sel a b : Lane) (lr ls : Bool) : Prop :=
  z.kind = .param ∧ z.lr = lr ∧ z.ls = ls ∧ laneOf z.lanes 0 = sel ∧ laneOf z.lanes 1 = a ∧ laneOf z.lanes 2 = b

/-- A row that leaves as a token whose fate the next decides: the last token waits without its LS (R158). -/
def heldBack (h : Token) : Token := { h with ls := false }

/-- The threshold of a list of the k best rows: its k-th pair, and (-infinity, 0) before it holds k (R156, R167). -/
def threshold (k : Nat) (l : List Row) : BitVec 32 × BitVec 12 :=
  match l.getLast? with
  | some q => if l.length = k then pairOf q.tok else (0xFF800000, 0)
  | none => (0xFF800000, 0)

/-- The key of a row in JOIN (R158). -/
def keyOf (x : Slot) (h : Token) : Option (BitVec 32) :=
  if (x.reg 0).getLsbD 6 then some (h.tag.setWidth 32)
  else if isOn h (pf x 0 2 4) then some (laneOf h.lanes (pf x 0 2 4)) else none

end Sys2Proof.Claims

section
open Sys2Proof Sys2Proof.Machine Sys2Proof.Claims

/-- Pairs of score and tag are totally ordered: the higher score first, then the lower tag; -0 and +0 are equal; a NaN score
stands below every other, and two NaN pairs are ordered by tag alone (R166). -/
def Obligations.PairsAreTotallyOrdered : Prop :=
  ∀ a b : BitVec 32 × BitVec 12,
    (above a b ↔ (¬nanScore a.1 ∧ nanScore b.1) ∨ (nanScore a.1 ∧ nanScore b.1 ∧ a.2.toNat < b.2.toNat) ∨
      (¬nanScore a.1 ∧ ¬nanScore b.1 ∧ (place b.1 < place a.1 ∨ (place a.1 = place b.1 ∧ a.2.toNat < b.2.toNat)))) ∧
    ¬(above a b ∧ above b a) ∧ (a.2 ≠ b.2 → above a b ∨ above b a) ∧
    ∀ c, above a b → above b c → above a c

/-- SCORE scores a row, after the writes due at its boundary, which may make it wait for a segment token; BOUND skips a block
strictly below thr_up and admits another under the tags its issuer comes to, gives up a waiting run of which a KILL has named
a tag, kills admitted blocks that a rise leaves below it, forgets one whose tags are issued again (log entry 90), and lets no
write take effect at a BUBBLE; TOPK keeps
the k best rows in rank order, sends the new threshold at each change of it, and emits the list at LS, or one BUBBLE when it
is empty; MERGE emits the best head (R154 to R157, R166, R167, R173 to R175). -/
def Obligations.RankedOperatorsFire : Prop :=
  ∀ (s : State) (t sl r : Nat) (x : Slot) (h : Token) (rest : List Token),
    (MayFire s t sl r 2 x → slotOut x.frame 0 = true → x.op.ended = false → x.op.inRow = false → pf x 0 16 2 = 0 →
      x.inQ 0 = h :: rest → h.kind = .data → ∀ f, Fmt.ofTag (BitVec.ofNat 5 (pf x 0 0 5)) = some f → h.fmt = f.tag →
      h.lr = true → (∀ i, i < 16 → isOn h i = true → i < pf x 0 19 13) →
      (if pf x 0 8 2 = 2 then (x.reg 2).toNat + 1024 * pf x 0 19 13 else (x.reg 1).toNat + 4 * pf x 0 19 13) ≤ 0x100000 →
      (x.reg 1).toNat < 2 ^ 20 → (x.reg 2).toNat < 2 ^ 20 → f.width ≤ 8 ∨ pf x 0 8 2 ≠ 2 →
      Fires (.scoreFire t sl) s t sl fun y => y.inQ 0 = rest ∧ y.op.inRow = false ∧ y.op.count = x.op.count + 1 ∧
        ∃ z, y.outQ 0 = [z] ∧ z.lr = true ∧ z.ls = h.ls ∧ z.tag = h.tag ∧ z.kind = .data ∧ z.fmt = 0x14 ∧ z.valid = 3 ∧
          laneOf z.lanes 0 = rowScore (rowSum s t x f h) ∧
          laneOf z.lanes 1 = x.reg 4 + BitVec.ofNat 32 x.op.count) ∧
    (∀ v : BitVec 32, OnSlot s t sl r 2 x → x.par = [] → x.due = [(0, v)] → x.op.ended = false → x.op.inRow = false →
      x.op.seg = false → setOk x 0 v → v.extractLsb' 16 2 = 2 → x.inQ 0 = h :: rest → h.kind = .data →
      Fires (.scoreFire t sl) s t sl fun y => y.inQ 0 = h :: rest ∧ y.outQ 0 = [] ∧ y.op.inRow = false ∧ y.due = [(0, v)]) ∧
    (OnSlot s t sl r 3 x → x.par = [] → x.op.toks = [] → x.inQ 0 = h :: rest → h.kind = .bubble →
      Fires (.boundHeader t sl) s t sl fun y => y.inQ 0 = rest ∧ y.due = x.due ∧ y.p = x.p ∧ y.op.rows = x.op.rows ∧
        (h.ls = false → y.outQ 0 = [] ∧ y.outQ 1 = []) ∧
        (h.ls = true → (slotOut x.frame 0 = true → ∃ z, y.outQ 0 = [z] ∧ isParam z 0 0 0 false true) ∧
          (slotOut x.frame 1 = true → ∃ z, y.outQ 1 = [z] ∧ isParam z 0 0 0 false true))) ∧
    (OnSlot s t sl r 3 x → x.par = [] → x.due = [] → x.op.toks = [] → x.inQ 0 = h :: rest → h.kind = .data → h.fmt = 0x14 →
      let n := (laneOf h.lanes 3).toNat
      let below := boundBelow (laneOf h.lanes 0) (thrUp (x.reg 0) (x.reg 1) x.ctl.score)
      isOn h 3 = true → 1 ≤ n → n ≤ 4096 → ∀ q first, s.region r = some q → q.run t sl n = some first →
      (below = true → h.ls = false → Fires (.boundHeader t sl) s t sl fun y => y.inQ 0 = rest ∧ y.outQ 0 = [] ∧
        y.outQ 1 = [] ∧ y.op.rows = x.op.rows) ∧
      (below = false → slotOut x.frame 0 = true → x.op.rows.length < 16 →
        (∀ k, k < n → ∀ c, (first + k, c) ∉ q.tagHeld) →
        (h.own = true → ∃ c, (h.tag.toNat, c) ∈ q.tagHeld) →
        (Fires (.boundHeader t sl) s t sl fun y => y.inQ 0 = rest ∧
          (∃ row, y.op.rows = (x.op.rows.filter fun w => decide (w.hi < first) || decide (first + n ≤ w.lo)) ++ [row] ∧ row.bits = (laneOf h.lanes 0).toNat ∧ row.lo = first ∧
            row.hi = first + n - 1) ∧
          (∃ pre z, y.outQ 0 = pre ++ [z] ∧ isParam z 0 (laneOf h.lanes 1) ((laneOf h.lanes 2).setWidth 16 |>.setWidth 32)
            true h.ls ∧ (pf x 2 0 3 = 0 → pre = []) ∧
            (pf x 2 0 3 ≠ 0 → ∃ w, pre = [w] ∧
              isParam w (BitVec.ofNat 32 (pf x 2 0 3)) (laneOf h.lanes 3) 0 false false)) ∧
          (slotOut x.frame 1 = true → ∃ z, y.outQ 1 = [z] ∧
            isParam z 3 (BitVec.ofNat 32 first) (laneOf h.lanes 4) true h.ls)) ∧
        ∃ u q2, exec (.boundHeader t sl) s = .next u ∧ u.region r = some q2 ∧
          ∀ k, k < n → ∃ c, (first + k, c) ∈ q2.tagHeld)) ∧
    (OnSlot s t sl r 3 x → x.par = [] → x.op.toks = [h] → ∀ q, s.region r = some q →
      let n := (laneOf h.lanes 3).toNat
      let i := x.op.elem
      (∃ z ∈ q.tagKilled, z.1 < i + n ∧ i ≤ z.2) → ∀ f, (q.advance t sl i).run t sl n = some f →
      Fires (.boundHeader t sl) s t sl fun y => y.op.elem = f ∧ y.op.toks = [h] ∧ y.outQ 0 = [] ∧ y.outQ 1 = [] ∧
        y.op.rows = x.op.rows) ∧
    (OnSlot s t sl r 3 x → slotCin x.frame = true → (x.ctl.score, x.ctl.tag) ≠ x.op.pair →
      let gone (q : Row) : Bool := boundBelow (BitVec.ofNat 32 q.bits) (thrUp (x.reg 0) (x.reg 1) x.ctl.score)
      (Fires (.boundThreshRise t sl) s t sl fun y => y.op.rows = x.op.rows.filter (!gone ·) ∧
        y.op.pair = (x.ctl.score, x.ctl.tag) ∧ y.inQ 0 = x.inQ 0) ∧
      ∀ q, s.region r = some q → ∃ u q2, exec (.boundThreshRise t sl) s = .next u ∧ u.region r = some q2 ∧
        q2.tagKilled = q.tagKilled ++ (x.op.rows.filter gone).map fun w => (w.lo % 4096, w.hi % 4096)) ∧
    (OnSlot s t sl r 4 x → x.par = [] → x.due = [] → x.op.ended = false → x.op.inRow = false → x.inQ 0 = h :: rest →
      h.kind = .data → h.lr = true →
      let k := (x.reg 0).toNat
      (h.ls = false → ¬above (pairOf h) x.op.pair → Fires (.topkFire t sl) s t sl fun y => y.inQ 0 = rest ∧
        y.op.rows = x.op.rows ∧ y.op.pair = x.op.pair ∧ y.outQ 0 = []) ∧
      let Emits (y : Slot) (l : List Row) : Prop := y.op.rows = [] ∧ y.op.ended = true ∧
        (l ≠ [] → y.outQ 0 = (l.map Row.tok).mapIdx fun i z => { z with lr := true, ls := i + 1 == l.length, own := false }) ∧
        (l = [] → y.outQ 0 = [{ kind := .bubble, lr := true, ls := true }])
      let Sends (p : BitVec 32 × BitVec 12) : Prop := ∃ u, exec (.topkFire t sl) s = .next u ∧
        ∃ l : List (Nat × Nat), u.ctlFlight = s.ctlFlight ++ l.map (fun z => (z.1, z.2, false, p.1, p.2, 0)) ∧
          (p = x.op.pair ∨ slotCout x.frame = false → l = []) ∧
          (p ≠ x.op.pair → slotCout x.frame = true → l = ctlTargets s r 40000 [] [(t, 5 + sl)])
      (above (pairOf h) x.op.pair → ∃ a b, x.op.rows = a ++ b ∧
          (∀ q ∈ a, ¬above (pairOf h) (pairOf q.tok)) ∧ (∀ q, b.head? = some q → above (pairOf h) (pairOf q.tok)) ∧
          let l := (a ++ { tok := h } :: b).take k
          let p := threshold k l
          Sends p ∧ (h.ls = false → Fires (.topkFire t sl) s t sl fun y => y.inQ 0 = rest ∧ y.outQ 0 = [] ∧
            y.op.rows = l ∧ y.op.pair = p) ∧
          (h.ls = true → slotOut x.frame 0 = true → Fires (.topkFire t sl) s t sl fun y => y.inQ 0 = rest ∧ Emits y l)) ∧
      (¬above (pairOf h) x.op.pair → Sends x.op.pair ∧
        (h.ls = true → slotOut x.frame 0 = true →
          Fires (.topkFire t sl) s t sl fun y => y.inQ 0 = rest ∧ Emits y x.op.rows))) ∧
    (MayFire s t sl r 5 x → slotOut x.frame 0 = true → x.op.elem = 0 → x.op.seg = true → x.op.phase = 0 →
      ∀ (hd : Nat → Token) (tl : Nat → List Token) (i : Nat), i ∈ x.inputs →
      (∀ j ∈ x.inputs, x.inQ j = hd j :: tl j ∧ (hd j).kind = .data) → (hd i).lr = true →
      (∀ j ∈ x.inputs, ¬above (pairOf (hd j)) (pairOf (hd i)) ∧ (j < i → above (pairOf (hd i)) (pairOf (hd j)))) →
      (∀ q, x.op.last[i]? = some (some q) → ¬above (pairOf (hd i)) q) →
      Fires (.mergeFire t sl) s t sl fun y => y.inQ i = tl i ∧ (∀ j ∈ x.inputs, j ≠ i → y.inQ j = x.inQ j) ∧
        y.op.count = x.op.count + 1 ∧ ∃ z, y.outQ 0 = [z] ∧ z = { hd i with ls := z.ls } ∧
          (z.ls = true ↔ ((hd i).ls = true ∧ ∀ j ∈ x.inputs, j = i) ∨ x.op.count + 1 = (x.reg 0).toNat))

/-- JOIN stores the first row of each key until the LS of in0, then emits each probe row by its mode; the last token of a
row waits to learn whether it is the last of all. GATHER reads the record of a row's index inside the page of its table,
with the order, kind and window of that page, and emits the record with the row's TAG, LR on its last token and LS as the
row had it; a row without an index is a BUBBLE; an index beyond the page raises GATHER_BOUND, a part that the page's kind
or window forbids its own cause; a row whose request was dropped at a save asks again (R158, R160, R164, R202, R272). -/
def Obligations.JoinAndGatherFire : Prop :=
  ∀ (s : State) (t sl r : Nat) (x : Slot) (h : Token) (rest : List Token),
    let key := keyOf x h
    let stored : Prop := ∃ q ∈ x.op.rows, key ≠ none ∧ keyOf x q.tok = key
    (MayFire s t sl r 6 x → x.op.inRow = false → x.op.phase = 0 → x.inQ 0 = h :: rest → h.kind = .data → h.lr = true →
      x.op.rows.length < 4096 → Fires (.joinBuild t sl) s t sl fun y => y.inQ 0 = rest ∧
        y.op.phase = (if h.ls then 1 else 0) ∧ y.outQ 0 = [] ∧
        (key ≠ none → ¬stored → y.op.rows = x.op.rows ++ [{ tok := h }]) ∧
        (key = none ∨ stored → y.op.rows = x.op.rows)) ∧
    (MayFire s t sl r 6 x → slotOut x.frame 0 = true → slotOut x.frame 1 = false → x.op.inRow = false → x.op.phase = 1 →
      x.inQ 1 = h :: rest → h.kind = .data → h.lr = true → h.ls = false →
      Fires (.joinProbe t sl) s t sl fun y => y.inQ 1 = rest ∧ y.op.phase = 1 ∧
        ((pf x 0 0 2 = 0 ∧ ¬stored) ∨ (pf x 0 0 2 = 2 ∧ stored) → y.outQ 0 = [] ∧ y.op.toks = x.op.toks) ∧
        ((pf x 0 0 2 = 0 ∧ stored) ∨ (pf x 0 0 2 = 2 ∧ ¬stored) ∨ pf x 0 0 2 = 1 →
          y.outQ 0 = x.op.toks ∧ y.op.toks = [heldBack h])) ∧
    (MayFire s t sl r 8 x → x.op.inRow = false → x.op.rows = [] → x.inQ 0 = h :: rest → h.kind = .data → h.lr = true →
      ∀ (q : Region) (b : BasePage), s.region r = some q → x.op.base = some b → isOn h (pf x 0 12 4) = true →
      ∀ f, Fmt.ofTag (BitVec.ofNat 5 (pf x 0 1 5)) = some f →
      let n := (pf x 0 6 5 + 1) * (2 * f.width)
      let i := (laneOf h.lanes (pf x 0 12 4)).toNat
      let at0 := ((x.reg 2).setWidth 16 ++ x.reg 1).toNat + i * (x.reg 3).toNat
      let pa := b.pa + (at0 - b.page)
      (b.page ≤ at0 → at0 + n ≤ b.page + b.size → at0 + n < 2 ^ 64 →
        (b.own = true ∨ ∀ k, k < n → s.physCheck q.vd b.kind b.win (pa + k) .read b.ord.toNat = none) →
        ∃ u new, exec (.gatherRequest t sl) s = .next u ∧ u.accs = s.accs ++ new ∧
          (∀ a ∈ new, a.kind = .load ∧ a.party = .gather t sl ∧ a.st = .buffered ∧ pa ≤ a.pa ∧ a.pa + a.size ≤ pa + n ∧
            a.page = b.ord ∧ a.win = b.win) ∧ (new.map Access.size).sum = n ∧
          ((u.tileAt t).fab.slot sl).inQ 0 = rest ∧
          ∃ row, ((u.tileAt t).fab.slot sl).op.rows = [row] ∧ row.tok = h ∧
            row.ids.map Prod.fst = new.map Access.id) ∧
      (∀ cause, b.page ≤ at0 → at0 + n ≤ b.page + b.size → at0 + n < 2 ^ 64 → at0 % 64 + n ≤ 64 → b.own = false →
        s.physCheck q.vd b.kind b.win pa .read b.ord.toNat = some (.fault cause) →
        ∃ u q2, exec (.gatherRequest t sl) s = .next u ∧ u.region r = some q2 ∧
          (q.fault = none → ∃ w, q2.fault = some w ∧ w.cause = cause ∧ w.eval = BitVec.ofNat 64 at0) ∧ u.accs = s.accs) ∧
      (at0 < b.page ∨ b.page + b.size < at0 + n → ∃ u q2, exec (.gatherRequest t sl) s = .next u ∧
        u.region r = some q2 ∧ (q.fault = none → ∃ w, q2.fault = some w ∧ w.cause = 0x1B ∧ w.eval = BitVec.ofNat 64 i) ∧
        u.accs = s.accs)) ∧
    (MayFire s t sl r 8 x → x.op.inRow = false → x.op.rows = [] → x.inQ 0 = h :: rest → h.kind = .data → h.lr = true →
      (∃ q, s.region r = some q) → isOn h (pf x 0 12 4) = false → Fires (.gatherRequest t sl) s t sl fun y => y.inQ 0 = rest ∧
        ∃ row, y.op.rows = [row] ∧ row.tok = bubbleOf h h.ls ∧ row.ids = []) ∧
    (MayFire s t sl r 8 x → ∀ q row more, s.region r = some q → x.op.rows = row :: more → row.due = true →
      ∀ f, Fmt.ofTag (BitVec.ofNat 5 (row.hi / 2)) = some f → let n := row.lo * (2 * f.width); 1 ≤ n → n ≤ 64 →
      ∀ ps s1, s.unitParts t q.vd .read 1 (blocks (BitVec.ofNat 64 row.va) n) = .ok (ps, s1) →
      ∃ u new, exec (.gatherRequest t sl) s = .next u ∧ u.accs = s1.accs ++ new ∧ new.length = ps.length ∧
        (∀ a ∈ new, a.kind = .load ∧ a.party = .gather t sl ∧ a.st = .buffered) ∧
        ∃ z, ((u.tileAt t).fab.slot sl).op.rows = z :: more ∧ z.due = false ∧ z.tok = row.tok ∧ z.bits = 0 ∧
          z.ids.map Prod.fst = new.map Access.id) ∧
    (MayFire s t sl r 8 x → slotOut x.frame 0 = true → ∀ row more, x.op.rows = row :: more → row.ids = [] →
      row.killed = false → row.due = false → row.tok.lr = true → row.tok.kind = .data → row.hi % 2 = 0 →
      ∀ f, Fmt.ofTag (BitVec.ofNat 5 (row.hi / 2)) = some f →
      Fires (.gatherReply t sl 0) s t sl fun y => y.op.rows = more ∧ (y.outQ 0).length = row.lo ∧
        ∀ i z, (y.outQ 0)[i]? = some z → z.tag = row.tok.tag ∧ z.fmt = f.tag ∧ z.valid = 0xFFFF ∧
          z.lr = (i + 1 == row.lo) ∧ z.ls = (i + 1 == row.lo && row.tok.ls) ∧
          ∀ k, k < 16 → (laneOf z.lanes k).toNat = row.bits / 2 ^ ((16 * i + k) * f.width) % 2 ^ f.width)
end

namespace Sys2Proof.Claims
open Sys2Proof.Machine

/-! ### Macro-ops and accumulators -/

/-- An operand of n bytes lies in tile store from its address on, and is aligned (R93). -/
def StoreOperand (va : Word) (n al : Nat) : Prop :=
  ∃ off, localOff va = some off ∧ off + n ≤ Config.tileStore ∧ off % al = 0

/-- The checked parts of an operand of n bytes in tile store: one for each 64-byte block that it touches, in order (R93,
R209). -/
def Cuts (s : State) (va : Word) (n : Nat) (ps : List (Spot × Word × Nat × Nat)) : Prop :=
  (ps.map fun p => p.2.2.1).sum = n ∧ ∀ i p w k o, ps[i]? = some (p, w, k, o) →
    o = ((ps.take i).map fun q => q.2.2.1).sum ∧ w = va + BitVec.ofNat 64 o ∧
    p.pa = localPa s.cur (va.toNat - Config.localBase + o) ∧ 1 ≤ k ∧ w.toNat % 64 + k ≤ 64

/-- The loads that a register waits for, one part for each, at the bit offset of its bytes; none for no part (R208). -/
def awaits (s : State) (d : Dest) (ps : List (Spot × Word × Nat × Nat)) : List Pending :=
  if ps.isEmpty then [] else [⟨d, ps.mapIdx fun i x => (s.nextId + i, 8 * x.2.2.2), 0⟩]

/-- A step of a macro-op, or a macro-op with none, changes no register that an instruction names: its results are on
their way (R90). -/
structure MacroKept (s u : State) : Prop where
  general : ∀ r, u.g r = s.g r
  token : ∀ r, u.v r = s.v r
  predicate : ∀ r, u.p r = s.p r
  accumulator : ∀ r, u.core.rdA r = s.core.rdA r
  others : u.core.fstat = s.core.fstat ∧ u.core.fmode = s.core.fmode ∧ u.core.tb = s.core.tb ∧ CachesKept s.core u.core ∧
    u.core.lvl = s.core.lvl ∧ u.core.inH = s.core.inH ∧ u.core.cause = s.core.cause ∧ u.core.epc = s.core.epc ∧
    u.core.eval = s.core.eval ∧ u.core.trapv = s.core.trapv ∧ u.core.pend = s.core.pend ∧ u.core.heldAcc = s.core.heldAcc
  resume : u.core.estep = s.core.estep &&& 0x7FFFFFFFFFFFFFFF
  access : u.accs = s.accs ∧ u.regions = s.regions ∧ u.vds = s.vds ∧ u.tile.fab = s.tile.fab

/-- Where a macro-op goes from step t: on to the next step, or past itself after the last (R90). -/
def StepNext (s u : State) (t total : Nat) : Prop :=
  if t + 1 < total then (u.core.pc, u.core.loops) = (s.core.pc, s.core.loops) ∧ u.core.stepAt = some (t + 1)
  else (u.core.pc, u.core.loops) = loopEnd s.core.pc s.core.loops ∧ u.core.stepAt = none

/-- One more result is on its way to its accumulator (R90). -/
def Sends (s u : State) (r : StepResult) : Prop :=
  u.core.inflight = s.core.inflight ++ [r] ∧ ∀ a, Memory.get u.mem a = Memory.get s.mem a

/-- The effect of a zero dimension, and of a resume past the last step: V, and with K = 0 and ACC = 0 the part and D
(R111). -/
def noSteps (ad : AReg) (zero acc : Bool) (m n : Nat) (r : StepResult) : Prop :=
  r.acc = ad ∧ r.adds = [] ∧ r.last = true ∧ r.flags = 0 ∧
    if zero = true ∧ acc = false ∧ m ≠ 0 ∧ n ≠ 0 then r.clear = partIndices m n ∧ r.setD = true
    else r.clear = [] ∧ (zero = true → r.setD = false)

/-- The columns of octet o (R96). -/
def octetOf (n o : Nat) : List Nat := (List.range 8).filterMap fun i => if 8 * o + i < n then some (8 * o + i) else none

/-- The contribution of row i and column j in group g of an RDOT (R96 to R98). -/
def rdotCell (s : State) (act wt : Fmt) (i32 : Bool) (a b sc : Word) (k g i j : Nat) : XVal × Bool :=
  let codes := codesAt s b wt (j * (k / 32) + g)
  let xs := actsAt s a act k i g
  if i32 then (XVal.ofInt (((List.range 32).map fun q => (codes.getD q 0) * ((xs.getD q (.fin false 0 0)).at 0)).foldl (· + ·) 0),
    false)
  else rdotContrib act codes xs (Fmt.bf16.value (BitVec.ofNat 32 (s.operand sc ((j * (k / 32) + g) * 2) 2)))

/-- A 16-element chunk of row i of A, with its block scale (R103). -/
def aCell (s : State) (fa : Fmt) (a : Word) (k i ch : Nat) : List XVal :=
  (List.range 16).map fun q => fa.value (elemAt s (a + w64 (i * k * fa.width / 8)) fa (16 * ch + q))

/-- An element after one more exact contribution: an INT32 sum saturated, or an FP32 sum rounded once to nearest (R79, R96,
R98). -/
def oneMore (i32 : Bool) (old : Lane) (x : XVal) : Lane :=
  if i32 then
    let v := old.toInt + x.at 0
    BitVec.ofInt 32 (if v < -2147483648 then -2147483648 else if 2147483647 < v then 2147483647 else v)
  else BitVec.ofNat 32 (f32.roundX ((fp32 old).add x .rne).1 .rne false).1

end Sys2Proof.Claims

section
open Sys2Proof Sys2Proof.Machine Sys2Proof.Claims

/-- RDOT and RANK. At a start at step 0 the shape, then the accumulator, then each operand is checked. Step t covers octet
t mod O and group t div O: RDOT sends its accumulator the contribution of every row and column of the octet, with the
clearing of ACC = 0 in group 0; RANK stores the table of each column. A bad stored table raises NM_METADATA at its step.
With a zero dimension no step runs (R90 to R97, R98 to R101, R109, R111). The flags of a group with a NaN beside an invalid
pair are the model's choice (log entry 37). -/
def Obligations.MacroStepsOfCodes : Prop :=
  ∀ (c : Guard) (act wt : Fmt) (acc i32 pt : Bool) (ad : AReg) (a b sc e : GReg) (s : State),
    Runs .us false (macroGuard s c) s →
    let m := bits (s.g e) 0 8
    let n := bits (s.g e) 8 8
    let k := bits (s.g e) 16 16
    let off := bits (s.g e) 32 32
    let G := k / 32
    let O := (n + 7) / 8
    let t := s.core.firstStep
    let fresh : Prop := s.core.stepAt = none ∧ t = 0
    let ready : Prop := s.core.stepAt = none → s.accsOf (.task s.cur) = []
    let codesOk : Prop := StoreOperand (s.g b) (n * G * 4 * wt.width) 4
    let tableOk : Prop := StoreOperand (storeVa off) (n * G * 20) 1
    let rdot := Instr.rdot c act wt acc i32 pt ad a b sc e
    let total := if m = 0 then 0 else O * G
    let accOk : Prop := acc = true → (s.core.rdA ad).v = true ∨ s.core.fBit ad = true
    let opsOk : Prop := total ≠ 0 → StoreOperand (s.g a) (m * k * elemBytes act) (elemBytes act) ∧ codesOk ∧
      (i32 = false → StoreOperand (s.g sc) (n * G * 2) 2) ∧ (pt = true → tableOk)
    let shapeOk : Prop := m ≤ 16 ∧ n ≤ 16 ∧ k % 32 = 0
    let begins : Prop := (fresh → shapeOk ∧ accOk ∧ opsOk) ∧ ready
    let cols := octetOf n (t % O)
    let g := t / O
    let valid (j : Nat) : Prop := pt = true →
      tableValid (codesAt s (s.g b) wt (j * G + g)) (s.operand (storeVa (off + (j * G + g) * 20)) 0 20) = true
    (HasHandler s → fresh → ¬shapeOk → Traps rdot s 0x15 (s.g e)) ∧
    (HasHandler s → fresh → shapeOk → ¬accOk → Traps rdot s 0x16 (BitVec.ofNat 64 ad.val)) ∧
    (begins → total ≤ t → ∃ u r, exec rdot s = .next u ∧ Sends s u r ∧
      noSteps ad (total = 0) acc m n r ∧ StepNext s u 0 0 ∧ MacroKept s u) ∧
    (begins → t < total → (∀ j ∈ cols, valid j) → ∃ u r, exec rdot s = .next u ∧ Sends s u r ∧
      r.acc = ad ∧ r.i32 = i32 ∧ r.setD = true ∧ (r.last = true ↔ t + 1 = total) ∧
      r.adds.map Prod.fst = ((List.range m).flatMap fun i => cols.map fun j => 16 * i + j) ∧
      r.clear = (if acc = false ∧ g = 0 then r.adds.map Prod.fst else []) ∧
      (∀ i, i < m → ∀ j ∈ cols, (16 * i + j, (rdotCell s act wt i32 (s.g a) (s.g b) (s.g sc) k g i j).1) ∈ r.adds) ∧
      StepNext s u t total ∧ MacroKept s u) ∧
    (HasHandler s → begins → t < total → s.core.inflight = [] → ∀ j ∈ cols, ¬valid j →
      (∀ q ∈ cols, q < j → valid q) → ∃ u, exec rdot s = .next u ∧
        Entered s u 0x14 (BitVec.ofNat 64 (off + (j * G + g) * 20)) s.core.pc (BitVec.ofNat 64 (t % 2 ^ 32 + 2 ^ 63))) ∧
    (let rank := Instr.rank c wt b e
     let fits : Prop := n ≤ 16 ∧ k % 32 = 0
     (HasHandler s → fresh → ¬fits → Traps rank s 0x15 (s.g e)) ∧
     ((fresh → fits ∧ (O * G ≠ 0 → codesOk ∧ tableOk)) ∧ ready →
       (O * G ≤ t → ∃ u, exec rank s = .next u ∧ u.core.inflight = s.core.inflight ∧ u.mem = s.mem ∧ StepNext s u 0 0 ∧
         MacroKept s u) ∧
       (t < O * G → off + n * G * 20 ≤ Config.tileStore → Memory.wf s.mem = true → ∃ u, exec rank s = .next u ∧ u.core.inflight = s.core.inflight ∧
         StepNext s u t (O * G) ∧ MacroKept s u ∧
         (∀ j ∈ cols, u.rd (localPa s.cur (off + (j * G + g) * 20)) 20 = orderTable (codesAt s (s.g b) wt (j * G + g)) % 2 ^ 160) ∧
         (∀ x, (∀ j ∈ cols, x < localPa s.cur (off + (j * G + g) * 20) ∨ localPa s.cur (off + (j * G + g) * 20) + 20 ≤ x) →
           Memory.get u.mem x = Memory.get s.mem x))))

/-- DDOT. Step t covers one chunk of 16 along K when dense and two when sparse; each chunk sends, for every row and column,
the exact sum of its scaled products; missing positions count as zero; step 0 clears with ACC = 0. Bad metadata raises
NM_METADATA at its step with the offset of its byte (R102 to R105, R363). -/
def Sys2Proof.Claims.MacroStepsOfFormats : Prop :=
  ∀ (c : Guard) (fa fb : Fmt) (acc : Bool) (sp : Sparsity) (mx : Bool) (ad : AReg) (a b md e : GReg) (s : State),
    Runs .us false (macroGuard s c) s →
    let i := Instr.ddot c fa fb acc sp mx ad a b md e
    let m := bits (s.g e) 0 8
    let n := bits (s.g e) 8 8
    let k := bits (s.g e) 16 16
    let off := bits (s.g e) 32 32
    let t := s.core.firstStep
    let fresh : Prop := s.core.stepAt = none ∧ t = 0
    let kb := if sp = .dense then k else k / 2
    let total := if m = 0 ∨ n = 0 then 0 else if sp = .dense then k / 16 else k / 32
    let shapeOk : Prop := m ≤ 16 ∧ n ≤ 16 ∧ k % 32 = 0
    let accOk : Prop := acc = true → (s.core.rdA ad).v = true ∨ s.core.fBit ad = true
    let opsOk : Prop := total ≠ 0 → StoreOperand (s.g a) (m * k * fa.width / 8) (elemBytes fa) ∧
      StoreOperand (s.g b) (n * kb * fb.width / 8) 4 ∧ (sp = .sp24 → StoreOperand (s.g md) (n * (k / 8)) 1) ∧
      (sp = .sp48 → StoreOperand (s.g md) (n * (3 * k / 16)) 1) ∧
      (mx = true → StoreOperand (storeVa off) ((m + n) * (k / 32)) 2)
    let begins : Prop := (fresh → shapeOk ∧ accOk ∧ opsOk) ∧ (s.core.stepAt = none → s.accsOf (.task s.cur) = [] ∧
      (fb = .cb4 → s.core.tbPend.getLsbD 0 = false))
    let chunks := if sp = .dense then [t] else [2 * t, 2 * t + 1]
    let B (ch j : Nat) := bChunk s fb sp (s.g b) (s.g md) k j ch
    let scaleA (ch r : Nat) := mxScale s mx (off + r * (k / 32) + ch / 2)
    let scaleB (ch j : Nat) := mxScale s mx (off + m * (k / 32) + j * (k / 32) + ch / 2)
    (HasHandler s → fresh → ¬shapeOk → Traps i s 0x15 (s.g e)) ∧
    (HasHandler s → fresh → shapeOk → ¬accOk → Traps i s 0x16 (BitVec.ofNat 64 ad.val)) ∧
    (begins → total ≤ t → ∃ u r, exec i s = .next u ∧ Sends s u r ∧
      noSteps ad (total = 0) acc m n r ∧ StepNext s u 0 0 ∧ MacroKept s u) ∧
    (begins → t < total → (∀ ch ∈ chunks, ∀ j, j < n → ∃ l, B ch j = .ok l) →
      ∃ u r, exec i s = .next u ∧ Sends s u r ∧
      r.acc = ad ∧ (r.i32 = true ↔ fa = .int8 ∧ fb = .int8) ∧ r.setD = true ∧ (r.last = true ↔ t + 1 = total) ∧
      r.clear = (if acc = false ∧ t = 0 then partIndices m n else []) ∧
      r.adds.map Prod.fst = (chunks.flatMap fun _ => (List.range m).flatMap fun q => (List.range n).map fun j => 16 * q + j) ∧
      (∀ ch ∈ chunks, ∀ q, q < m → ∀ j, j < n → ∀ l, B ch j = .ok l →
        (16 * q + j, (chunkSum (aCell s fa (s.g a) k q ch) l (scaleA ch q) (scaleB ch j)).1) ∈ r.adds) ∧
      StepNext s u t total ∧ MacroKept s u) ∧
    (HasHandler s → begins → t < total → s.core.inflight = [] → ∀ ch ∈ chunks, ∀ j, j < n → ∀ o, B ch j = .error o →
      (∀ ch' ∈ chunks, ∀ q, q < n → (ch' < ch ∨ ch' = ch ∧ q < j) → ∃ l, B ch' q = .ok l) →
      ∃ u, exec i s = .next u ∧ Entered s u 0x14 (BitVec.ofNat 64 o) s.core.pc (BitVec.ofNat 64 (t % 2 ^ 32 + 2 ^ 63)))

/-- A step's result arrives: each element is cleared where the step says so, then takes the step's contributions in their
order, each with one rounding or saturation; V is set by the last; flags merge; no other accumulator changes. ACLR, ALD and
AST wait for the F bit. ACLR clears; ALD and TPRED put plain loads of the operand at tile scope into the order buffer, for
which the accumulator or the predicate waits, V and D of ALD set at once; AST puts plain stores of the part there and
clears D. The checks come as R93 lists them (R90, R93, R96, R98, R106 to R108, R209, R345, R411, R412). -/
def Sys2Proof.Claims.AccumulatorsMove : Prop :=
  (∀ (q : Nat) (s : State) (r : StepResult) (rest : List StepResult),
    (s.tileAt q).core.inflight = r :: rest → (s.tileAt q).core.heldAcc = [] →
    ∃ u, exec (.macroStepResult q) s = .next u ∧ u.mem = s.mem ∧ u.accs = s.accs ∧ (∀ z, z ≠ q → u.tileAt z = s.tileAt z) ∧
      let o := (s.tileAt q).core
      let w := (u.tileAt q).core
      w.inflight = rest ∧ (∀ z, z ≠ r.acc → w.rdA z = o.rdA z) ∧
      (∀ x, x < 256 → (w.rdA r.acc).el[x]?.getD 0 =
        (r.adds.filter fun y => y.1 = x).foldl (fun l y => oneMore r.i32 l y.2)
          (if x ∈ r.clear then 0 else (o.rdA r.acc).el[x]?.getD 0)) ∧
      (w.rdA r.acc).v = ((o.rdA r.acc).v || r.last) ∧ (w.rdA r.acc).d = ((o.rdA r.acc).d || (r.last && r.setD)) ∧
      o.fstat ||| r.flags = (o.fstat ||| r.flags) &&& w.fstat ∧
      { w with a := o.a, inflight := o.inflight, fstat := o.fstat } = o) ∧
  ∀ (c : Guard) (ad : AReg) (f : Fmt) (pd : PReg) (a e : GReg) (s : State), Runs .us false c s →
    let m := bits (s.g e) 0 8
    let n := bits (s.g e) 8 8
    let shapeOk : Prop := m ≤ 16 ∧ n ≤ 16
    let words : Prop := m * n ≠ 0 → StoreOperand (s.g a) (4 * (m * n)) 4
    let elems : Prop := m * n ≠ 0 → StoreOperand (s.g a) ((m * n * f.width + 7) / 8) (elemBytes f)
    let A := s.core.rdA ad
    let Issues (i : Instr) (p : List PReg) (q : List AReg) (k : AccKind) (bytes : Nat) (pend : List Pending) (d : Dest)
        (what : Access → Nat → Nat → Prop) (P : State → Prop) : Prop := ∃ u ps, exec i s = .next u ∧
      Cuts s (s.g a) bytes ps ∧ PartsIssued s u.accs ps k .plain .tile what ∧ u.core.pend = pend ++ (if k = .load then awaits s d ps else []) ∧
      OthersKept s u [] [] p q ∧ u.core.fstat = s.core.fstat ∧ CachesKept s.core u.core ∧ Retired s.core u.core ∧
      u = { s.setCore u.core with accs := u.accs, nextId := s.nextId + ps.length } ∧ P u
    let GivesA (i : Instr) (y : Acc) : Prop := ∃ u, exec i s = .next u ∧ u.core.rdA ad = y ∧ OthersKept s u [] [] [] [ad] ∧
      u.core.fstat = s.core.fstat ∧ CachesKept s.core u.core ∧ u.core.pend = s.core.pend ∧ Retired s.core u.core ∧ OnlyCore s u
    (HasHandler s → ¬shapeOk → ∀ i ∈ [Instr.ald c ad a e, .ast c ad a e, .tpred c f pd a e], Traps i s 0x15 (s.g e)) ∧
    (HasHandler s → shapeOk → s.core.fBit ad = false → A.v = false → Traps (.ast c ad a e) s 0x16 (BitVec.ofNat 64 ad.val)) ∧
    (HasHandler s → shapeOk → m * n ≠ 0 → localOff (s.g a) = none → ∀ i ∈ [Instr.ald c ad a e, .tpred c f pd a e],
      Traps i s 0x06 (s.g a)) ∧
    (∀ o, HasHandler s → shapeOk → m * n ≠ 0 → localOff (s.g a) = some o →
      (Config.tileStore < o + 4 * (m * n) → Traps (.ald c ad a e) s 0x06 (s.g a)) ∧
      (o + 4 * (m * n) ≤ Config.tileStore → o % 4 ≠ 0 → Traps (.ald c ad a e) s 0x04 (s.g a))) ∧
    (s.core.fBit ad = true → exec (.aclr c ad) s = .next s ∧ (shapeOk → exec (.ast c ad a e) s = .next s) ∧
      (shapeOk → words → exec (.ald c ad a e) s = .next s)) ∧
    (s.core.fBit ad = false →
      (∃ y, (∀ x : Fin 256, y.el[x] = 0) ∧ y.v = true ∧ y.d = true ∧ GivesA (.aclr c ad) y) ∧
      (shapeOk → words →
        (Issues (.ald c ad a e) [] [ad] .load (4 * (m * n)) s.core.pend (.acc ad m n) (fun _ _ _ => True) fun u =>
          u.core.rdA ad = { A with v := true, d := true }) ∧
        (A.v = true → Issues (.ast c ad a e) [] [ad] .store (4 * (m * n)) s.core.pend .none (fun y off k => ∀ b, b < 8 * k →
            let w := (8 * off + b) / 32
            y.mask.getLsbD b = true ∧
            y.data.getLsbD b = (A.el[16 * (w / n) + w % n]?.getD 0).getLsbD ((8 * off + b) % 32)) fun u =>
          u.core.rdA ad = { A with d := false }))) ∧
    (shapeOk → elems → Issues (.tpred c f pd a e) [pd] [] .load ((m * n * f.width + 7) / 8)
      (if pd = 0 then s.core.pend else dropP s.core.pend pd) (.pred pd f (m * n)) (fun _ _ _ => True) fun u => u.p pd = true)
end

namespace Sys2Proof.Claims
open Sys2Proof.Machine

/-! ### Engine threads -/

/-- The accesses of the task in focus within a scope that are still to be performed: the release of a fork (R225). -/
def inRelease (s : State) (sp : Scope) (i : Nat) : Prop :=
  ∃ b ∈ s.accs, b.id = i ∧ b.party = .task s.cur ∧ b.isFence = false ∧ b.st ≠ .performed ∧ s.inScope sp b = true

/-- The peer that entry e of the table names, and the place of an offset in its range: port and device of the entry, its
share window, OFF more than the offset (R284). -/
def peerAt (s : State) (e off : Nat) : Peer :=
  let word (k : Nat) : Word := BitVec.ofNat 64 (valueAt s.mem (Config.ioBase + 0x3000000 + 32 * e + 8 * k) 8)
  ⟨((word 0).setWidth 48).toNat, (word 1 >>> 32).toNat, ((word 1).setWidth 7).toNat, (word 2).toNat + off⟩
def peerOf (s : State) (e : Nat) : Nat × Nat := ((peerAt s e 0).mac, (peerAt s e 0).dev)

/-- An operation goes to a peer, given by port and device (R285, R360). -/
def goesTo (s : State) (op : EngOp) (p : Nat × Nat) : Prop :=
  match op with
  | .coll _ _ _ _ ranks me first => ∃ q, q < ranks ∧ q ≠ me ∧ peerOf s (first + q) = p
  | .xwr e _ _ => peerOf s e = p
  | _ => False

/-- How many COLLs of a VD with this FIRST and RANKS have been issued (R360). -/
def collCount (s : State) (vd first ranks : Nat) : Nat :=
  (((s.vd vd).colls.find? fun x => x.1 == (first, ranks)).map Prod.snd).getD 0

/-- The task has forked a thread from the state s1 after its checks and goes on: the thread stands last and knows the
accesses of its release, a COLL its number among those of its group, and whether a peer of it is lost; one load for each part
of its source stands in its order buffer after the release, no register has changed but the pending bits of the tables that
the destination meets, and the instruction has retired (R225, R226, R285, R358, R360, R362). -/
structure Forked (s1 u : State) (op : EngOp) (sp : Scope) (cls : BitVec 2) (e : Word) (parts : List Part)
    (outs : List PartOut) (tbs : List (Nat × Nat)) : Prop where
  thread : ∃ x : Thread, u.threads = s1.threads ++ [x] ∧ x.id = s1.nextId ∧ x.tile = s1.cur ∧ x.vd = s1.core.vd ∧
    x.lvl = s1.core.lvl ∧ x.op = op ∧ x.scope = sp ∧ x.comp = bits e 0 20 ∧ x.val = e.extractLsb' 32 32 ∧ x.outs = outs ∧
    x.tbs = tbs ∧ x.buf = [] ∧ x.frames = 0 ∧ (x.told || x.matched || x.sent || x.written) = false ∧ x.reads.map Prod.snd = parts ∧
    (∀ i, i ∈ x.after ↔ inRelease s1 sp i) ∧ (x.lost = true ↔ ∃ p ∈ s1.peersLost, goesTo s1 op p) ∧
    ∀ k f exact count ranks me first, op = .coll k f exact count ranks me first → s1.core.vd < 32 →
      x.ordinal = collCount s1 s1.core.vd first ranks ∧
      collCount u s1.core.vd first ranks = collCount s1 s1.core.vd first ranks + 1
  loads : ∃ l, u.accs = s1.accs ++ l ∧ l.length = parts.length ∧ ∀ (k : Nat) (p : Part), parts[k]? = some p →
    ∃ y : Access, l[k]? = some y ∧ y.kind = .load ∧ y.party = .thread s1.nextId ∧ y.va = p.va ∧ y.pa = p.src ∧
      y.size = p.n ∧ y.scope = sp ∧ y.cls = s1.reqClass s1.cur cls.toNat ∧ y.st = .buffered ∧
      ∀ i, i ∈ y.after ↔ inRelease s1 sp i
  general : ∀ r, u.g r = s1.g r
  token : ∀ r, u.v r = s1.v r
  predicate : ∀ r, u.p r = s1.p r
  accumulator : ∀ r, u.core.rdA r = s1.core.rdA r
  others : u.core.fstat = s1.core.fstat ∧ CachesKept s1.core u.core ∧ u.core.lvl = s1.core.lvl ∧ u.core.inH = s1.core.inH ∧
    u.core.cause = s1.core.cause ∧ u.core.epc = s1.core.epc ∧ u.core.eval = s1.core.eval ∧ u.core.pend = s1.core.pend ∧
    u.core.tb = s1.core.tb
  pending : ∀ q k, k < 2 → (u.tileAt q).core.tbPend.getLsbD k = ((s1.tileAt q).core.tbPend.getLsbD k || tbs.contains (q, k))
  retired : Retired s1.core u.core
  bytes : ∀ x, Memory.get u.mem x = Memory.get s1.mem x

/-- The fault that a range check reports: the one at the lowest address (R358). -/
def LowestBad (l : List (Word × BitVec 8)) (va : Word) (cause : BitVec 8) : Prop :=
  (va, cause) ∈ l ∧ (∀ y ∈ l, va.toNat ≤ y.1.toNat) ∧ ∀ y ∈ l, y.1 = va → y.2 = cause

/-- The end of the checks of an engine instruction whose ranges are checked in p: a fault, a wait, or the fork. -/
def ForksOrFaults (i : Instr) (s : State) (p : Plan) (op : EngOp) (sp : Scope) (cls : BitVec 2) (e : Word)
    (parts : List Part) (outs : List PartOut) (tbs : List (Nat × Nat)) : Prop :=
  (∀ va cause, HasHandler s → untakable cause = false → LowestBad p.bad va cause → Traps i s cause va) ∧
  (p.bad = [] → p.wait = true → exec i s = .next s) ∧
  (p.bad = [] → p.wait = false → (∀ x ∈ s.threads, x.id < s.nextId) →
    ∃ u, exec i s = .next u ∧ Forked p.s u op sp cls e parts outs tbs)

/-- A thread's completion: the word is written in its tile's store, no other byte is, the thread is gone, and the pending
bits that it set clear where no other thread holds them (R20, R362). -/
structure CompletedWith (s u : State) (l r : List Thread) (x : Thread) (v : BitVec 32) : Prop where
  word : u.rd (localPa x.tile x.comp) 4 = v.toNat
  bytes : ∀ a, a < localPa x.tile x.comp ∨ localPa x.tile x.comp + 4 ≤ a → Memory.get u.mem a = Memory.get s.mem a
  gone : u.threads = l ++ r
  rest : u.accs = s.accs ∧ u.regions = s.regions ∧ u.vds = s.vds ∧ u.sent = s.sent
  pending : ∀ q k, k < 2 → (u.tileAt q).core.tbPend.getLsbD k =
    ((s.tileAt q).core.tbPend.getLsbD k && !(x.tbs.contains (q, k) && !(l ++ r).any fun y => y.tbs.contains (q, k)))

/-- A thread among the others, and none other of its number; all its accesses have been performed, and so have those of its
release. -/
structure IdleThread (s : State) (l r : List Thread) (x : Thread) : Prop where
  place : s.threads = l ++ x :: r
  sole : ∀ y ∈ l ++ r, y.id ≠ x.id
  idle : x.reads = [] ∧ (∀ a ∈ s.accs, a.party = .thread x.id → a.st = .performed) ∧ s.allPerformed x.after = true
  canonical : Memory.wf s.mem = true
  tables : ∀ q ∈ x.tbs, q.2 < 2

end Sys2Proof.Claims

section
open Sys2Proof Sys2Proof.Machine Sys2Proof.Claims

/-- The engine instructions check and fork. A 17th operation waits; the completion descriptor and then the operation's own
are checked; the ranges are translated, the fault at the lowest address is reported, and nothing is forked before. GTH, COLL
and XWR read their descriptor, and GTH its indices, by plain loads of the task, and go on when these have been answered. The
task goes on at once. With length 0 only the completion remains (R225, R226, R337, R358, R359, R361, R362, R372, R373, R441).
That a thread keeps the places that its checks have found is the model's choice (log entry 32). -/
def Obligations.EngineInstructionsFork : Prop :=
  ∀ (c : Guard) (sp : Scope) (cls : BitVec 2) (z : Bool) (a b n e : GReg) (s : State), Runs .all false c s →
    let w := s.g e
    let ops := [Instr.gth c sp cls a e, .coll c sp cls a e, .xwr c sp cls a e]
    let cpy := Instr.cpy c sp cls z a b n e
    let all := if s.core.lvl = .h then [cpy] else cpy :: ops
    let free : Prop := s.threads.countP (fun t => t.tile == s.cur) < 16
    let wordOk : Prop := bits w 20 12 = 0 ∧ bits w 0 2 = 0
    (¬free → ∀ i ∈ all, exec i s = .next s) ∧
    (HasHandler s → free → ∀ i ∈ all, (bits w 20 12 ≠ 0 → Traps i s 0x02 s.ir) ∧
      (bits w 20 12 = 0 → bits w 0 2 ≠ 0 → Traps i s 0x04 (BitVec.ofNat 64 (0x7FFFFF000000 + bits w 0 20)))) ∧
    (free → wordOk →
      (HasHandler s → bits (s.g n) 32 32 ≠ 0 → Traps cpy s 0x02 s.ir) ∧
      (bits (s.g n) 32 32 = 0 →
        let p := ({ s := s } : Plan).range .read (s.g a) (s.g n).toNat
        let q := p.range .write (s.g b) (s.g n).toNat
        ForksOrFaults cpy s q .cpy sp cls w (p.ps.map fun r => partOf r q.ps) [] (tablesOf q.ps))) ∧
    (HasHandler s → free → wordOk → s.core.lvl ≠ .h → localOff (s.g a) = none → ∀ i ∈ ops, Traps i s 0x06 (s.g a)) ∧
    (free → wordOk → s.core.lvl ≠ .h → ∀ o, localOff (s.g a) = some o →
      (HasHandler s → Config.tileStore ≤ o → ∀ i ∈ ops, Traps i s 0x06 (s.g a)) ∧
      (HasHandler s → o < Config.tileStore → o % 32 ≠ 0 → ∀ i ∈ ops, Traps i s 0x04 (s.g a)) ∧
      (∀ ps s1, o < Config.tileStore → o % 32 = 0 → s.core.readings = [] → s.checkParts .read 8 false
          [(s.g a, 8, 0), (s.g a + 8, 8, 8), (s.g a + 16, 8, 16), (s.g a + 24, 8, 24)] = .ok (ps, s1) →
        ∀ i ∈ ops, ReadsOn i s s1 ps .plain .tile) ∧
      (∀ q, o < Config.tileStore → o % 32 = 0 → s.core.readings = [q] → q.parts ≠ [] → ∀ i ∈ ops, exec i s = .next s) ∧
      (∀ v, o < Config.tileStore → o % 32 = 0 → s.core.readings[0]? = some ⟨[], v⟩ →
        let d0 := BitVec.ofNat 64 v
        let d1 := BitVec.ofNat 64 (v / 2 ^ 64)
        let d2 := BitVec.ofNat 64 (v / 2 ^ 128)
        let d3 := BitVec.ofNat 64 (v / 2 ^ 192)
        (let x : GthDesc := ⟨(d0.setWidth 48).signExtend 64, bits d1 20 20, bits d1 0 20, bits d2 32 32, bits d2 0 19,
           bits d3 0 13⟩
         let i := Instr.gth c sp cls a e
         let good : Prop := bits d0 48 16 = 0 ∧ bits d1 40 24 = 0 ∧ bits d2 19 13 = 0 ∧ bits d3 13 51 = 0 ∧
           (x.esize = 1 ∨ x.esize = 2 ∨ x.esize = 4 ∨ 0 < x.esize ∧ x.esize % 8 = 0 ∧ x.esize ≤ 4096) ∧
           x.count ≤ 262144 ∧ x.ioff % 4 = 0 ∧ x.doff % min x.esize 8 = 0 ∧ x.ioff + 4 * x.count ≤ Config.tileStore ∧
           x.doff + x.esize * x.count ≤ Config.tileStore
         (HasHandler s → ¬good → Traps i s 0x02 s.ir) ∧
         (∀ ps s1, good → s.core.readings.length = 1 → s.checkParts .read 4 false
           (blockParts (x.count / 16 + 2) (BitVec.ofNat 64 (Config.localBase + x.ioff)) (4 * x.count) 0) = .ok (ps, s1) →
           ReadsOn i s s1 ps .plain .tile) ∧
         (∀ ix p s2, good → s.core.readings[1]? = some ⟨[], ix⟩ → canonical x.base = true → localOff x.base = none →
           s.translate s.me .read x.base = .ok (p, s2) → p.kind = 0 →
           let parts := gthParts s2 x p ix x.count 0
           let dst := gthDst s2 x
           (∀ cause v, HasHandler s → parts = .error (.trap cause v) → Traps i s cause v) ∧
           (parts = .error .wait → exec i s = .next s) ∧
           (∀ ps, parts = .ok ps → (∀ y ∈ s2.threads, y.id < s2.nextId) →
             ∃ u, exec i s = .next u ∧ Forked s2 u .gth sp cls w (ps.map fun r => partOf r dst) [] []))) ∧
        (HasHandler s → Fmt.ofTag (d2.extractLsb' 21 5) = none → Traps (.coll c sp cls a e) s 0x02 s.ir) ∧
        (∀ f, Fmt.ofTag (d2.extractLsb' 21 5) = some f →
         let ranks := bits d2 48 8 + 1
         let me := bits d2 40 8
         let first := bits d2 30 10
         let k := bits d2 27 3
         let exact := d2.getLsbD 26
         let count := bits d3 0 25
         let N := count * f.width / 8
         let i := Instr.coll c sp cls a e
         let good : Prop := bits d0 48 16 = 0 ∧ bits d1 48 16 = 0 ∧ bits d2 56 8 = 0 ∧ bits d2 0 21 = 0 ∧ bits d3 25 39 = 0 ∧
           me < ranks ∧ count ≤ 16777216 ∧ count % 32 = 0 ∧ first + ranks ≤ 1024 ∧ collOk k f exact = true
         let peers : Prop := ∀ r, r < ranks → r ≠ me → s.peerOk (first + r) N = true
         let p := ({ s := s } : Plan).range .read ((d0.setWidth 48).signExtend 64) (if k = 4 ∧ me ≠ 0 then 0 else N)
         let q := p.range .write ((d1.setWidth 48).signExtend 64) (if k = 3 then ranks * N else N)
         (HasHandler s → ¬good → Traps i s 0x02 s.ir) ∧ (HasHandler s → good → ¬peers → Traps i s 0x1C (s.g a)) ∧
         (good → peers → ForksOrFaults i s q (.coll k f exact count ranks me first) sp cls w (p.ps.map fun r => partOf r [])
           (q.ps.map fun y => ⟨y.off, y.n, y.pa, y.off, y.off, y.n, y.ord, y.win, y.ignored⟩) [])) ∧
        (let off := bits d1 0 48
         let len := bits d2 32 32
         let entry := bits d2 0 10
         let flag := if d3.getLsbD 63 then some (bits d3 3 45 * 8) else none
         let i := Instr.xwr c sp cls a e
         let good : Prop := bits d0 48 16 = 0 ∧ bits d1 48 16 = 0 ∧ bits d2 10 22 = 0 ∧ bits d3 48 15 = 0 ∧ bits d3 0 3 = 0
         let peer : Prop := s.peerOk entry (off + len) = true ∧ ∀ y, flag = some y → s.peerOk entry (y + 8) = true
         let p := ({ s := s } : Plan).range .read ((d0.setWidth 48).signExtend 64) len
         (HasHandler s → ¬good → Traps i s 0x02 s.ir) ∧ (HasHandler s → good → ¬peer → Traps i s 0x1C (s.g a)) ∧
         (good → peer → ForksOrFaults i s p (.xwr entry off flag) sp cls w (p.ps.map fun r => partOf r []) [] []))))

/-- A thread whose accesses, and those of its release, have been performed ends: CPY and GTH write the completion word; XWR
sends, and writes it when the peer answers; COLL exchanges descriptors, the n-th of its group with the n-th of the others,
then contributions, stores its result with its flags in FSTAT (log entry 78), and writes the word when its contributions have
been performed; a refusal, a mismatch or a lost peer gives its own value. A payload goes in frames of at most 9,216 bytes (log entry 98), and each frame of
class C0 and C1 takes a slot of an I/O die port in the order of R241 (log entry 59). A peer that has answered nothing for 100 ms is lost to every operation to it (R20, R226, R241, R283 to R285, R360, R362,
R442). What peers answer comes as the operand of a move, the model's choice (log entry 76). -/
def Sys2Proof.Claims.EngineThreadsComplete : Prop :=
  (∀ (s : State) (l r : List Thread) (x : Thread) (rep : PeerReply), IdleThread s l r x →
    let Completes (v : BitVec 32) : Prop := ∃ u, exec (.engineCompletion x.id rep) s = .next u ∧ CompletedWith s u l r x v
    let Steps (y : Thread) (fs : List Sent) : Prop := ∃ u, exec (.engineCompletion x.id rep) s = .next u ∧
      u.threads = l ++ y :: r ∧ u.sent = s.sent ++ fs ∧ u.mem = s.mem ∧ u.accs = s.accs ∧ u.tile = s.tile
    let Frames (fs : List Sent) (y : Thread) : Prop :=
      let rest := fs.drop x.frames
      let due : Prop := x.cls.toNat < 2 ∧ rest ≠ []
      let free (k : Nat × Nat) : Prop := k ∈ [(2, 0), (2, 1)] ∧ (k, s.cycle / 4) ∉ s.wheelUsed ∧
        ∃ g, slotGroup (s.wheel k) s.slotNow x.vd x.cls = some g ∧
          ∀ b ∈ s.accs, AtResource s k b → ∀ h, s.groupNow k b = some h →
            g < h ∨ (g = h ∧ (g = 3 → s.turnOf k x.vd ≤ s.turnOf k b.vd) ∧ (x.vd = b.vd → s.sharesOk k x.region b.region = true))
      (due → (∀ k, ¬free k) → exec (.engineCompletion x.id rep) s = .next s) ∧
      (¬due → Steps { y with sentAt := s.cycle, frames := 0 } rest) ∧
      (due → (∃ k, free k) →
        (rest.length = 1 → Steps { y with sentAt := s.cycle, frames := 0 } rest) ∧
        (1 < rest.length → Steps { x with sentAt := s.cycle, frames := x.frames + 1 } (rest.take 1)) ∧
        ∃ k u, free k ∧ exec (.engineCompletion x.id rep) s = .next u ∧ (k, s.cycle / 4) ∈ u.wheelUsed)
    let cut (xs : List Byte) : List (Nat × List Byte) := (List.range (max 1 ((xs.length + 9215) / 9216))).map fun i =>
      (9216 * i, (xs.drop (9216 * i)).take 9216)
    let data (n : Nat) : List Byte := (List.range n).map fun i => ((x.buf.find? fun b => b.1 == i).map Prod.snd).getD 0
    (x.op = .cpy ∨ x.op = .gth → Completes x.val) ∧
    (∀ entry off flag, x.op = .xwr entry off flag →
      (x.lost = true → Completes 0xFFFFFFFF) ∧
      (x.lost = false → x.sent = false →
        Frames ((cut (data x.buf.length)).map fun q => .frame (peerAt s entry (off + q.1)) q.2
          (if q.1 + 9216 < x.buf.length then none else flag.map fun o => ((peerAt s entry o).off, x.val)))
          { x with sent := true }) ∧
      (x.lost = false → x.sent = true → (rep = .done → Completes x.val) ∧ (rep = .refused → Completes 0xFFFFFFFD))) ∧
    (∀ k f exact count ranks me first, x.op = .coll k f exact count ranks me first →
      let n := count * f.width / 8
      let mine : CollDesc := ⟨k, f.tag, exact, count, ranks, x.ordinal⟩
      let peers : List Peer := ((List.range ranks).filter fun q => q ≠ me).map fun q => peerAt s (first + q) 0
      let Result (xs : List (List Byte)) : Prop :=
        let v := collResult k f exact count me
          ((List.range ranks).map fun q => ofBytes (if q = me then data n else xs.getD q []))
        ∃ u l', exec (.engineCompletion x.id rep) s = .next u ∧ u.threads = l ++ { x with written := true } :: r ∧
          u.mem = s.mem ∧ u.accs = s.accs ++ l' ∧ l'.length = x.outs.length ∧
          (u.tileAt x.tile).core.fstat = (if (s.tileAt x.tile).core.owner = some (x.vd, x.gen)
            then (s.tileAt x.tile).core.fstat ||| v.2 else (s.tileAt x.tile).core.fstat) ∧
          ∀ (j : Nat) (o : PartOut), x.outs[j]? = some o → ∃ y : Access, l'[j]? = some y ∧ y.kind = .store ∧
            y.party = .thread x.id ∧ y.pa = o.dst ∧ y.size = o.n ∧
            y.data = BitVec.ofNat 512 (v.1 / 2 ^ (8 * o.off) % 2 ^ (8 * o.n)) ∧
            y.mask = if o.ignored then 0 else BitVec.ofNat 512 (256 ^ o.n - 1)
      (x.lost = true → Completes 0xFFFFFFFF) ∧
      (x.lost = false → x.written = true → (rep = .done → Completes x.val) ∧
        (rep ≠ .done → exec (.engineCompletion x.id rep) s = .next s)) ∧
      (x.lost = false → x.written = false → ranks = 1 → Result []) ∧
      (x.lost = false → x.written = false → ranks ≠ 1 →
        (x.told = false → Frames (peers.map fun p => .collDesc p mine) { x with told := true }) ∧
        (∀ ds, x.told = true → x.matched = false → rep = .descs ds → ds.length = ranks → ds[me]? = some mine →
          (∀ y ∈ ds, y.ordinal = x.ordinal) →
          ((∀ y ∈ ds, y = mine) → Steps { x with matched := true } []) ∧ ((∃ y ∈ ds, y ≠ mine) → Completes 0xFFFFFFFE)) ∧
        (x.told = true → x.matched = true → x.sent = false → Frames (if k = 4 ∧ me ≠ 0 then [] else
          peers.flatMap fun p => (cut (data n)).map fun q => .collData p x.ordinal q.1 q.2) { x with sent := true }) ∧
        (∀ xs, x.told = true → x.matched = true → x.sent = true → rep = .ranks xs → xs.length = ranks →
          (∀ y ∈ xs, y.length = n) → Result xs)))) ∧
  (∀ (s : State) (x : Thread) (rep : PeerReply), s.thread x.id = some x → x.reads ≠ [] →
    exec (.engineCompletion x.id rep) s = .next s) ∧
  (∀ (entry : Nat) (s : State),
    let p := peerOf s entry
    let heard := ((s.peersHeard.find? fun q => q.1 == p).map Prod.snd).getD 0
    let silent : Prop := ∃ x ∈ s.threads, (x.told = true ∨ x.sent = true) ∧ goesTo s x.op p ∧
      x.sentAt + 70000000 ≤ s.cycle ∧ heard + 70000000 ≤ s.cycle
    (¬silent → exec (.peerLost entry) s = .next s) ∧
    (silent → ∃ u, exec (.peerLost entry) s = .next u ∧ u = { s with threads := u.threads, peersLost := u.peersLost } ∧
      (∀ q, q ∈ u.peersLost ↔ q = p ∨ q ∈ s.peersLost) ∧ u.threads.length = s.threads.length ∧
      ∀ (k : Nat) (x : Thread), s.threads[k]? = some x → ∃ y, u.threads[k]? = some y ∧
        (goesTo s x.op p → y = { x with lost := true }) ∧ (¬goesTo s x.op p → y = x)))

/-- The bytes that a reply brings to a CPY or GTH go out as stores to their places, a word of the destination by one store
once all its bytes have come; those of an XWR or COLL are kept. A
peer's write is performed at its homes, payload then flag, when the window is live and the peer may store, and is refused
whole otherwise; one that covers part of a block whose MAC fails fences the VD of the window, one that covers the block does
not (R226, R267, R270, R285, R360, R361, R442). -/
def Sys2Proof.Claims.EngineBytesArrive : Prop :=
  (∀ (s : State) (l r : List Access) (a : Access) (tl tr : List Thread) (x : Thread) (p : Part), Among s l a r →
    a.st = .performed → a.party = .thread x.id → (∀ b ∈ l ++ r, b.st = .performed → OneQueue b a → a.seq ≤ b.seq) → s.threads = tl ++ x :: tr → (∀ y ∈ tl ++ tr, y.id ≠ x.id) →
    x.reads = [(a.id, p)] →
    ((x.op = .cpy ∨ x.op = .gth) → (∀ o ∈ p.outs, o.n = o.len) →
      ∃ u l', exec (.accessReply a.id) s = .next u ∧ u.threads = tl ++ { x with reads := [] } :: tr ∧ u.mem = s.mem ∧
        u.accs = l ++ r ++ l' ∧ l'.length = p.outs.length ∧
        ∀ (j : Nat) (o : PartOut), p.outs[j]? = some o → ∃ y : Access, l'[j]? = some y ∧ y.kind = .store ∧
          y.party = .thread x.id ∧ y.pa = o.dst ∧ y.size = o.n ∧
          y.data = BitVec.ofNat 512 (a.val.toNat / 2 ^ (8 * o.off) % 2 ^ (8 * o.n)) ∧
          y.mask = if o.ignored then 0 else BitVec.ofNat 512 (256 ^ o.n - 1)) ∧
    (∀ o, (x.op = .cpy ∨ x.op = .gth) → p.outs = [o] → o.n < o.len → o.len ≤ 8 →
      let buf := x.buf ++ (List.range o.n).map fun i => (o.pos + i, BitVec.ofNat 8 (a.val.toNat / 2 ^ (8 * (o.off + i))))
      let byte (i : Nat) : Option Byte := (buf.find? fun b => b.1 == o.first + i).map Prod.snd
      ((∃ i < o.len, byte i = none) → exec (.accessReply a.id) s = .next { s with
        accs := l ++ r
        threads := tl ++ { x with reads := [], buf := buf } :: tr }) ∧
      ((∀ i < o.len, byte i ≠ none) → ∃ u y, exec (.accessReply a.id) s = .next u ∧ u.mem = s.mem ∧
        u.accs = l ++ r ++ [y] ∧ y.kind = .store ∧ y.party = .thread x.id ∧ y.pa = o.dst - (o.pos - o.first) ∧
        y.size = o.len ∧ (∀ i < o.len, byte i = some (y.data.extractLsb' (8 * i) 8)) ∧
        y.mask = (if o.ignored then 0 else BitVec.ofNat 512 (256 ^ o.len - 1)) ∧
        u.threads = tl ++ { x with
          reads := []
          buf := buf.filter fun b => b.1 < o.first ∨ o.first + o.len ≤ b.1 } :: tr)) ∧
    (x.op ≠ .cpy → x.op ≠ .gth → exec (.accessReply a.id) s = .next { s with
      accs := l ++ r
      threads := tl ++ { x with
        reads := []
        buf := x.buf ++ (List.range p.n).map fun i => (p.pos + i, BitVec.ofNat 8 (a.val.toNat / 2 ^ (8 * i))) } :: tr })) ∧
  (∀ (win off : Nat) (xs : List Byte) (flag : Option (Nat × BitVec 32)) (s : State) (x : Window),
    s.wins.toList[win]? = some x →
    let size := x.granules.length * 0x20000
    let at_ (o : Nat) : Nat := x.granules.getD (o / 0x20000) 0 * 0x20000 + o % 0x20000
    let open_ : Prop := win ≠ 0 ∧ x.st = .live ∧ x.w = true ∧ off + xs.length ≤ size ∧
      ∀ o v, flag = some (o, v) → o + 8 ≤ size ∧ o % 8 = 0
    let i := Instr.peerWriteReceive win off xs flag
    (¬open_ → exec i s = .next { s with sent := s.sent ++ [.refusal win] }) ∧
    (open_ → s.bad = [] → s.badCtr = [] → s.recrypt = [] → x.granules.Nodup → Memory.wf s.mem = true →
      ∃ u, exec i s = .next u ∧ u.sent = s.sent ++ [.ackd win] ∧
      u.accs = s.accs ∧ u.regions = s.regions ∧ u.threads = s.threads ∧
      (∀ o v, flag = some (o, v) → u.rd (at_ o) 8 = v.toNat) ∧
      (∀ k, k < xs.length → (∀ o v, flag = some (o, v) → off + k < o ∨ o + 8 ≤ off + k) →
        Memory.get u.mem (at_ (off + k)) = xs.getD k 0) ∧
      (∀ y, (∀ k, k < xs.length → y ≠ at_ (off + k)) → (∀ o v, flag = some (o, v) → ∀ j, j < 8 → y ≠ at_ o + j) →
        Memory.get u.mem y = Memory.get s.mem y)) ∧
    (open_ → flag = none → s.badCtr = [] → s.recrypt = [] → off < 2 ^ 64 →
      off % 64 + xs.length ≤ 64 → xs ≠ [] →
      at_ off / 64 ∈ s.bad → (xs.length < 64 → exec i s = .next (s.fence x.peer 0x0A)) ∧
        (xs.length = 64 → ∃ u, exec i s = .next u ∧ u.sent = s.sent ++ [.ackd win] ∧ at_ off / 64 ∉ u.bad)))
end

namespace Sys2Proof.Claims
open Sys2Proof.Machine

/-! ### Tasks -/

/-- A task has started on a core: the state that R54 lists, and everything else as the last task left it. -/
structure TaskStarted (o w : Core) (entry : Word) (args : Fin 4 → Word) (lvl : Lvl) (trapv : Word) (cls : Nat) (k : Task) :
    Prop where
  place : w.pc = entry ∧ w.lvl = lvl ∧ w.inH = false ∧ w.status = .run ∧ w.task = some k
  general : ∀ r : GReg, w.rdG r =
    if r = 1 then args 0 else if r = 2 then args 1 else if r = 3 then args 2 else if r = 4 then args 3
    else if r = 30 then 0x00007FFFFF100000 else 0
  token : ∀ r : VReg, w.v[r] = {}
  predicate : ∀ r : PReg, w.rdP r = decide (r = 0)
  accumulator : ∀ r, (w.rdA r).v = false ∧ (w.rdA r).d = false ∧ w.fBit r = false ∧ (w.rdA r).el = (o.rdA r).el
  table : w.tb[0] = 0 ∧ w.tb[1] = 0 ∧ w.tbPend = 0
  loops : w.loops = [] ∧ w.rpPend = false ∧ w.rpCount = 0
  modes : w.fmode = 0 ∧ w.fstat = 0 ∧ w.slotcls = BitVec.ofNat 2 cls
  exception : w.cause = 0 ∧ w.epc = 0 ∧ w.eval = 0 ∧ w.estep = 0 ∧ w.trapv = trapv
  unnamed : w.owner = o.owner ∧ w.lastOwner = o.lastOwner ∧ w.shadow = o.shadow ∧ w.icache = o.icache ∧ w.tlb = o.tlb

/-- A task of tile t has no access that is still to be performed and no engine operation that is not complete (R37). -/
def Settled (s : State) (t : Nat) : Prop :=
  (∀ a ∈ s.accs, a.party = .task t → a.st = .performed) ∧ ∀ x ∈ s.threads, x.tile ≠ t

/-- A field of a node of the RCB tree: bits [lo, lo + n) of the doubleword at byte 8 k (R26). -/
def nodeField (s : State) (pa k lo n : Nat) : Nat := bits (BitVec.ofNat 64 (s.rd (pa + 8 * k) 8)) lo n

end Sys2Proof.Claims

section
open Sys2Proof Sys2Proof.Machine Sys2Proof.Claims

/-- SPAWN of a misaligned address raises MISALIGNED. It waits for its accesses, and while the VD has no dispatcher (log entry
81, the model's choice), or a walk of its parents meets a granule that is being re-keyed or re-encrypted (log entry 80). Once
its RCB is translated and its parents are read, in its own turn (log entry 7), it writes the
status of R30, whose open points are read as log entries 53, 54 and 83 say: a kind other than 2 gives 1, a state other than 0
and 6 gives 2, an empty shape 3, and a broken chain is never accepted; an RCB with no fault is accepted: a queued region with
the fields of its RCB joins the queue, and its RCB says queued (R26, R30, R31, R37, R41). -/
def Sys2Proof.Claims.SpawnWritesItsStatus : Prop :=
  ∀ (c : Guard) (d a : GReg) (s : State), Runs .us false c s →
    let va := s.g a
    let i := Instr.spawn c d a
    (HasHandler s → va.toNat % 256 ≠ 0 → Traps i s 0x04 va) ∧
    (∀ p s1, va.toNat % 256 = 0 → s.rcbSpot va = .ok p s1 →
      (s1.accsOf (.task s1.cur) ≠ [] ∨ s1.hasDispatcher s1.core.vd = false → exec i s = .next s) ∧
      (s1.accsOf (.task s1.cur) = [] → s1.hasDispatcher s1.core.vd = true → s1.bad = [] → s1.badCtr = [] → s1.recrypt = [] →
        let n := s1.node p.pa
        let k := s1.caller
        let ch := s1.chain k.vd k.lvl 3 [1, 3] (n.w 0)
        let s2 := ch.s
        let st := s2.spawnStatus k n ch
        (ch.integrity = false → ch.wait = true → exec i s = .next s) ∧
        (ch.integrity = false → ch.wait = false →
        let field := nodeField s1 p.pa
        let after (u : State) : Prop := u.g d = (if d = 0 then 0 else BitVec.ofNat 64 st) ∧ OthersKept s2 u [d] [] [] [] ∧
          u.core.fstat = s2.core.fstat ∧ Retired s2.core u.core ∧ u.accs = s2.accs ∧ u.vds = s2.vds
        (field 3 0 4 ≠ 2 → st = 1) ∧
        (st ≠ 1 → field 3 8 4 ≠ 0 → field 3 8 4 ≠ 6 → st = 2) ∧
        (st ≠ 1 → st ≠ 2 → field 4 0 8 = 0 ∨ field 4 8 8 = 0 → st = 3) ∧
        (ch.ok = false → st ≠ 0) ∧
        (st ≠ 0 → ∃ u, exec i s = .next u ∧ after u ∧ u.regions = s2.regions ∧ u.queue = s2.queue ∧ u.mem = s2.mem) ∧
        (st = 0 → s2.bad = [] → s2.badCtr = [] → s2.core.status = .run → ∃ u x, exec i s = .next u ∧ after u ∧ u.queue = s2.queue ++ [s2.regions.length] ∧
          u.regions.length = s2.regions.length + 1 ∧ u.region s2.regions.length = some x ∧ x.st = .queued ∧ x.vd = k.vd ∧
          x.rcb = va ∧ x.lvl = (if s1.core.lvl = .u ∨ s1.core.inH = true then .u else .s) ∧ x.place = none ∧
          x.w = field 4 0 8 ∧ x.h = field 4 8 8 ∧ x.entry = n.w 5 ∧ x.image = n.w 10 ∧
          x.args = #v[n.w 6, n.w 7, n.w 8, n.w 9] ∧ x.notifyOff = field 15 0 20 ∧ x.notifyVal = n.w 16 ∧
          x.parentTile = k.parentTile ∧ x.parent = k.parent ∧ x.hint = (n.w 4).setWidth 36 ∧
          ∀ pa s3, (s2.vd k.vd).st ≠ .fenced → s2.milAccess k.vd x.lvl .write (va + 0x18) = .ok pa s3 → Memory.wf s3.mem = true →
            bits (BitVec.ofNat 64 (valueAt u.mem pa 8)) 8 4 = 1))))

/-- RUN of an address outside tile store raises PERMISSION, of a misaligned one MISALIGNED. With its accesses performed it
reads the run block in its own turn (log entry 7, the model's choice) and writes the first status of R36 that holds (log
entry 23, the model's choice); with status 0 the worker has started on its tile, in U mode, from the start state of R54 with
the arguments of the block (R35, R36, R42, R54). -/
def Sys2Proof.Claims.RunStartsAWorker : Prop :=
  ∀ (c : Guard) (d a : GReg) (s : State), Runs .us false c s →
    let va := s.g a
    let i := Instr.run c d a
    (HasHandler s → ¬inStore va → Traps i s 0x06 va) ∧
    (HasHandler s → inStore va → va.toNat % 64 ≠ 0 → Traps i s 0x04 va) ∧
    (inStore va → va.toNat % 64 = 0 → s.accsOf (.task s.cur) ≠ [] → exec i s = .next s) ∧
    (inStore va → va.toNat % 64 = 0 → s.accsOf (.task s.cur) = [] →
      let off := va.toNat - 0x7FFFFF000000
      let w (j : Nat) : Word := BitVec.ofNat 64 (s.rd (localPa s.cur off + 8 * j) 8)
      let col := bits (w 6) 0 6
      let row := bits (w 6) 8 6
      (s.regionAt s.cur = none → GivesG i s d 1) ∧
      (∀ r x, s.regionAt s.cur = some r → s.region r = some x →
        let t := x.tileOf (row * 64 + col)
        let inside : Prop := col < x.w ∧ row < x.h ∧ ¬(col = 0 ∧ row = 0)
        let good : Prop := bits (w 6) 36 28 = 0 ∧ bits (w 6) 14 2 = 0 ∧ bits (w 6) 6 2 = 0 ∧ bits (w 0) 0 3 = 0 ∧
          bits (w 6) 16 3 = 0
        (¬inside → GivesG i s d 1) ∧
        (inside → (s.tileAt t).core.task ≠ none → GivesG i s d 2) ∧
        (inside → (s.tileAt t).core.task = none → ¬good → GivesG i s d 3) ∧
        (inside → (s.tileAt t).core.task = none → good → t ≠ s.cur →
          ∃ u, exec i s = .next u ∧ u.g d = 0 ∧ OthersKept s u [d] [] [] [] ∧ u.core.fstat = s.core.fstat ∧
            Retired s.core u.core ∧ u.mem = s.mem ∧ u.accs = s.accs ∧ (∀ q, q ≠ t → q ≠ s.cur → u.tileAt q = s.tileAt q) ∧
            (u.tileAt t).fab = (s.tileAt t).fab ∧
            TaskStarted (s.tileAt t).core (u.tileAt t).core (w 0) (fun j => w (j.val + 1)) .u x.trapv x.aged
              { role := .worker, vd := x.vd, region := r, block := BitVec.ofNat 64 off, notifyOff := bits (w 6) 16 20
                notifyVal := w 5, caller := x.offOf s.cur })))

/-- EXIT never goes on: the task waits for its completion with its code. A settled dispatcher ends. A settled worker's exit
writes the code into its run block, then the notify word, and frees its tile. A lead task's exit stops the region and its
fabric, unless a fault of the region is still to be acted on (R29); once its writes are performed, its engines done, and no
block that its end writes is being re-encrypted (log entry 80), the region is done with its exit code, its generation one higher
and its tiles released; its RCB gets the time, the exit code with no fault cause (log entry 57, the model's reading of R26)
and the state, and then the notify word of its parent is written, as MillinerWritesRcbAndNotify says (R26, R29, R37, R38,
R43, R368). -/
def Sys2Proof.Claims.ExitEnds : Prop :=
  (∀ (c : Guard) (a : GReg) (s : State), Runs .us false c s →
    exec (.exit c a) s = .next (s.setCore { s.core with status := .exiting ((s.g a).setWidth 32) })) ∧
  (∀ (t : Nat) (s : State) (code : BitVec 32) (k : Task), (s.tileAt t).core.status = .exiting code →
    (s.tileAt t).core.task = some k → k.role = .dispatcher → k.fell = none →
    (¬Settled s t → exec (.workerExitComplete t) s = .next s) ∧
    (Settled s t → exec (.workerExitComplete t) s =
      .next (s.updCore t fun c => { c with status := .idle, task := none, pend := [] }))) ∧
  (∀ (t : Nat) (s : State) (code : BitVec 32) (k : Task) (x : Region), (s.tileAt t).core.status = .exiting code →
    (s.tileAt t).core.task = some k → k.role = .worker → s.region k.region = some x →
    let home := windowPa (x.tileOf k.caller)
    let word := home + k.block.toNat + 0x38
    let note := home + k.notifyOff
    (¬Settled s t → exec (.workerExitComplete t) s = .next s) ∧
    (Settled s t → Memory.wf s.mem = true → ∃ u, exec (.workerExitComplete t) s = .next u ∧ u.rd note 8 = k.notifyVal.toNat ∧
      (word + 8 ≤ note ∨ note + 8 ≤ word → u.rd word 8 = code.toNat) ∧
      (∀ q, (q < word ∨ word + 8 ≤ q) → (q < note ∨ note + 8 ≤ q) → Memory.get u.mem q = Memory.get s.mem q) ∧
      (u.tileAt t).core.task = none ∧ (u.tileAt t).core.status = .idle ∧ (u.tileAt t).fab = (s.tileAt t).fab ∧
      (∀ r, (u.tileAt t).core.rdG r = (s.tileAt t).core.rdG r) ∧ u.regions = s.regions ∧ u.accs = s.accs)) ∧
  (∀ (r : Nat) (s : State) (x : Region) (code : BitVec 32) (k : Task), s.region r = some x → x.place.isSome = true →
    (s.tileAt x.crown).core.status = .exiting code → (s.tileAt x.crown).core.task = some k → k.role = .lead →
    let out : Prop := (∃ a ∈ s.accs, a.region = some r ∧ a.st ≠ .performed ∧ writesAt a) ∨
      (∃ y ∈ s.threads, y.region = some r) ∨ s.endWaits x = true
    (x.fault ≠ none ∨ x.domainSave ≠ none → exec (.regionExitComplete r) s = .next s) ∧
    (x.fault = none → x.domainSave = none →
    (¬Settled s x.crown → exec (.regionExitComplete r) s = .next s) ∧
    (Settled s x.crown → out → ∃ u, exec (.regionExitComplete r) s = .next u ∧ u.mem = s.mem ∧ u.accs = s.accs ∧
      u.regions = s.regions ∧ (u.tileAt x.crown).core = (s.tileAt x.crown).core ∧
      ∀ q, (x.covers q = false → u.tileAt q = s.tileAt q) ∧ (x.covers q = true → (u.tileAt q).fab = {} ∧
        (q ≠ x.crown → (s.tileAt q).core.task ≠ none → (u.tileAt q).core = { (s.tileAt q).core with status := .stopped }))) ∧
    (Settled s x.crown → ¬out → s.bad = [] → s.badCtr = [] → ∃ u y, exec (.regionExitComplete r) s = .next u ∧ u.region r = some y ∧
      y.st = .done ∧ y.gen = x.gen + 1 ∧ y.exit = code ∧ y.place = none ∧
      (let a := ((s.stillRegion x).writeTime r).vacate r
       let b := (a.rcbWrite x 0x98 (code.setWidth 64) 0xFFFFFFFFFF).setRState r .done
       u.mem = ((b.updRegion r fun y => { y with gen := y.gen + 1, exit := code, stop := .no, hat := none }).notify r).mem) ∧
      ∀ q ∈ x.tilesOf, (u.tileAt q).core.task = none ∧ (u.tileAt q).core.owner = none ∧ (u.tileAt q).fab = {})))

/-- What the milliner writes. A field of an RCB is written under its mask where the RCB translates for a write at the
privilege of its SPAWN, and not at all elsewhere or for a fenced VD; a block that fails verification fences the VD, and a
re-encryption that has begun in the move does not hold the write (log entry 80); the time consumed stands in bits [47:0] of
byte 0x60 with the count of pre-emptions above, the state in bits [11:8] of byte 0x18. The notify word is written on the
parent's tile, wherever its region stands; while the parent is saved it is held (log entry 27, the model's form), 128 in the
header of its save area and more in the lowest free entry of the overflow list; and it is dropped when the parent holds no
tile (R26, R38, R39, R248, R249, R444). -/
def Sys2Proof.Claims.MillinerWritesRcbAndNotify : Prop :=
  (∀ (s : State) (x : Region) (off : Nat) (v mask : Word),
    ((s.vd x.vd).st = .fenced → s.rcbWrite x off v mask = s) ∧
    (s.milAccess x.vd x.lvl .write (x.rcb + BitVec.ofNat 64 off) = .no → s.rcbWrite x off v mask = s) ∧
    ((s.vd x.vd).st ≠ .fenced → s.milAccess x.vd x.lvl .write (x.rcb + BitVec.ofNat 64 off) = .integrity →
      s.rcbWrite x off v mask = s.fence x.vd 0x0A) ∧
    (∀ pa s1, (s.vd x.vd).st ≠ .fenced → s.milAccess x.vd x.lvl .write (x.rcb + BitVec.ofNat 64 off) = .wait →
      ({ s with recrypt := [] } : State).milAccess x.vd x.lvl .write (x.rcb + BitVec.ofNat 64 off) = .ok pa s1 →
      let t := ({ s with recrypt := [] } : State).rcbWrite x off v mask
      s.rcbWrite x off v mask = { t with recrypt := t.recrypt ++ s.recrypt }) ∧
    (∀ pa s1, (s.vd x.vd).st ≠ .fenced → s.milAccess x.vd x.lvl .write (x.rcb + BitVec.ofNat 64 off) = .ok pa s1 →
      Memory.wf s1.mem = true → let t := s.rcbWrite x off v mask
      valueAt t.mem pa 8 = ((BitVec.ofNat 64 (valueAt s1.mem pa 8) &&& ~~~mask) ||| (v &&& mask)).toNat ∧
      (∀ a, a < pa ∨ pa + 8 ≤ a → Memory.get t.mem a = Memory.get s1.mem a) ∧ t.regions = s.regions)) ∧
  (∀ (s : State) (r : Nat) (x : Region), s.region r = some x →
    (let held := x.held + (if x.place.isSome then s.cycle - x.since else 0)
     s.writeTime r = s.rcbWrite x 0x60 (BitVec.ofNat 64 (held % 2 ^ 48 + min x.preempts 65535 * 2 ^ 48)) (BitVec.allOnes 64)) ∧
    (∀ st n, (st, n) ∈ [(RState.queued, 1), (.placed, 2), (.running, 3), (.preempted, 4), (.faulted, 5), (.done, 6)] →
      s.setRState r st = (s.setRegion r { x with st := st }).rcbWrite x 0x18 (BitVec.ofNat 64 (n * 256)) 0xF00)) ∧
  (∀ (s : State) (r : Nat) (x : Region), s.region r = some x → Memory.wf s.mem = true →
    let u := s.notify r
    let Wrote (home : Nat) : Prop := valueAt u.mem (home + x.notifyOff) 8 = x.notifyVal.toNat ∧
      (∀ a, a < home + x.notifyOff ∨ home + x.notifyOff + 8 ≤ a → Memory.get u.mem a = Memory.get s.mem a) ∧
      u.regions = s.regions
    (x.parent = none → (s.tileAt x.parentTile).core.owner ≠ none → Wrote (windowPa x.parentTile)) ∧
    (x.parent = none → (s.tileAt x.parentTile).core.owner = none → u = s) ∧
    (∀ q g y, x.parent = some (q, g) → s.region q = some y →
      (y.st = .placed ∨ y.st = .running → y.place ≠ none → Wrote (windowPa (y.tileOf x.parentTile))) ∧
      (y.st = .preempted → s.bad = [] → s.badCtr = [] →
        let addr := windowPa x.parentTile + x.notifyOff
        let area := (y.hat.getD (0, 0)).1
        let hat := (s.vd y.vd).hatbox.toNat
        let Keeps (pa n v : Nat) : Prop := valueAt u.mem pa n = v % 2 ^ (8 * n) ∧
          ∀ a, a < pa ∨ pa + n ≤ a → Memory.get u.mem a = Memory.get s.mem a
        (y.notifies.length < 128 → u.region q = some { y with notifies := y.notifies ++ [⟨addr, x.notifyVal⟩] } ∧
          Keeps (hat + area + 0x800 + 16 * y.notifies.length) 16 (addr + x.notifyVal.toNat * 2 ^ 64)) ∧
        (∀ i, 128 ≤ y.notifies.length → i < 4096 →
          let list := hat + bits (s.vd y.vd).hslots 0 16 * 1183744
          s.rd (list + 32 * i) 8 = 0 → (∀ j < i, s.rd (list + 32 * j) 8 ≠ 0) → u.regions = s.regions ∧
          u.notifyDue = s.notifyDue ++ [(y.vd, q, ⟨addr, x.notifyVal⟩)] ∧
          Keeps (list + 32 * i) 32 (addr + x.notifyVal.toNat * 2 ^ 64 + area * 2 ^ 128))) ∧
      (y.st = .queued ∨ y.st = .faulted ∨ y.st = .done → u = s)))

/-- YIELD outside a region has no effect; in one it retires, begins a new quantum and a new hold count for the region or its
gang, and where a waiting region has the claim (log entry 55) it asks each placed member to stop by marker, to queue behind
the others of its class (log entry 74, the model's choice). TRAP retires and then raises TRAP with its code at the next
instruction; BKPT raises BREAKPOINT at itself (R43, R352, R412, R443). -/
def Obligations.YieldTrapAndBreakpoint : Prop :=
  (∀ (c : Guard) (s : State), Runs .us false c s →
    (s.regionAt s.cur = none → GivesNothing (.yield c) s) ∧
    (∀ r, s.regionAt s.cur = some r →
      let s1 := s.restartQuantum (s.unit r)
      ∃ u, exec (.yield c) s = .next u ∧ OthersKept s u [] [] [] [] ∧ u.core.fstat = s.core.fstat ∧ Retired s.core u.core ∧
        u.mem = s.mem ∧ u.accs = s.accs ∧ u.queue = s.queue ∧ u.regions.length = s.regions.length ∧
        (∀ m x, m ∉ s.unit r → s.region m = some x → u.region m = some x) ∧
        ∀ m x, m ∈ s.unit r → s.region m = some x → ∃ y, u.region m = some y ∧ y.quantumAt = s.cycle ∧ y.yieldAt = s.cycle ∧
          (s1.contested r = false → y = { x with quantumAt := s.cycle, yieldAt := s.cycle }) ∧
          (s1.contested r = true → s1.askStop (.marker s.cycle) (s.unit r) ≠ none → x.place.isSome = true → x.stop = .no →
            y.stop = .marker s.cycle ∧ y.hat.isSome = true ∧ y.behind = true))) ∧
  (∀ (c : Guard) (code : BitVec 24) (s : State), Runs .us false c s → HasHandler s →
    ∃ m u, OthersKept s m [] [] [] [] ∧ m.core.fstat = s.core.fstat ∧ CachesKept s.core m.core ∧ m.core.pend = s.core.pend ∧
      Retired s.core m.core ∧ OnlyCore s m ∧
      exec (.trap c code) s = .next u ∧ Entered m u 0x0C (code.setWidth 64) m.core.pc 0) ∧
  (∀ (c : Guard) (code : BitVec 24) (s : State), Runs .all false c s → HasHandler s →
    Traps (.bkpt c code) s 0x0D (code.setWidth 64))
end

namespace Sys2Proof.Claims
open Sys2Proof.Machine

/-! ### Special registers -/

/-- The instruction retires with the core otherwise as c, in the device otherwise as m. -/
def RetiresAs (i : Instr) (s m : State) (c : Core) : Prop := exec i s = .next (m.setCore c.retire)

/-- A number by fields: bits from a place on. -/
def fieldsOf (l : List (Nat × Nat)) : Word := BitVec.ofNat 64 ((l.map fun p => p.1 * 2 ^ p.2).sum)
def bit1 (b : Bool) : Nat := if b then 1 else 0
def lvlCode : Lvl → Nat
  | .u => 0
  | .s => 1
  | .h => 2
def vdCode : VdState → Nat
  | .none => 0
  | .created => 1
  | .running => 2
  | .fenced => 3
def winCode : WinState → Nat
  | .free => 0
  | .offered => 1
  | .accepted => 2
  | .installing => 3
  | .live => 4
  | .closing => 5
  | .closed => 6

/-- The registers that are read, with what SRD returns, at the core in focus (R47, R49, R50). -/
def readings (s : State) : List (BitVec 12 × Word) :=
  let c := s.core
  let x := s.regionAt s.cur >>= s.region
  let v := s.vd c.ofVd
  let h := s.barHome s.cur
  let n := s.barSelOf h
  [(0x000, fieldsOf [(s.cur % 4096, 0), ((x.map fun r => r.gen.toNat).getD 0, 12)]),
   (0x001, fieldsOf [(s.cur % 64, 0), (s.cur / 64 % 64, 8)]),
   (0x002, match x with
     | some r => match r.place with
       | some p => fieldsOf [(p.1, 0), (p.2, 8), (r.w, 16), (r.h, 24)]
       | none => 0
     | none => 0),
   (0x003, BitVec.ofNat 64 (c.ofVd % 32)),
   (0x004, fieldsOf [(lvlCode c.lvl, 0), (bit1 c.inH, 8)]),
   (0x010, c.fmode.setWidth 64), (0x011, c.fstat.setWidth 64),
   (0x020, match c.loops with
     | l :: _ => fieldsOf [(c.loops.length, 0), (l.count.toNat, 32)]
     | [] => 0),
   (0x021, fieldsOf [(c.rpCount.toNat, 0), (bit1 c.rpPend, 6)]),
   (0x030, BitVec.ofNat 64 s.cycle), (0x031, BitVec.ofNat 64 (s.cycle * 10 / 7) + s.timebase),
   (0x040, c.cause.setWidth 64), (0x041, c.epc), (0x042, c.eval), (0x043, c.estep), (0x044, c.trapv),
   (0x050, fieldsOf ((List.finRange 8).flatMap fun r => [(bit1 (c.rdA r).v, 3 * r.val), (bit1 (c.rdA r).d, 3 * r.val + 1),
     (bit1 (c.fBit r), 3 * r.val + 2)])),
   (0x051, c.tbPend.setWidth 64),
   (0x060, fieldsOf [(n.toNat, 0), ((s.barrier h n).count.toNat, 16), ((s.barrier h n).arrivals % 65536, 32)]),
   (0x070, v.s1root), (0x071, v.tlbctl), (0x080, c.slotcls.setWidth 64)]

/-- The same of the registers that only H reaches (R194, R234, R242, R275, R287). -/
def readingsH (s : State) : List (BitVec 12 × Word) :=
  let d := s.vd s.vdsel.toNat
  let w := s.winRec
  [(0x100, s.whsel.setWidth 64),
   (0x101, (s.wheelSet s.whKey).extractLsb' (64 * (s.whsel.toNat / 65536 % 32)) 64),
   (0x102, fieldsOf [((s.vd s.c0vd.toNat).c0lim.toNat, 0), (s.c0vd.toNat, 32)]),
   (0x110, s.pwrnow.setWidth 64), (0x111, s.tempmax.setWidth 64), (0x112, s.pcap.setWidth 64),
   (0x113, s.throt.setWidth 64), (0x114, s.cecnt), (0x115, s.timebase), (0x120, s.vdsel.setWidth 64),
   (0x121, d.rect), (0x122, d.s2root), (0x123, d.s1init), (0x124, d.hatbox), (0x125, d.hslots), (0x126, d.disp),
   (0x127, s.vdgbase), (0x128, s.vdgcount.setWidth 64),
   (0x129, fieldsOf [(s.vdOp.toNat, 0), (s.vdStatus.toNat, 4),
     (vdCode d.st, 8)]),
   (0x130, s.winsel.setWidth 64),
   (0x131, fieldsOf [(winCode w.st, 0), (w.owner, 8), (w.peer, 16), (bit1 w.w, 24), (w.count.toNat % 2 ^ 32, 32)]),
   (0x132, w.start), (0x133, w.base)]

/-- The level that a register asks for (R49). -/
def reaches (s : State) (n : BitVec 12) : Prop :=
  (0x100 ≤ n.toNat → s.core.lvl = .h) ∧ (n ∈ [0x044#12, 0x060, 0x070, 0x071] → s.core.lvl ≠ .u)

/-- A value of WHSEL that names a wheel and a group of its slots (R242). -/
def wheelNamed (x : Word) : Prop :=
  bits x 21 43 = 0 ∧ ((bits x 12 4 = 0 ∧ bits x 0 12 < 32) ∨ (bits x 12 4 = 1 ∧ bits x 0 12 < 64 ∧
    bits x 0 12 / 8 ≠ bits x 0 12 % 8) ∨ (bits x 12 4 = 2 ∧ bits x 0 12 < 2))

/-- The macro-ops of the task have finished their last steps (R52). -/
def StepsDone (s : State) : Prop := s.core.inflight = [] ∧ s.core.stepAt = none

end Sys2Proof.Claims

section
open Sys2Proof Sys2Proof.Machine Sys2Proof.Claims

/-- SRD reads every register of R49 to R51, R194, R234, R242, R275 and R287 as its fields say, and nothing else changes; a
level below the register's raises PRIVILEGE; FSTAT and ASTAT wait for the steps of macro-ops (R47, R49, R50, R52). What
TASKID, TILEID and VDID read on a service core, S1ROOT and the barriers there, the data of an idle wheel, and the count of
BARCNT while one waits are the model's choice (log entries 25, 28, 87, 88). -/
def Obligations.SrdReadsEveryRegister : Prop :=
  ∀ (c : Guard) (d : GReg) (s : State), Runs .all false c s → ∀ p ∈ readings s ++ readingsH s,
    (HasHandler s → ¬reaches s p.1 → Traps (.srd c d p.1) s 0x0B s.ir) ∧
    (reaches s p.1 → p.1 ∈ [0x011#12, 0x050] → ¬StepsDone s → exec (.srd c d p.1) s = .next s) ∧
    (reaches s p.1 → (p.1 ∈ [0x011#12, 0x050] → StepsDone s) → GivesG (.srd c d p.1) s d p.2)

/-- SWR writes the register that it names and nothing else. A level below the register's raises PRIVILEGE; a register that
is read-only at the level ignores the write; a nonzero must-be-0 bit or a reserved value raises ILLEGAL_OPERAND; FSTAT waits
for the steps of macro-ops; a root waits for its invalidation; a command waits for one in progress, and one that goes on
later keeps its instruction (R49, R50, R52, R234, R235, R242, R287). That a value is
judged after the guard, that a root's write waits for the VD's accesses, when a wheel's write shows, and what a command in
parts lets others see are the model's choice (log entries 14, 21, 25, 71, 72, 77). -/
def Obligations.SwrWritesTheRegister : Prop :=
  ∀ (c : Guard) (a : GReg) (s : State), Runs .all false c s →
    let x := s.g a
    let k := s.core
    let i (n : BitVec 12) := Instr.swr c n a
    let inS : Prop := k.lvl ≠ .u
    let inHm : Prop := k.lvl = .h
    let Refused (n : BitVec 12) : Prop := Traps (i n) s 0x02 s.ir
    let Core_ (n : BitVec 12) (y : Core) : Prop := RetiresAs (i n) s s y
    let Dev (n : BitVec 12) (m : State) : Prop := RetiresAs (i n) s m k
    let selected (f : Vd → Vd) : State := s.updVd s.vdsel.toNat f
    let Held (m : State) : State := m.setCore { m.core with opWord := m.ir }
    let idle (f : Vd → Vd) : State := selected fun v => if v.st = .none then f v else v
    (HasHandler s → (∀ n ∈ [0x044#12, 0x060, 0x070, 0x071], k.lvl = .u → Traps (i n) s 0x0B s.ir) ∧
      (∀ n : BitVec 12, 0x100 ≤ n.toNat → k.lvl ≠ .h → Traps (i n) s 0x0B s.ir)) ∧
    (∀ n ∈ [0x000#12, 0x001, 0x002, 0x003, 0x004, 0x020, 0x021, 0x030, 0x031, 0x050, 0x051], Dev n s) ∧
    (k.lvl = .u → ∀ n ∈ [0x040#12, 0x041, 0x042, 0x043], Dev n s) ∧
    (HasHandler s → (4 ≤ x.toNat → Refused 0x010) ∧ (64 ≤ x.toNat → Refused 0x011) ∧
      (inS → (x.toNat % 8 ≠ 0 → Refused 0x041 ∧ Refused 0x044) ∧ (2 ≤ x.toNat → Refused 0x071) ∧
        (bits x 4 12 ≠ 0 ∨ bits x 29 35 ≠ 0 ∨ 4096 < bits x 16 13 → Refused 0x060) ∧
        (bits x 48 16 ≠ 0 ∨ bits x 1 11 ≠ 0 → Refused 0x070)) ∧
      (inHm → (x &&& 0x6060606060606060 ≠ 0 → Refused 0x101) ∧ (bits x 16 48 ≠ 0 → Refused 0x112 ∧ Refused 0x125) ∧
        (32 ≤ x.toNat → Refused 0x120) ∧ (bits x 32 32 ≠ 0 → Refused 0x128) ∧ (97 ≤ x.toNat → Refused 0x130) ∧
        (¬wheelNamed x → Refused 0x100) ∧ (bits x 37 27 ≠ 0 ∨ bits x 16 16 ≠ 0 → Refused 0x102) ∧
        (bits x 30 34 ≠ 0 ∨ bits x 22 2 ≠ 0 ∨ bits x 14 2 ≠ 0 ∨ bits x 6 2 ≠ 0 → Refused 0x121) ∧
        (bits x 48 16 ≠ 0 ∨ bits x 1 11 ≠ 0 → Refused 0x122 ∧ Refused 0x127) ∧
        (bits x 48 16 ≠ 0 ∨ bits x 0 17 ≠ 0 → Refused 0x124) ∧
        (bits x 12 52 ≠ 0 ∨ bits x 0 4 = 0 ∨ 5 < bits x 0 4 → Refused 0x129)) ∧
      (inS → bits x 32 31 ≠ 0 → Refused 0x043)) ∧
    (x.toNat < 4 → Core_ 0x010 { k with fmode := x.setWidth 3 }) ∧
    (x.toNat < 64 → (StepsDone s → Core_ 0x011 { k with fstat := x.setWidth 6 }) ∧
      (¬StepsDone s → exec (i 0x011) s = .next s)) ∧
    Core_ 0x080 { k with slotcls := x.setWidth 2 } ∧
    (inS → Core_ 0x040 { k with cause := x.setWidth 8 } ∧ (x.toNat % 8 = 0 → Core_ 0x041 { k with epc := x }) ∧
      Core_ 0x042 { k with eval := x } ∧ (bits x 32 31 = 0 → Core_ 0x043 { k with estep := x }) ∧
      (x.toNat % 8 = 0 → Core_ 0x044 { k with trapv := x }) ∧
      (x.toNat < 2 → Dev 0x071 (s.updVd k.ofVd fun v => { v with tlbctl := x })) ∧
      (bits x 4 12 = 0 → bits x 29 35 = 0 → bits x 16 13 ≤ 4096 → k.ofVd < 32 →
        let n := BitVec.ofNat 4 (bits x 0 4)
        let h := s.barHome s.cur
        let b := s.barrier h n
        ∃ u, exec (i 0x060) s = .next u ∧ u.barSelOf h = n ∧
          u.barrier h n = (if b.arrivals = 0 then { b with count := BitVec.ofNat 13 (bits x 16 13), next := none }
            else { b with next := some (BitVec.ofNat 13 (bits x 16 13)) }) ∧
          (∀ m, m ≠ n → u.barrier h m = s.barrier h m) ∧ OthersKept s u [] [] [] [] ∧ Retired s.core u.core ∧ u.mem = s.mem) ∧
      (bits x 48 16 = 0 → bits x 1 11 = 0 → k.ofVd < 32 → ∃ u, exec (i 0x070) s = .next u ∧ (u.vd k.ofVd).s1root = x ∧
        (∀ q, ∀ e ∈ (u.tileAt q).core.tlb, e.vd ≠ k.ofVd) ∧ u.core.status = .tlbi (s.outstanding k.ofVd) (s.threadsOut k.ofVd) ∧
        u.core.pc = k.pc ∧ u.mem = s.mem)) ∧
    (inHm →
      (∀ n ∈ [0x110#12, 0x111, 0x131, 0x132, 0x133], Dev n s) ∧
      (bits x 16 48 = 0 → Dev 0x112 { s with pcap := x.setWidth 16 }) ∧
      Dev 0x113 { s with throt := s.throt &&& ~~~(x.setWidth 2) } ∧ Dev 0x114 { s with cecnt := x } ∧
      Dev 0x115 (if 5 ≤ s.stage then s else { s with timebase := x }) ∧
      (x.toNat < 32 → Dev 0x120 { s with vdsel := x.setWidth 5 }) ∧
      (bits x 30 34 = 0 → bits x 22 2 = 0 → bits x 14 2 = 0 → bits x 6 2 = 0 → Dev 0x121 (idle fun v => { v with rect := x })) ∧
      Dev 0x123 (selected fun v => { v with s1init := x }) ∧
      (bits x 48 16 = 0 → bits x 0 17 = 0 → Dev 0x124 (idle fun v => { v with hatbox := x })) ∧
      (bits x 16 48 = 0 → Dev 0x125 (idle fun v => { v with hslots := x })) ∧
      Dev 0x126 (selected fun v => { v with disp := x }) ∧
      (bits x 48 16 = 0 → bits x 1 11 = 0 → Dev 0x127 { s with vdgbase := x }) ∧
      (bits x 32 32 = 0 → Dev 0x128 { s with vdgcount := x.setWidth 32 }) ∧
      (x.toNat < 97 → Dev 0x130 { s with winsel := x.setWidth 7 }) ∧
      (wheelNamed x → Dev 0x100 { s with whsel := x.setWidth 21 }) ∧
      (x &&& 0x6060606060606060 = 0 → Dev 0x101 (s.writeWhdata x)) ∧
      (bits x 37 27 = 0 → bits x 16 16 = 0 → Dev 0x102 (({ s with c0vd := BitVec.ofNat 5 (bits x 32 5) } : State).updVd
        (bits x 32 5) fun v => { v with c0lim := BitVec.ofNat 16 (bits x 0 16) })) ∧
      (bits x 48 16 = 0 → bits x 1 11 = 0 → let v := s.vdsel.toNat
        ∃ u, exec (i 0x122) s = .next u ∧ (u.vd v).s2root = x ∧ (∀ q, ∀ e ∈ (u.tileAt q).core.tlb, e.vd ≠ v) ∧
          u.core.status = .tlbi (s.outstanding v) (s.threadsOut v) ∧ u.core.pc = k.pc ∧ u.mem = s.mem) ∧
      (bits x 12 52 = 0 → 1 ≤ bits x 0 4 → bits x 0 4 ≤ 5 → let v := s.vdsel.toNat
        (s.vdBusy = none → let r := s.vdCommand (bits x 0 4) v
          (r.1 = true → exec (i 0x129) s = .next (r.2.setCore r.2.core.retire)) ∧
          (r.1 = false → exec (i 0x129) s = .next (Held { r.2 with vdBusy := some (some s.cur, v) }))) ∧
        (∀ m, s.vdBusy = some (some s.cur, m) → let r := s.vdCommand 5 m
          (r.1 = true → let u := ({ r.2 with vdBusy := none } : State)
            exec (i 0x129) s = .next (u.setCore u.core.retire)) ∧
          (r.1 = false → exec (i 0x129) s = .next (Held r.2))) ∧
        (∀ w m, s.vdBusy = some (w, m) → w ≠ some s.cur → exec (i 0x129) s = .next s)))

/-- ERET waits for the release at tile scope, then gives level, loop stack and RPST back from the shadow, leaves the
handler, and goes on at EPC; CAUSE, EVAL, ESTEP, FMODE, FSTAT and every other register stay (R66, R259, R367). -/
def Obligations.EretReturns : Prop :=
  ∀ (c : Guard) (s : State), Runs .handler false c s →
    let k := s.core
    let calm : Prop := ∀ a ∈ s.accs, a.party = .task s.cur → a.isFence = true ∨ a.st = .performed ∨ s.inScope .tile a = false
    (calm → exec (.eret c) s = .next (s.setCore { k with
      lvl := k.shadow.lvl, loops := k.shadow.loops, rpPend := k.shadow.rpPend, rpCount := k.shadow.rpCount
      inH := false, pc := k.epc })) ∧
    (¬calm → exec (.eret c) s = .next s)
end

namespace Sys2Proof.Claims
open Sys2Proof.Machine

/-! ### Privileged instructions -/

/-- The instruction writes x to g[D] and goes on, in the device m. -/
def EndsWith (i : Instr) (s m : State) (d : GReg) (x : Word) : Prop :=
  exec i s = .next (m.setCore (m.core.wrG d x).retire)

/-- Translations of VD vd that f picks have left every TLB, and the instruction caches and GATHER bases of the VD's tiles are
empty, of idle ones too; the instruction waits for the accesses, the posted writes and the engine threads of the VD
(R197, R198, R278). -/
structure Invalidated (s u : State) (vd : Nat) (f : Tlb → Prop) : Prop where
  tlb : ∀ q e, e ∈ (u.tileAt q).core.tlb ↔ e ∈ (s.tileAt q).core.tlb ∧ ¬(e.vd = vd ∧ f e)
  cache : ∀ q, let c := (s.tileAt q).core
    let mine : Prop := c.ofVd = vd ∨ c.lastOwner = some vd
    (mine → (u.tileAt q).core.icache = [] ∧ ∀ j : Fin 4, (u.tileAt q).fab.slots[j].op.base = none) ∧
    (¬mine → (u.tileAt q).core.icache = c.icache ∧ (u.tileAt q).fab = (s.tileAt q).fab)
  status : ∃ ids ths, u.core.status = .tlbi ids ths ∧
    (∀ n, n ∈ ids ↔ (∃ a ∈ s.accs, a.id = n ∧ a.vd = vd ∧ a.st ≠ .performed ∧ a.isFence = false) ∨
      ∃ p ∈ s.posted, p.id = n ∧ p.fn = vd + 1) ∧
    ∀ n, n ∈ ths ↔ ∃ x ∈ s.threads, x.id = n ∧ x.vd = vd
  kept : (∀ r, u.g r = s.g r) ∧ u.core.pc = s.core.pc ∧ u.mem = s.mem ∧ u.accs = s.accs ∧ u.vds = s.vds ∧ u.posted = s.posted

/-- An address lies in a page. -/
def inPage (a base size : Nat) : Prop := base ≤ a ∧ a < base + size

/-- An access, a posted write or an engine thread of a window's peer that is still to go through window k (R274). -/
def throughWindow (s : State) (k : Nat) (y : Window) : Prop :=
  (∃ a ∈ s.accs, a.win = k ∧ a.vd = y.peer ∧ a.st ≠ .performed) ∨
  (∃ p ∈ s.posted, p.fn = y.peer + 1 ∧ ∃ q ∈ p.parts, q.2.1 = k) ∨
  ∃ x ∈ s.threads, x.vd = y.peer ∧ ((∃ r ∈ x.reads, r.2.win = k ∨ ∃ o ∈ r.2.outs, o.win = k) ∨ ∃ o ∈ x.outs, o.win = k)

/-- A failing check of what an instruction reads or is to write ends it as LD or ST would, with nothing done (R200). -/
def FailsLike (i : Instr) (s : State) (e : Halt) : Prop :=
  (e = .wait → exec i s = .next s) ∧
  ∀ cause va, e = .trap cause va → untakable cause = false → HasHandler s → Traps i s cause va

/-- A unit of 4 KiB lies in a page with D set among the units us (R201). -/
def unitDirty (us : List (Option (Nat × Nat × Bool))) (i : Nat) : Prop :=
  ∃ (p loc : Nat) (b : Bool), us[i]? = some (some (p, loc, b)) ∧ ∃ (j loc' : Nat), us[j]? = some (some (p, loc', true))

end Sys2Proof.Claims

section
open Sys2Proof Sys2Proof.Machine Sys2Proof.Claims

/-- TLBI. Once the task's accesses are performed, the translations that a form names leave every TLB, and TLBI waits for the
accesses, posted writes and engine threads of the VD; their end retires it. In H the VA forms act on the VD last named; an S2
form that names no VD has no effect (R197, R198, R410). When translations enter and leave a TLB, and that the wait is for what
stands at the removal, are the model's choice (log entries 8, 35). -/
def Sys2Proof.Claims.TlbiInvalidatesAndWaits : Prop :=
  (∀ (c : Guard) (a d : GReg) (s : State), s.accsOf (.task s.cur) = [] →
    (Runs .sh false c s →
      let vd := if s.core.lvl = .h then s.core.lastVd else s.core.ofVd
      (∃ u, exec (.tlbiVa c a) s = .next u ∧ Invalidated s u vd fun e => inPage ((s.g a).toNat % 2 ^ 48) e.vbase e.vsize) ∧
      (∃ u, exec (.tlbiAll c) s = .next u ∧ Invalidated s u vd fun _ => True)) ∧
    (Runs .h false c s →
      let vd := (s.g d).toNat
      let named : Prop := vd < 32 ∧ (s.vd vd).st ≠ .none
      (¬named → GivesNothing (.tlbiS2 c d a) s ∧ GivesNothing (.tlbiS2all c d) s) ∧
      (named →
        (∃ u, exec (.tlbiS2 c d a) s = .next u ∧ u.core.lastVd = vd ∧
          Invalidated s u vd fun e => inPage (s.g a).toNat e.ibase e.isize) ∧
        (∃ u, exec (.tlbiS2all c d) s = .next u ∧ u.core.lastVd = vd ∧ Invalidated s u vd fun _ => True)))) ∧
  (∀ (s : State) (ids ths : List Nat), s.core.status = .tlbi ids ths →
    let out : Prop := (∃ a ∈ s.accs, a.id ∈ ids ∧ a.st ≠ .performed) ∨ (∃ p ∈ s.posted, p.id ∈ ids) ∨
      ∃ x ∈ s.threads, x.id ∈ ths
    (out → exec (.tlbiAck s.cur) s = .next s) ∧
    (¬out → ∃ u, exec (.tlbiAck s.cur) s = .next u ∧ u.core.status = .run ∧ Retired s.core u.core ∧
      (∀ r, u.g r = s.g r) ∧ u.mem = s.mem ∧ u.accs = s.accs ∧ u.core.tlb = s.core.tlb))

/-- DIRTY reads its descriptor by loads of the core, once its earlier accesses are performed; one outside its limits writes
all ones. Otherwise the translations of the range leave every TLB; while an access, posted write or engine thread of the VD is
out the instruction waits; then D is cleared in the entries of the range, bit i of the bitmap says whether unit i is in a page
whose D was set, and the bitmap is stored as ST stores; once that is performed g[D] is the number of those units. A check that
fails is that of LD or ST (R200, R201, R206, R364). That the steps start again while something is out, and that the last one
is one turn, are the model's choice (log entries 7, 8, 32, 80). -/
def Sys2Proof.Claims.DirtyHarvests : Prop :=
  ∀ (c : Guard) (d a : GReg) (s : State), Runs .h false c s →
    let i := Instr.dirty c d a
    (s.core.readings = [] →
      (s.accsOf (.task s.cur) ≠ [] → exec i s = .next s) ∧
      (s.accsOf (.task s.cur) = [] →
        (∀ e, s.checkParts .read 8 false (dwordParts (s.g a) 4) = .error e → FailsLike i s e) ∧
        ∀ ps s1, s.checkParts .read 8 false (dwordParts (s.g a) 4) = .ok (ps, s1) → ReadsOn i s s1 ps .plain .tile)) ∧
    (∀ q, s.core.readings = [q] → q.parts ≠ [] → exec i s = .next s) ∧
    (∀ p q, s.core.readings = [p, q] → (q.parts ≠ [] → exec i s = .next s) ∧
      (q.parts = [] → GivesG i s d (BitVec.ofNat 64 q.got))) ∧
    (∀ v, s.core.readings = [⟨[], v⟩] →
      let vd := (BitVec.ofNat 64 v).toNat
      let start := (BitVec.ofNat 64 (v / 2 ^ 64)).toNat
      let n := (BitVec.ofNat 64 (v / 2 ^ 128)).toNat
      let w3 := BitVec.ofNat 64 (v / 2 ^ 192)
      let fields : Prop := vd < 32 ∧ (s.vd vd).st ≠ .none ∧ start % 4096 = 0 ∧ 1 ≤ n ∧ n ≤ 262144 ∧ w3.toNat % 8 = 0
      let inside (at0 : Nat) (x : Option Leaf) : Prop := ∃ l, x = some l ∧ 4096 < l.size ∧ at0 % l.size ≠ 0
      (¬fields → GivesG i s d 0xFFFFFFFFFFFFFFFF) ∧
      (fields → ∀ e, s.leaves (s.g a) vd start (n + 1) = .error e → FailsLike i s e) ∧
      (fields → ∀ ls first last, s.leaves (s.g a) vd start (n + 1) = .ok ls → ls[0]? = some first → ls[n]? = some last →
        let whole : Prop := ¬inside start first ∧ ¬inside (start + 4096 * n) last
        let spots := s.checkParts .write 8 false (dwordParts w3 ((n + 63) / 64))
        (¬whole → GivesG i s d 0xFFFFFFFFFFFFFFFF) ∧
        (whole → ∀ e, spots = .error e → FailsLike i s e) ∧
        (whole → ∀ ps s2, spots = .ok (ps, s2) →
          let s3 := s2.dropTlb vd fun e => decide (e.ibase < start + 4096 * n) && decide (start < e.ibase + e.isize)
          let us := unitsOf start (ls.take n)
          let out : Prop := s3.outstanding vd ≠ [] ∨ s3.threadsOut vd ≠ []
          (out → exec i s = .next s3) ∧
          (¬out → s2.core.status = .run → Memory.wf s.mem = true → (∀ y loc b, some (y, loc, b) ∈ us → loc < Config.hbmSize) →
            ∃ (u s4 : State) (l : List Nat) (m : Nat), exec i s = .next u ∧ l.Nodup ∧ (∀ j, j ∈ l ↔ j < n ∧ unitDirty us j) ∧
              (∀ j, m.testBit j = decide (j ∈ l)) ∧ s4.core = s3.core ∧ s4.accs = s3.accs ∧ s4.sent = s3.sent ∧
              (∀ y loc, some (y, loc, true) ∈ us → Memory.get s4.mem loc = Memory.get s3.mem loc &&& 0x7F) ∧
              (∀ x, (∀ y loc, some (y, loc, true) ∈ us → x ≠ loc) → Memory.get s4.mem x = Memory.get s3.mem x) ∧
              let s5 := s4.putOwn m (ownOf s4 ps)
              AwaitsParts s5 u (othersOf s4 ps) l.length ∧
              PartsIssued s5 u.accs (othersOf s4 ps) .store .plain .tile fun y off k => ∀ b, b < 8 * k →
                y.mask.getLsbD b = true ∧ y.data.getLsbD b = decide (8 * off + b ∈ l)))))

/-- SCRUB of a bad rectangle gives 1, of one with a placed region or a task 2; otherwise every tile of it is at reset, its
store zero, and 0 is written. FRZ and FRZ.VD check in their order, ask each region to stop with the freeze wave and wait for
the saves; they then give 0, or 6 where a region was lost. A thaw lets the VD run on: its dispatcher enters its handler with
PREEMPT, unless the VD is fenced (R253, R261, R262, R370, R371, R401). That a dispatcher in its handler enters it again, with
the step at which a macro-op stopped, when the status of a region counts, and that firmware stops when the RCB that FRZ names
fails verification, are the model's choice (log entries 33, 64, 65). -/
def Obligations.ScrubAndFreeze : Prop :=
  (∀ (c : Guard) (d a : GReg) (s : State), Runs .h false c s →
    let x := s.g a
    let i := Instr.scrub c d a
    let w := bits x 16 6 + 1
    let h := bits x 24 6 + 1
    let bad : Prop := bits x 30 34 ≠ 0 ∨ bits x 22 2 ≠ 0 ∨ bits x 14 2 ≠ 0 ∨ bits x 6 2 ≠ 0 ∨ 64 < bits x 0 6 + w ∨
      64 < bits x 8 6 + h
    let inside (t : Nat) : Prop := t ∈ rectTiles (bits x 0 6) (bits x 8 6) w h
    let held : Prop := ∃ t, inside t ∧ (s.regionAt t ≠ none ∨ (s.tileAt t).core.task ≠ none)
    (bad → GivesG i s d 1) ∧ (¬bad → held → GivesG i s d 2) ∧
    (¬bad → ¬held → ¬inside s.cur → ∃ u, exec i s = .next u ∧ u.g d = 0 ∧ OthersKept s u [d] [] [] [] ∧
      Retired s.core u.core ∧ u.accs = s.accs ∧ (∀ t, inside t → u.tileAt t = {}) ∧
      (∀ t, ¬inside t → t ≠ s.cur → u.tileAt t = s.tileAt t) ∧
      ∀ y, Memory.get u.mem y = if ∃ t, inside t ∧ windowPa t ≤ y ∧ y < windowPa t + Config.tileStore then 0
        else Memory.get s.mem y)) ∧
  (∀ (c : Guard) (d a : GReg) (s : State), Runs .h false c s →
    let frz := Instr.frz c d a
    let frzVd := Instr.frzVd c d a
    let mine := s.myFreezes
    let ended (st : Word) (i : Instr) : Prop := EndsWith i s (({ s with frozenBy := s.frozenBy.filter fun q => q.1 != s.cur } :
      State).setCore { s.core with freezing := false }) d st
    let Began (i : Instr) (l : List Nat) (ice : Option Nat) : Prop := ∃ u, exec i s = .next u ∧ u.core.freezing = true ∧
      u.core.opWord = s.ir ∧ u.core.pc = s.core.pc ∧ (∀ r, u.g r = s.g r) ∧ u.mem = s.mem ∧ u.accs = s.accs ∧
      (∀ r ∈ l, ∀ y, s.region r = some y → y.place.isSome = true → (s.cur, r, 0) ∈ u.frozenBy ∧
        ∃ z, u.region r = some z ∧ z.stop = .wave ∧ z.hat.isSome = true) ∧ ∀ v, ice = some v → (u.vd v).frozen = true
    (s.accsOf (.task s.cur) ≠ [] → exec frz s = .next s ∧ exec frzVd s = .next s) ∧
    (s.accsOf (.task s.cur) = [] → s.core.freezing = true →
      (0 ∈ mine → exec frz s = .next s ∧ exec frzVd s = .next s) ∧
      (0 ∉ mine → ended (if 2 ∈ mine then 6 else 0) frz ∧
        let vd := bits (s.g a) 0 5
        let still : Prop := (s.hasDispatcher vd = true → (s.tileAt (s.vd vd).steward).core.status = .stopped) ∧
          ∀ x ∈ s.threads, x.vd ≠ vd
        (still → ended 0 frzVd) ∧ (¬still → exec frzVd s = .next s))) ∧
    (s.accsOf (.task s.cur) = [] → s.core.freezing = false →
      (let vd := (s.g d).toNat
       let named : Prop := vd < 32 ∧ (s.vd vd).st ≠ .none
       (¬named → GivesG frz s d 1) ∧
       (named → s.frzWaits vd (s.g a) = true → exec frz s = .next s) ∧
       let whole : Prop := s.frzWaits vd (s.g a) = false ∧ s.frzIntegrity vd (s.g a) = false
       (named → s.frzWaits vd (s.g a) = false → s.frzIntegrity vd (s.g a) = true → s.core.task.any (·.role == .firmware) = true → ∃ u, exec frz s = .next u ∧ u.core.status = .stopped ∧
         u.core.cause = 0x0A ∧ u.core.eval = s.g a ∧ (∀ r, u.g r = s.g r) ∧ u.regions = s.regions) ∧
       (named → whole → s.frzRegion vd (s.g a) = none → GivesG frz s d 2) ∧
       (∀ r, named → whole → s.frzRegion vd (s.g a) = some r →
         ((s.vd vd).st = .fenced → GivesG frz s d 5) ∧
         ((s.vd vd).st ≠ .fenced → s.askStop .wave (s.unit r) = none → GivesG frz s d 4) ∧
         ((s.vd vd).st ≠ .fenced → s.askStop .wave (s.unit r) ≠ none → Began frz (s.unit r) none))) ∧
      (let x := s.g a
       let vd := bits x 0 5
       let placed := (s.regionsOf vd).filter fun r => (s.region r).any fun y => y.place.isSome
       let named : Prop := bits x 9 55 = 0 ∧ bits x 5 3 = 0 ∧ (s.vd vd).st ≠ .none
       (¬named → GivesG frzVd s d 1) ∧
       (named → (s.vd vd).frozen ≠ x.getLsbD 8 → GivesG frzVd s d 3) ∧
       (named → (s.vd vd).frozen = x.getLsbD 8 → (s.vd vd).st = .fenced → GivesG frzVd s d 5) ∧
       (named → (s.vd vd).frozen = true → x.getLsbD 8 = true → (s.vd vd).st ≠ .fenced → EndsWith frzVd s (s.thaw vd) d 0) ∧
       (named → (s.vd vd).frozen = false → x.getLsbD 8 = false → (s.vd vd).st ≠ .fenced →
         (s.askStop .wave placed = none → GivesG frzVd s d 4) ∧
         (s.askStop .wave placed ≠ none → Began frzVd placed (some vd)))))) ∧
  (∀ (vd : Fin 32) (s : State), (s.vd vd).frozen = true → ∃ u, exec (.frzVdThaw vd) s = .next u ∧
    (u.vd vd).frozen = false ∧ u.mem = s.mem ∧ u.regions = s.regions ∧
    (∀ k, let t := (s.vd vd).steward
      let c := (s.tileAt t).core
      let e := (u.tileAt t).core
      c.status = .stopped → c.task = some k → k.role = .dispatcher →
      ((s.vd vd).st = .fenced → e = c) ∧
      ((s.vd vd).st ≠ .fenced →
        (c.trapv ≠ 0 → k.fell = none → e.status = .run ∧ e.cause = 0x20 ∧ e.eval = 0 ∧ e.pc = c.trapv ∧ e.epc = c.pc ∧
          e.inH = true ∧ e.lvl = .s ∧ e.shadow = ⟨c.lvl, c.loops, c.rpPend, c.rpCount⟩ ∧
          e.estep = (if c.estep.getLsbD 63 then c.estep else 0) ∧
          (∀ n, c.resume = .barrier n → e.barAt = some (n, c.pc, false))) ∧
        (c.trapv = 0 ∨ k.fell ≠ none → e = { c with status := c.resume, resume := .idle }))))

/-- WKEY waits for the task's accesses and for another WKEY in progress; OFFER and ACCEPT read their descriptor as LD reads it;
then each form writes its status: 1 for a field
outside its limits, 2 for the wrong state, 3 for the wrong VD, 4 and 5 of OFFER; with 0 the window is offered, accepted,
live once every granule is re-keyed, closed once every granule is back, or free. CLOSE of a live window waits for the accesses,
posted writes and threads of the peer that go through it (R271, R273, R274, R439). The order in which statuses are judged, and
that a re-keying goes granule by granule, are the model's choice (log entries 23, 66). -/
def Obligations.WkeyMovesWindows : Prop :=
  ∀ (c : Guard) (d a : GReg) (s : State), s.guard c = true →
    let offer := Instr.wkeyOffer c d a
    let accept := Instr.wkeyAccept c d a
    let install := Instr.wkeyInstall c d a
    let close := Instr.wkeyClose c d a
    let free := Instr.wkeyFree c d a
    let mine := s.core.ofVd
    let lvl := s.core.lvl
    let task : Prop := s.core.inH = false
    let forms := if lvl = .s then [offer, accept, close] else if lvl = .h then [install, close, free] else []
    let Held (m : State) : State := m.setCore { m.core with opWord := m.ir }
    let turn : Prop := (s.core.readings = [] → s.accsOf (.task s.cur) = []) ∧ ∀ t, s.wkey = some t → t = s.cur
    let k := (s.g a).toNat
    let numbered : Prop := 1 ≤ k ∧ k ≤ 96
    let y := s.win k
    let with_ (z : Window) : State := s.setWin k z
    (task → ¬turn → ∀ i ∈ forms, exec i s = .next s) ∧
    (task → turn → lvl = .s → s.core.readings = [] → ∀ i ∈ [offer, accept],
      (∀ e, s.checkParts .read 8 false (dwordParts (s.g a) 4) = .error e → FailsLike i s e) ∧
      ∀ ps s1, s.checkParts .read 8 false (dwordParts (s.g a) 4) = .ok (ps, s1) → ReadsOn i s s1 ps .plain .tile) ∧
    (task → turn → lvl = .s → ∀ q, s.core.readings = [q] → q.parts ≠ [] → exec offer s = .next s ∧ exec accept s = .next s) ∧
    (task → turn → lvl = .s → ∀ v, s.core.readings = [⟨[], v⟩] →
      let w0 := BitVec.ofNat 64 v
      let w1 := BitVec.ofNat 64 (v / 2 ^ 64)
      let w2 := BitVec.ofNat 64 (v / 2 ^ 128)
      let w3 := BitVec.ofNat 64 (v / 2 ^ 192)
      (let peer := bits w0 0 5
       let n := w2.toNat
       let good : Prop := bits w0 9 55 = 0 ∧ bits w0 5 3 = 0 ∧ w3 = 0 ∧ w1.toNat % 0x20000 = 0 ∧ 1 ≤ n ∧ n ≤ 8192
       let other : Prop := peer ≠ mine ∧ (s.vd peer).st ≠ .none
       let table := s.leaves (s.g a) mine w1.toNat (32 * n)
       (¬good → GivesG offer s d 1) ∧ (good → ¬other → GivesG offer s d 4) ∧
       (∀ e, good → other → table = .error e → FailsLike offer s e) ∧
       (∀ ls, good → other → table = .ok ls → granulesOf w1.toNat [] ls = none → GivesG offer s d 4) ∧
       (∀ ls gs, good → other → table = .ok ls → granulesOf w1.toNat [] ls = some gs →
         ((∃ g ∈ gs, s.windowHolds g = true) → GivesG offer s d 4) ∧
         ((∀ g ∈ gs, s.windowHolds g = false) →
           ((∀ q, 1 ≤ q → q ≤ 96 → (s.win q).st ≠ .free) → GivesG offer s d 5) ∧
           (∀ q, 1 ≤ q → q ≤ 96 → (s.win q).st = .free → (∀ z, 1 ≤ z → z < q → (s.win z).st ≠ .free) →
             EndsWith offer s (s.setWin q { st := .offered, owner := mine, peer := peer, w := w0.getLsbD 8, start := w1,
                                            count := w2, granules := gs }) d (BitVec.ofNat 64 (q * 256)))))) ∧
      (let q := bits w0 0 7
       let good : Prop := bits w0 7 57 = 0 ∧ 1 ≤ q ∧ q ≤ 96 ∧ w2 = 0 ∧ w3 = 0 ∧ w1.toNat % 0x20000 = 0
       (¬good → GivesG accept s d 1) ∧ (good → (s.win q).st ≠ .offered → GivesG accept s d 2) ∧
       (good → (s.win q).st = .offered → (s.win q).peer ≠ mine → GivesG accept s d 3) ∧
       (good → (s.win q).st = .offered → (s.win q).peer = mine →
         EndsWith accept s (s.setWin q { (s.win q) with st := .accepted, base := w1 }) d 0))) ∧
    (task → turn → lvl = .h →
      (¬numbered → GivesG install s d 1 ∧ GivesG free s d 1) ∧
      (numbered →
        (s.wkey = none → (y.st ≠ .accepted → GivesG install s d 2) ∧
          (y.st = .accepted → exec install s = .next { Held (with_ { y with st := .installing, rekeyed := [] }) with
            wkey := some s.cur, keys := (31 + k, s.tick) :: s.keys.filter (fun q => q.1 != 31 + k), tick := s.tick + 1 })) ∧
        (s.wkey = some s.cur →
          (∀ g, y.granules.find? (fun z => !y.rekeyed.contains z) = some g →
            exec install s = .next (with_ { y with rekeyed := y.rekeyed ++ [g] })) ∧
          ((∀ g ∈ y.granules, g ∈ y.rekeyed) →
            EndsWith install s { with_ { y with st := .live, rekeyed := [] } with wkey := none } d 0)) ∧
        (y.st ≠ .closed → GivesG free s d 2) ∧
        (y.st = .closed → EndsWith free s { with_ {} with keys := s.keys.filter fun q => q.1 != 31 + k } d 0))) ∧
    (task → turn → lvl ≠ .u →
      (¬numbered → GivesG close s d 1) ∧
      (numbered → s.wkey = none →
        let able : Prop := y.st = .offered ∨ y.st = .accepted ∨ y.st = .live
        let party : Prop := lvl = .s → y.owner = mine ∨ y.peer = mine
        (¬able → GivesG close s d 2) ∧ (able → ¬party → GivesG close s d 3) ∧
        (able → party → y.st ≠ .live → EndsWith close s (with_ {}) d 0) ∧
        (able → party → y.st = .live →
          exec close s = .next { Held (with_ { y with st := .closing, rekeyed := [] }) with wkey := some s.cur })) ∧
      (numbered → s.wkey = some s.cur →
        (throughWindow s k y → exec close s = .next s) ∧
        (¬throughWindow s k y →
          (∀ g, y.granules.find? (fun z => !y.rekeyed.contains z) = some g →
            exec close s = .next (with_ { y with rekeyed := y.rekeyed ++ [g] })) ∧
          ((∀ g ∈ y.granules, g ∈ y.rekeyed) →
            EndsWith close s { with_ { y with st := .closed, rekeyed := [] } with wkey := none } d 0))))
end

namespace Sys2Proof.Claims
open Sys2Proof.Machine

/-! ### Commands and register writes -/

/-- Bytes [a, a + n) of device memory are zero, every other byte is as before. -/
def ZeroedAt (s u : State) (range : Nat → Prop) : Prop :=
  (∀ y, range y → Memory.get u.mem y = 0) ∧ ∀ y, ¬range y → Memory.get u.mem y = Memory.get s.mem y

/-- A command that has ended with a status: VDCMD holds both (R234). -/
def CommandEnded (u : State) (op st : Nat) : Prop := u.vdOp = BitVec.ofNat 4 op ∧ u.vdStatus = BitVec.ofNat 4 st

/-- A byte of one of the granules [g, g + n) of a size. -/
def inGranules (base size g n y : Nat) : Prop := base + g * size ≤ y ∧ y < base + (g + n) * size

/-- No translation of a VD is left. -/
def NoTlb (u : State) (vd : Nat) : Prop := ∀ q, ∀ e ∈ (u.tileAt q).core.tlb, e.vd ≠ vd

/-- The device stands but for what is named: memory, accesses, regions, threads, VDs, windows. -/
structure DeviceKept (s u : State) : Prop where
  mem : u.mem = s.mem
  accs : u.accs = s.accs ∧ u.threads = s.threads
  regions : u.regions = s.regions
  wins : u.wins = s.wins
  cur : u.cur = s.cur

/-- Only the core of tile t has changed. -/
def OnlyCoreOf (s u : State) (t : Nat) (c : Core) : Prop :=
  (u.tileAt t).core = c ∧ (u.tileAt t).fab = (s.tileAt t).fab ∧ (∀ q, q ≠ t → u.tileAt q = s.tileAt q) ∧
    DeviceKept s u ∧ u.vds = s.vds

end Sys2Proof.Claims

section
open Sys2Proof Sys2Proof.Machine Sys2Proof.Claims

/-- CREATE, GRANT and REVOKE check in the order of their statuses and change nothing when they fail. CREATE zeroes the
hatbox, scrubs the rectangle and sets CREATED; GRANT adds granules and zeroes them; REVOKE takes them away: none of their
bytes can be read any more. A command waits while another is in progress (R234, R235, R253, R271). That bytes whose counters
are gone read as blocks that fail verification, in which order statuses are judged, and that a command is one turn, are the
model's choice (log entries 14, 23, 24, 82). -/
def Sys2Proof.Claims.VdCommandsCreateGrantRevoke : Prop :=
  ∀ (vd : Fin 32) (s : State),
    let v := s.vd vd
    let n := vd.val
    let Fails (i : Instr) (op st : Nat) : Prop := exec i s = .next { s with vdOp := BitVec.ofNat 4 op, vdStatus := BitVec.ofNat 4 st }
    (s.vdBusy ≠ none → ∀ i ∈ [Instr.vdCreate vd, .vdGrant vd, .vdRevoke vd], exec i s = .next s) ∧
    (s.vdBusy = none →
    (let col := bits v.rect 0 6
     let row := bits v.rect 8 6
     let w := bits v.rect 16 6 + 1
     let h := bits v.rect 24 6 + 1
     let inside (t : Nat) : Prop := t ∈ rectTiles col row w h
     let free : Prop := col + w ≤ 64 ∧ row + h ≤ 64 ∧ ∀ t, inside t → ∀ o ∈ s.vds.toList, o.owns t = false
     let hat : Prop := 2 * (w * h) ≤ bits v.hslots 0 16 ∧ (v.hatFirst + v.hatGranules) * 0x20000 ≤ Config.hbmSize ∧
       ∀ g, v.hatFirst ≤ g → g < v.hatFirst + v.hatGranules → s.taken g = false
     let i := Instr.vdCreate vd
     (v.st ≠ .none → Fails i 1 2) ∧ (v.st = .none → ¬free → Fails i 1 3) ∧ (v.st = .none → free → ¬hat → Fails i 1 4) ∧
     (v.st = .none → free → hat → ¬inside s.cur → ∃ u, exec i s = .next u ∧ CommandEnded u 1 0 ∧
       u.vd n = { v with st := .created, gen := 0, frozen := false, bars := Vector.replicate 16 {}, barSel := 0, colls := [] } ∧
       (∀ m, m ≠ n → u.vd m = s.vd m) ∧ (∀ b ∈ u.bad, b ∈ s.bad ∧ ¬inGranules 0 0x20000 v.hatFirst v.hatGranules (64 * b)) ∧
       u.keys.head? = some (n, s.tick) ∧ (∀ t, inside t → u.tileAt t = {}) ∧ (∀ t, ¬inside t → u.tileAt t = s.tileAt t) ∧
       ZeroedAt s u (fun y => inGranules 0 0x20000 v.hatFirst v.hatGranules y ∨
         ∃ t, inside t ∧ windowPa t ≤ y ∧ y < windowPa t + Config.tileStore) ∧ u.regions = s.regions ∧ u.accs = s.accs)) ∧
    (let felt := s.vdgbase.getLsbD 0
     let base := bits s.vdgbase 12 36 * 4096
     let size := if felt then 0x200000 else 0x20000
     let first := if felt then Config.feltBase else 0
     let g := (base - first) / size
     let k := s.vdgcount.toNat
     let fields : Prop := k ≠ 0 ∧ base % size = 0
     let usable : Prop := if felt then Config.feltBase ≤ base ∧ base + k * size ≤ Config.feltBase + 8 * 2 ^ 30
       else base + k * size ≤ Config.hbmSize
     let mine (z : Nat) : Prop := if felt then z ∈ v.felt else z ∈ v.hbm
     (let i := Instr.vdGrant vd
      let able : Prop := v.st = .created ∨ v.st = .running
      let unowned : Prop := ∀ z, g ≤ z → z < g + k → if felt then ∀ o ∈ s.vds.toList, z ∉ o.felt else s.taken z = false
      (¬fields → Fails i 2 1) ∧ (fields → ¬able → Fails i 2 2) ∧ (fields → able → ¬usable → Fails i 2 4) ∧
      (fields → able → usable → ¬unowned → Fails i 2 5) ∧
      (fields → able → usable → unowned → ∃ u, exec i s = .next u ∧ CommandEnded u 2 0 ∧ (u.vd n).st = v.st ∧
        (∀ z, z ∈ (if felt then (u.vd n).felt else (u.vd n).hbm) ↔ mine z ∨ (g ≤ z ∧ z < g + k)) ∧
        (if felt then (u.vd n).hbm = v.hbm else (u.vd n).felt = v.felt) ∧ (∀ m, m ≠ n → u.vd m = s.vd m) ∧
        ZeroedAt s u (inGranules first size g k) ∧ (felt = false → ∀ y, inGranules 0 size g k y → y / 64 ∉ u.bad) ∧
        (∀ q, u.tileAt q = s.tileAt q) ∧ u.accs = s.accs)) ∧
     (let i := Instr.vdRevoke vd
      let able : Prop := v.st ≠ .none
      let owned : Prop := ∀ z, g ≤ z → z < g + k → mine z ∧ (felt = false → s.windowHolds z = false)
      (¬fields → Fails i 3 1) ∧ (fields → ¬able → Fails i 3 2) ∧ (fields → able → ¬usable → Fails i 3 4) ∧
      (fields → able → usable → ¬owned → Fails i 3 5) ∧
      (fields → able → usable → owned → ∃ u, exec i s = .next u ∧ CommandEnded u 3 0 ∧ (u.vd n).st = v.st ∧
        (∀ z, z ∈ (if felt then (u.vd n).felt else (u.vd n).hbm) ↔ mine z ∧ ¬(g ≤ z ∧ z < g + k)) ∧
        (if felt then (u.vd n).hbm = v.hbm else (u.vd n).felt = v.felt) ∧ (∀ m, m ≠ n → u.vd m = s.vd m) ∧
        ZeroedAt s u (inGranules first size g k) ∧ (felt = false → ∀ y, inGranules 0 size g k y → u.isBad y = true) ∧
        (∀ q, u.tileAt q = s.tileAt q) ∧ u.accs = s.accs))))

/-- START starts the dispatcher on the steward tile in S mode at VDDISP with the VD number in g1, S1ROOT takes VDS1INIT, and
DSTOP and its cause leave the status pair, with vector 0. DESTROY of a VD that has a window is refused; it kills the VD's
regions and dispatcher, waits for writes that have left an order buffer while no other command runs, then takes its key,
granules, wheel slots and tiles, and the state is NONE (R54, R235, R254, R256, R271, R282). The parts in which a DESTROY goes
on, that it drops the function's writes that still wait, how lost granules read, in which order statuses are judged, that the
dispatcher starts with SLOTCLS 0, and where MSI-X vectors are masked and pending are the model's choice (log entries 14, 22,
23, 24, 70, 82). -/
def Sys2Proof.Claims.VdCommandsStartDestroy : Prop :=
  ∀ (vd : Fin 32) (s : State),
    let v := s.vd vd
    let n := vd.val
    let Fails (i : Instr) (op st : Nat) : Prop := exec i s = .next { s with vdOp := BitVec.ofNat 4 op, vdStatus := BitVec.ofNat 4 st }
    let idle : Prop := s.vdBusy = none
    (let i := Instr.vdStart vd
     let fields : Prop := v.disp.toNat % 8 = 0 ∧ bits v.s1init 48 16 = 0 ∧ bits v.s1init 1 11 = 0
     let able : Prop := v.st = .created ∨ (v.st = .running ∧ s.hasDispatcher n = false)
     let t := v.steward
     let page := mailbox (n + 1)
     (¬idle → exec i s = .next s) ∧
     (idle → ¬fields → Fails i 4 1) ∧ (idle → fields → ¬able → Fails i 4 2) ∧
     (idle → fields → able → v.s2root.getLsbD 0 = false → Fails i 4 7) ∧
     (idle → fields → able → v.s2root.getLsbD 0 = true → Memory.wf s.mem = true → ∃ u o, exec i s = .next u ∧ CommandEnded u 4 0 ∧
       u.vd n = { v with st := .running, s1root := v.s1init } ∧ (∀ m, m ≠ n → u.vd m = s.vd m) ∧ NoTlb u n ∧
       o.lastOwner = some n ∧ o.owner = some (n, v.gen) ∧
       TaskStarted o (u.tileAt t).core v.disp (fun j => if j = 0 then BitVec.ofNat 64 n else 0) .s 0 0
         { role := .dispatcher, vd := n } ∧
       u.sent = s.sent ++ (if Memory.read s.mem (page + 0xE00C) 1 % 2 = 1 then [] else [.msix (n + 1) 0]) ∧
       Memory.read u.mem page 8 = s.stage % 256 + s.bootErr.toNat * 2 ^ 8 + (if s.ready then 2 ^ 16 else 0) ∧
       (∀ y, y < page ∨ page + 8 ≤ y → y ≠ page + 0xF000 → Memory.get u.mem y = Memory.get s.mem y) ∧
       u.regions = s.regions ∧ u.accs = s.accs)) ∧
    (let i := Instr.vdDestroy vd
     let shares : Prop := ∃ x ∈ s.wins.toList, x.st ≠ .free ∧ (x.owner = n ∨ x.peer = n)
     let k := s.vdKillAll n
     let out : Prop := ∃ a ∈ k.accs, a.vd = n ∧ (a.st = .queued ∨ a.st = .arrived) ∧ s.cycle < a.born + 700000 ∧ writesAt a
     let turn : Prop := idle ∨ s.vdBusy = some (none, n)
     (¬turn → exec i s = .next s) ∧
     (idle → v.st = .none → Fails i 5 2) ∧ (idle → v.st ≠ .none → shares → Fails i 5 6) ∧
     (turn → v.st ≠ .none → ¬shares → out → exec i s = .next { k with vdBusy := some (none, n) }) ∧
     (turn → v.st ≠ .none → ¬shares → ¬out → ∃ u, exec i s = .next u ∧ CommandEnded u 5 0 ∧ u.vdBusy = none ∧
       u.vd n = { v with st := .none, hbm := [], felt := [], frozen := false, s1root := 0, tlbctl := 0
                         bars := Vector.replicate 16 {}, barSel := 0, colls := [] } ∧
       (∀ a ∈ u.accs, a.vd = n → a.droppedByKill = false) ∧ (∀ p ∈ u.posted, p.fn ≠ n + 1) ∧ (∀ x ∈ u.threads, x.vd ≠ n) ∧
       (∀ y, (∃ g ∈ v.hbm, inGranules 0 0x20000 g 1 y) ∨ inGranules 0 0x20000 v.hatFirst v.hatGranules y →
         Memory.get u.mem y = 0 ∧ u.isBad y = true) ∧
       (∀ m, m ≠ n → u.vd m = s.vd m) ∧ (∀ q ∈ u.keys, q.1 ≠ n) ∧ (∀ q ∈ u.notifyDue, q.1 ≠ n) ∧
       (∀ t ∈ v.tiles, u.tileAt t = {}) ∧ (∀ r x, s.region r = some x → x.vd = n → ∃ y, u.region r = some y ∧ y.st = .done ∧
         y.place = none ∧ y.hat = none) ∧
       (∀ w ∈ u.wheels, ∀ j, j < 256 → (w.2.extractLsb' (8 * j) 8).toNat ≠ 128 + n) ∧
       (∀ t ∈ v.tiles, ∀ y, windowPa t ≤ y → y < windowPa t + Config.tileStore → Memory.get u.mem y = 0) ∧
       (∀ g ∈ v.felt, ∀ y, inGranules Config.feltBase 0x200000 g 1 y → Memory.get u.mem y = 0)))

/-- Register writes as they land, whoever made them: a value that the register accepts takes effect, any other changes
nothing. A wheel takes eight slots from the next revolution; a root takes every translation of its VD away; a slot of a g, p,
state, table or accumulator register takes its doubleword at an instruction boundary of its core (not within a macro-op, a
read, a WKEY, a FRZ or a command of VDCMD), one of an accumulator in flight is held (R50, R59, R177, R194, R234, R235, R242,
R287). That these writes land as turns of their own, that a write to an accumulator which holds nothing makes it valid and
dirty too, and from when a wheel's write shows, are the model's choice (log entries 14, 26, 28). -/
def Obligations.RegisterWritesLand : Prop :=
  (∀ (vd : Fin 32) (x : Word) (s : State),
    let legal : Prop := bits x 48 16 = 0 ∧ bits x 1 11 = 0
    (¬legal → exec (.vds2rootWrite vd x) s = .next s ∧ exec (.s1rootWrite vd x) s = .next s) ∧
    (legal → (∃ u, exec (.vds2rootWrite vd x) s = .next u ∧ u.vd vd = { s.vd vd with s2root := x } ∧ NoTlb u vd ∧
        DeviceKept s u ∧ ∀ m, m ≠ vd.val → u.vd m = s.vd m) ∧
      (∃ u, exec (.s1rootWrite vd x) s = .next u ∧ u.vd vd = { s.vd vd with s1root := x } ∧ NoTlb u vd ∧
        DeviceKept s u ∧ ∀ m, m ≠ vd.val → u.vd m = s.vd m))) ∧
  (∀ (x : Word) (s : State),
    let key := s.whKey
    let g := s.whsel.toNat / 65536 % 32
    (x &&& 0x6060606060606060 ≠ 0 → exec (.whdataWrite x) s = .next s) ∧
    (x &&& 0x6060606060606060 = 0 → ∃ u, exec (.whdataWrite x) s = .next u ∧ DeviceKept s u ∧ u.vds = s.vds ∧
      u.cycle = s.cycle ∧ (u.wheelSet key).extractLsb' (64 * g) 64 = x ∧
      (∀ j, j < 32 → j ≠ g → (u.wheelSet key).extractLsb' (64 * j) 64 = (s.wheelSet key).extractLsb' (64 * j) 64) ∧
      (∀ q, u.wheel q = s.wheel q) ∧ ∀ q, q ≠ key → u.wheelSet q = s.wheelSet q) ∧
    (let legal : Prop := bits x 37 27 = 0 ∧ bits x 16 16 = 0
     let v := bits x 32 5
     (¬legal → exec (.c0limWrite x) s = .next s) ∧
     (legal → exec (.c0limWrite x) s = .next (({ s with c0vd := BitVec.ofNat 5 v } : State).updVd v fun y =>
       { y with c0lim := BitVec.ofNat 16 (bits x 0 16) }))) ∧
    exec (.timebaseWrite x) s = .next (if 5 ≤ s.stage then s else { s with timebase := x }) ∧
    exec (.throtClear x) s = .next { s with throt := s.throt &&& ~~~(x.setWidth 2) }) ∧
  (∀ (t : Nat) (x : Word) (s : State),
    let legal : Prop := bits x 4 12 = 0 ∧ bits x 29 35 = 0 ∧ bits x 16 13 ≤ 4096
    let h := s.barHome t
    let n := BitVec.ofNat 4 (bits x 0 4)
    let b := s.barrier h n
    (¬legal → exec (.barcntWrite t x) s = .next s) ∧
    (legal → (∀ v, h = .steward v → v < 32) → ∃ u, exec (.barcntWrite t x) s = .next u ∧ u.barSelOf h = n ∧
      u.barrier h n = (if b.arrivals = 0 then { b with count := BitVec.ofNat 13 (bits x 16 13), next := none }
        else { b with next := some (BitVec.ofNat 13 (bits x 16 13)) }) ∧
      (∀ m, m ≠ n → u.barrier h m = s.barrier h m) ∧ u.mem = s.mem ∧ u.accs = s.accs ∧ ∀ q, u.tileAt q = s.tileAt q)) ∧
  (∀ (t off : Nat) (x : Word) (s : State) (r : Nat) (y : Region), s.regionAt t = some r → s.region r = some y → y.crown = t →
    off % 8 = 0 →
    (off < 0x400 → x &&& 0x7F007F007F007F00 ≠ 0 → exec (.boundaryTableWrite t off x) s = .next s) ∧
    (off < 0x400 → x &&& 0x7F007F007F007F00 = 0 → ∃ u z, exec (.boundaryTableWrite t off x) s = .next u ∧
      u.region r = some z ∧ u = s.setRegion r z ∧ z = { y with entryTab := z.entryTab, exitTab := z.exitTab } ∧
      (∀ j, j < 64 → z.entryTab.extractLsb' (64 * j) 64 = if off < 0x200 ∧ off = 8 * j then x
        else y.entryTab.extractLsb' (64 * j) 64) ∧
      (∀ j, j < 64 → z.exitTab.extractLsb' (64 * j) 64 = if 0x200 ≤ off ∧ off = 0x200 + 8 * j then x
        else y.exitTab.extractLsb' (64 * j) 64)) ∧
    (off = 0x400 → exec (.boundaryTableWrite t off x) s =
      .next (if x.toNat < 4 then s.setRegion r { y with btCtl := x.setWidth 2 } else s))) ∧
  (∀ (t : Nat) (x : Word) (lvl : BitVec 2) (s : State),
    let c := (s.tileAt t).core
    let At (off : Nat) (d : Core) : Prop := ∃ u, exec (.registerWrite t off x lvl) s = .next u ∧ OnlyCoreOf s u t d
    let between : Prop := ((c.stepAt = none ∧ c.readings = []) ∨ c.status ≠ .run) ∧ c.freezing = false ∧ s.wkey ≠ some t ∧
      ∀ q, s.vdBusy = some q → q.1 ≠ some t
    (¬between → ∀ off, exec (.registerWrite t off x lvl) s = .next s) ∧
    (s.vdBusy ≠ none → exec (.registerWrite t (0x408000 + 8 * 0x129) x lvl) s = .next s) ∧ (between →
    (∀ r : GReg, At (0x400000 + 8 * r.val) (if r = 0 then c else { c with g := c.g.set r x })) ∧
    (∀ r : PReg, At (0x402000 + 8 * r.val) (c.wrP r (x.getLsbD 0))) ∧
    (∀ (k : Fin 2) (j : Fin 4), ∃ y : BitVec 256, At (0x403000 + 32 * k.val + 8 * j.val) { c with tb := c.tb.set k y } ∧
      ∀ m : Fin 4, y.extractLsb' (64 * m.val) 64 = if m = j then x else c.tb[k].extractLsb' (64 * m.val) 64) ∧
    (∀ (r : VReg) (j : Fin 8), ∃ y : Token, At (0x401000 + 128 * r.val + 8 * j.val) { c with v := c.v.set r y } ∧
      y = { c.v[r] with lanes := y.lanes } ∧
      ∀ m : Fin 8, y.lanes.extractLsb' (64 * m.val) 64 = if m = j then x else c.v[r].lanes.extractLsb' (64 * m.val) 64) ∧
    (∀ (r : AReg) (j : Fin 128), let off := 0x404000 + 1024 * r.val + 8 * j.val
      (c.fBit r = true → At off { c with heldAcc := c.heldAcc ++ [(1024 * r.val + 8 * j.val, x)] }) ∧
      (c.fBit r = false → ∃ y : Acc, At off (c.wrA r y) ∧ y.v = true ∧ y.d = true ∧
        ∀ m : Fin 256, y.el[m] = if m.val = 2 * j.val then x.setWidth 32 else if m.val = 2 * j.val + 1 then x.extractLsb' 32 32
          else (c.rdA r).el[m])) ∧
    (1 ≤ lvl.toNat → x.toNat % 8 = 0 → At (0x408000 + 8 * 0x041) { c with epc := x } ∧ At (0x408000 + 8 * 0x044) { c with trapv := x }) ∧
    (x.toNat < 4 → At (0x408000 + 8 * 0x010) { c with fmode := x.setWidth 3 }) ∧
    (4 ≤ x.toNat → At (0x408000 + 8 * 0x010) c)) ∧
    ∃ u, exec (.accSlotWriteRelease t) s = .next u ∧ DeviceKept s u ∧ (∀ q, q ≠ t → u.tileAt q = s.tileAt q) ∧
      ((∀ p ∈ c.heldAcc, c.fBit (Fin.ofNat 8 (p.1 / 1024)) = true) → (u.tileAt t).core = c) ∧
      (∀ o y, c.heldAcc = [(o, y)] → c.fBit (Fin.ofNat 8 (o / 1024)) = false → (u.tileAt t).core.heldAcc = [] ∧
        ((u.tileAt t).core.rdA (Fin.ofNat 8 (o / 1024))) = (c.rdA (Fin.ofNat 8 (o / 1024))).setSlotWord (o % 1024) y))
end

namespace Sys2Proof.Claims
open Sys2Proof.Machine

/-! ### The milliner -/

/-- A pre-emption marker at the head of a queue (R117, R244). -/
def MarkerHead (l : List Token) : Prop := ∃ t r, l = t :: r ∧ t.kind = .mark ∧ t.pm = true

/-- The core stops between two instructions, repetitions or steps: RPST and ESTEP say where it goes on (R68, R109). -/
def PausedAs (c d : Core) (st : Status) : Prop :=
  d.status = .stopped ∧ d.resume = st ∧ d.pc = c.pc ∧ d.loops = c.loops ∧ d.lvl = c.lvl ∧ d.inH = c.inH ∧
    d.rpPend = (c.rpPend || c.repAt.isSome) ∧ d.rpCount = ((c.repAt.map fun i => BitVec.ofNat 6 i).getD c.rpCount) ∧
    d.estep = ((c.stepAt.map fun i => BitVec.ofNat 64 (2 ^ 63 + i)).getD c.estep) ∧ d.g = c.g ∧ d.v = c.v ∧ d.p = c.p ∧
    d.task = c.task ∧ d.owner = c.owner ∧ d.cause = c.cause ∧ d.epc = c.epc ∧ d.eval = c.eval ∧ d.readings = [] ∧
    d.repAt = none ∧ d.stepAt = none

/-- Every block of HBM verifies (R267, R270). -/
def Verifies (s : State) : Prop := s.bad = [] ∧ s.badCtr = []

/-- What a core that may stop goes back to; a waiting invalidation and a WAITA whose word has come may not. An EXIT is executed
again, but a dispatcher that a fault has ended stays so (R39, R368, R410, R445). -/
def goesBackTo (x : Core) : Option Status :=
  match x.status with
  | .run | .asleep _ _ _ _ false => some .run
  | .exiting c => if ∀ k, x.task = some k → k.fell = none then some .run else some (.exiting c)
  | .barrier n => some (.barrier n)
  | .faulted => some .faulted
  | _ => none

/-- The region has no claim on what is named; everything else of the device stands (all but region records). -/
structure RegionsOnly (s u : State) : Prop where
  rest : u = { s with regions := u.regions }
  count : u.regions.length = s.regions.length

/-- Cores and fabrics outside the tiles ts are as before, but for a sleeper that a write of the milliner wakes. -/
def OthersStand (s u : State) (ts : List Nat) : Prop :=
  ∀ q, q ∉ ts → (u.tileAt q).fab = (s.tileAt q).fab ∧ ∃ st, (u.tileAt q).core = { (s.tileAt q).core with status := st }

end Sys2Proof.Claims

section
open Sys2Proof Sys2Proof.Machine Sys2Proof.Claims

/-- A queued unit that no other precedes takes free rectangles within its budgets, its regions one after another, 16 ACLK apart,
and none once one of them has fenced the VD. A new
region without an image gets the next generation of its VD, tiles scrubbed where another VD had one, and its lead task on the
crown tile in U mode. A saved region comes back: a tile takes its registers and store from its slot, and its cores and
elements go on where they stood; a slot that does not verify or decode fences the VD. An event that is not due changes nothing
(R23, R32, R33, R39, R54, R236, R252, R253, R255, R262). That the rest of a saved tile stays with the model's record, which
rectangles a hint prefers, that all of it is one move, what waits for a re-encryption, and when the milliner acts are the
model's choice (log entries 55, 59, 60, 61, 80, 86). -/
def Obligations.RegionsArePlacedAndRestored : Prop :=
  (∀ (ps : List Place) (s : State), ¬(s.placesUnit ps = true ∧ s.placesFree [] [] ps = true) ∨ (∃ p ∈ ps, s.placeWaits p = true) →
    exec (.regionPlace ps) s = .next s ∧ exec (.regionRestore ps) s = .next s) ∧
  (∀ (ps : List Place) (s : State), let saved : Prop := ∀ p ∈ ps, ∃ x, s.region p.region = some x ∧ x.st = .preempted
    (saved → exec (.regionPlace ps) s = .next s) ∧ (¬saved → exec (.regionRestore ps) s = .next s)) ∧
  (∀ (p : Place) (s : State) (x : Region), s.region p.region = some x →
    (s.placesFree [] [] [p] = true → let v := s.vd x.vd
      bits v.rect 0 6 ≤ p.col ∧ p.col + x.w ≤ bits v.rect 0 6 + (bits v.rect 16 6 + 1) ∧
      bits v.rect 8 6 ≤ p.row ∧ p.row + x.h ≤ bits v.rect 8 6 + (bits v.rect 24 6 + 1) ∧
      ¬(p.col = bits v.rect 0 6 ∧ p.row = bits v.rect 8 6) ∧
      (∀ y ∈ s.regions, ∀ q, y.place = some q →
        p.col + x.w ≤ q.1 ∨ q.1 + y.w ≤ p.col ∨ p.row + x.h ≤ q.2 ∨ q.2 + y.h ≤ p.row) ∧
      ∀ c ∈ x.chain, s.heldTiles x.vd c.1 + x.w * x.h ≤ c.2) ∧
    (s.placesUnit [p] = true → p.region ∈ s.queue ∧ (s.vd x.vd).st = .running ∧ (s.vd x.vd).frozen = false ∧
      ∀ y ∈ s.regions, y.vd = x.vd → y.gen ≠ 0 → y.since + 16 ≤ s.cycle)) ∧
  (∀ (p q : Place) (s m : State) (x : Region), s.placesUnit [p, q] = true → s.placesFree [] [] [p, q] = true →
    s.placeWaits p = false → s.placeWaits q = false → s.placeAt p = some m → m.region p.region = some x →
    let both : Prop := ∀ z ∈ [p, q], ∃ y, s.region z.region = some y ∧ y.st = .preempted
    let i := if s.allSaved [p, q] then Instr.regionRestore [p, q] else .regionPlace [p, q]
    (s.allSaved [p, q] = true ↔ both) ∧
    ((m.vd x.vd).st = .fenced → exec i s = .next m) ∧
    ((m.vd x.vd).st ≠ .fenced → ∀ u, ({ m with cycle := m.cycle + 16 } : State).placeAt q = some u → exec i s = .next u)) ∧
  (∀ (p : Place) (s : State) (x : Region), s.placesUnit [p] = true → s.placesFree [] [] [p] = true → s.placeWaits p = false →
    s.region p.region = some x → 1 ≤ x.w → 1 ≤ x.h → (rectTiles p.col p.row x.w x.h).Nodup →
    let ts := rectTiles p.col p.row x.w x.h
    let gen := (s.vd x.vd).gen + 1
    let foreign : Prop := ∃ t ∈ ts, ∃ o, (s.tileAt t).core.lastOwner = some o ∧ o ≠ x.vd
    let Placed (u : State) (y : Region) : Prop := u.region p.region = some y ∧ y.place = some (p.col, p.row) ∧
      y.st = .running ∧ y.gen = gen ∧ y.since = s.cycle ∧ y.waited = 0 ∧ y.behind = false ∧ y.vd = x.vd ∧ y.rcb = x.rcb ∧
      (u.vd x.vd).gen = gen ∧ p.region ∉ u.queue ∧ OthersStand s u ts
    (x.st ≠ .preempted → x.image = 0 → Verifies s → x.vd < 32 → ∃ u y o, exec (.regionPlace [p]) s = .next u ∧ Placed u y ∧
      u.regions = s.regions.set p.region y ∧
      (∀ t ∈ ts, (u.tileAt t).core.owner = some (x.vd, gen) ∧ (u.tileAt t).core.lastOwner = some x.vd ∧
        (u.tileAt t).fab = (if foreign then {} else (s.tileAt t).fab)) ∧
      TaskStarted o (u.tileAt (p.row * 64 + p.col)).core x.entry (fun j => x.args[j]) .u x.trapv x.aged
        { role := .lead, vd := x.vd, region := p.region } ∧
      (¬foreign → (o.icache, o.tlb, o.shadow, o.a) = ((s.tileAt (p.row * 64 + p.col)).core.icache,
        (s.tileAt (p.row * 64 + p.col)).core.tlb, (s.tileAt (p.row * 64 + p.col)).core.shadow,
        (s.tileAt (p.row * 64 + p.col)).core.a))) ∧
    (x.st = .preempted → Verifies s → x.vd < 32 → ∃ u, exec (.regionRestore [p]) s = .next u ∧
      ((u.vd x.vd).st ≠ .fenced → ∃ y, Placed u y ∧ y.saved = [] ∧ y.notifies = [] ∧ y.hat = none ∧
        ∀ t z, (t, z) ∈ ts.zip x.saved → ∃ (n : Nat) (st : Status),
          (u.tileAt t).core = { Core.goOn { z.core.withSection n with owner := some (x.vd, gen), lastOwner := some x.vd } with
            status := st } ∧
          (z.core.status = .stopped → z.core.resume = .run → st = .run) ∧ (u.tileAt t).fab = z.fab.goOn))) ∧
  (∀ (s : State) (x : Region) (pa t : Nat) (y : Tile), let u := s.restoreTile x pa t y
    (s.slotBad pa = true ∨ s.getSlot pa = none → (s.vd x.vd).st ≠ .none → x.vd < 32 → (u.vd x.vd).st = .fenced) ∧
    (∀ l n, s.slotBad pa = false → s.getSlot pa = some l → n = ((l.drop 16384).take 256).foldr (fun b n => b + 2 ^ 512 * n) 0 →
      u.tileAt t = { core := { y.core.withSection n with owner := some (x.vd, x.gen), lastOwner := some x.vd }, fab := y.fab } ∧
      OthersStand s u [t] ∧
      (Memory.wf s.mem = true → ∀ j b, j < 16384 → l[j]? = some b → u.rd (windowPa t + 64 * j) 64 = b % 2 ^ 512) ∧
      ∀ a, a < windowPa t ∨ windowPa t + Config.tileStore ≤ a → Memory.get u.mem a = Memory.get s.mem a))

/-- The end of a quantum asks a placed region of class C2 or C3 to stop when a waiting region has the claim, and counts for a
waiting one, which ages after four. The hold limit gives WATCHDOG to the fault domain. A region asked to stop gets its markers
once no flush marker is under way; 65,536 ACLK after the request the freeze wave takes over, which stops every element
once the fabric's requests have retired (R44, R237, R239, R244 to R246, R257, R380). When these fall due in the model, that
a region stopped at the end of its quantum ranks with the new ones of its class, that the effective class decides whether there
is a quantum, that the WATCHDOG has a free EPC and ESTEP 0, and that a fault that waits goes first, are the model's choice (log
entries 43, 46, 55, 64, 74, 94). -/
def Obligations.RegionsAreAskedToStop : Prop :=
  ∀ (r : Nat) (s : State) (x : Region), s.region r = some x →
    let live : Prop := (s.vd x.vd).st = .running
    let set (y : Region) : State := s.setRegion r y
    (let i := Instr.quantumExpiry r
     let due : Prop := 2 ≤ x.aged ∧ x.quantumAt + 700 * x.quantum ≤ s.cycle ∧ live
     (¬due → exec i s = .next s) ∧
     (due → r ∈ s.queue → exec i s = .next (set (if x.waited = 3 then
       { x with waited := 0, aged := x.aged - 1, quantumAt := s.cycle } else { x with waited := x.waited + 1, quantumAt := s.cycle }))) ∧
     (due → r ∉ s.queue → x.place = none ∨ x.stop ≠ .no ∨ x.fault ≠ none → exec i s = .next s) ∧
     (due → r ∉ s.queue → x.place.isSome = true → x.stop = .no → x.fault = none → s.contested r = false →
       exec i s = .next (set { x with quantumAt := s.cycle })) ∧
     (due → r ∉ s.queue → x.place.isSome = true → x.stop = .no → x.fault = none → s.contested r = true → x.gang = none →
       ∀ o, x.hat = none → s.findArea x.vd x.areaSize = some o → exec i s = .next (set
         { x with quantumAt := s.cycle, stop := .marker s.cycle, hat := some (o, x.areaSize), behind := true }))) ∧
    (let i := Instr.watchdogExpiry r
     let limit := (s.vd x.vd).c0lim.toNat
     let due : Prop := x.aged = 0 ∧ x.place.isSome = true ∧ limit ≠ 0 ∧ live ∧ x.yieldAt + 700000 * limit < s.cycle
     (¬due → exec i s = .next s) ∧
     (due → ∃ epc u, exec i s = .next u ∧ RegionsOnly { s with tick := s.tick + 1 } u ∧ u.region r = some { x with
       yieldAt := s.cycle
       fault := some (x.fault.getD ⟨0x1D, epc, BitVec.ofNat 64 ((s.cycle - x.yieldAt) / 700), 0⟩) })) ∧
    (let i := Instr.markerPreemptStart r
     let clear : Prop := ∀ t ∈ x.tilesOf, (s.tileAt t).fab.flushed = true
     (live → (x.st = .running ∨ x.st = .placed) → ∀ since, x.stop = .marker since →
       (x.marked = true ∨ ¬clear → exec i s = .next s) ∧
       (x.marked = false → clear → x.tilesOf.Nodup → ∃ u, exec i s = .next u ∧ u.region r = some { x with marked := true } ∧
         u.mem = s.mem ∧ u.accs = s.accs ∧ (∀ q, (u.tileAt q).core = (s.tileAt q).core) ∧
         (∀ q, q ∉ x.tilesOf → u.tileAt q = s.tileAt q) ∧
         ∀ t ∈ x.tilesOf, (∀ k : Fin 8, (u.tileAt t).fab.outQ[k] = (s.tileAt t).fab.outQ[k] ++
             (if (s.tileAt t).fab.bound (8 + k.val) = true then [{ kind := .mark, pm := true }] else [])) ∧
           (∀ k : Fin 2, (u.tileAt t).fab.ags[k].out = (s.tileAt t).fab.ags[k].out ++
             (if (s.tileAt t).fab.ags[k].on = true then [{ kind := .mark, pm := true }] else [])) ∧
           (u.tileAt t).fab.tracks = (s.tileAt t).fab.tracks ∧ (u.tileAt t).fab.slots = (s.tileAt t).fab.slots))) ∧
    (let i := Instr.preemptTimeout r
     ∀ since, x.stop = .marker since →
       (since + 65536 ≤ s.cycle → exec i s = .next (set { x with stop := .wave })) ∧
       (s.cycle < since + 65536 → exec i s = .next s)) ∧
    (let i := Instr.freezeWave r
     let busy : Prop := ∃ a ∈ s.accs, ∃ t, x.covers t = true ∧ ((∃ k, a.party = .unit t k) ∨ ∃ k, a.party = .gather t k)
     (x.stop ≠ .wave ∨ busy → exec i s = .next s) ∧
     (x.stop = .wave → ¬busy → ∃ u, exec i s = .next u ∧ u.regions = s.regions ∧ u.mem = s.mem ∧ u.accs = s.accs ∧
       (∀ q, (u.tileAt q).core = (s.tileAt q).core) ∧ (∀ q, q ∉ x.tilesOf → u.tileAt q = s.tileAt q) ∧
       ∀ t ∈ x.tilesOf, let f := (s.tileAt t).fab
         let h := (u.tileAt t).fab
         (∀ k : Fin 4, h.slots[k] = { f.slots[k] with stopped := true }) ∧
         (∀ k : Fin 4, h.mus[k] = { f.mus[k] with stopped := true }) ∧
         (∀ k : Fin 2, h.ags[k] = { f.ags[k] with stopped := true }) ∧ h.tracks = f.tracks ∧ h.inQ = f.inQ ∧ h.outQ = f.outQ ∧
         h.sw = f.sw))

/-- An element that has its markers takes one from each inlet, stops, and sends one on. A core whose task is to stop does so
between instructions once its accesses are answered and its steps have drained. The stopped region is saved: its tiles are
released, its record keeps cores and fabric without the markers and with no cached translation, it is queued again or ends as
its fault domain says; a fault that no handler has taken goes first (R109, R149, R198, R230, R244, R247, R257). For which
inlets an element waits, what a core stopped while it waits goes back to, that a save by a fault domain counts as a pre-emption,
the record beside the image, and what waits for a re-encryption are the model's choice (log entries 61, 62, 63, 80, 85). -/
def Sys2Proof.Claims.RegionsStop : Prop :=
  (∀ (t : Nat) (k : Fin 4) (s : State) (r : Nat) (x : Region), s.regionAt t = some r → s.region r = some x →
    x.marked = true → x.stop ≠ .wave →
    let f := (s.tileAt t).fab
    let y := f.slot k.val
    s.marksHere x t (.slot k.val) = true → y.on = true → y.stopped = false →
      ∃ u z, exec (.elementMarkerSave t (.slot k.val)) s = .next u ∧ (u.tileAt t).fab = f.updSlot k.val (fun _ => z) ∧
        z.stopped = true ∧ z.op = y.op ∧ z.p = y.p ∧ z.frame = y.frame ∧
        (∀ j : Fin 4, f.live (.slotIn k.val j.val) = true → f.sourceOf (.slotIn k.val j.val) ≠ 0 → MarkerHead y.ins[j] →
          z.ins[j] = y.ins[j].drop 1) ∧
        (∀ j : Fin 4, ¬MarkerHead y.ins[j] → z.ins[j] = y.ins[j]) ∧
        (u.tileAt t).core = (s.tileAt t).core ∧ (∀ q, q ≠ t → u.tileAt q = s.tileAt q) ∧ u.mem = s.mem ∧ u.accs = s.accs) ∧
  (∀ (t : Nat) (s : State) (st : Status),
    let c := (s.tileAt t).core
    let calm : Prop := s.stopsTask t = true ∧ s.accsOf (.task t) = [] ∧ c.pend = [] ∧ c.inflight = [] ∧ s.wkey ≠ some t
    let i := Instr.corePreemptStop t
    (goesBackTo c = none ∨ ¬calm → exec i s = .next s) ∧
    (∀ k x, c.task = some k → k.role ≠ .dispatcher → s.region k.region = some x → x.fault ≠ none → x.domainSave = none →
      exec i s = .next s) ∧
    (goesBackTo c = some st → calm → c.heldAcc = [] → ∃ u, exec i s = .next u ∧
      PausedAs c (u.tileAt t).core st ∧ (u.tileAt t).fab = (s.tileAt t).fab ∧ (∀ q, q ≠ t → u.tileAt q = s.tileAt q) ∧
      u.mem = s.mem ∧ u.accs = s.accs ∧ u.regions = s.regions)) ∧
  (∀ (r : Nat) (s : State) (x : Region), s.region r = some x →
    (¬(s.saveReady r x = true ∧ (s.vd x.vd).st = .running ∧ s.saveWaits x = false) → exec (.regionSave r) s = .next s) ∧
    (x.fault ≠ none → x.domainSave = none → exec (.regionSave r) s = .next s) ∧
    (s.saveReady r x = true → (s.vd x.vd).st = .running → s.saveWaits x = false → Verifies s → x.hat.isSome = true → ∃ u y, exec (.regionSave r) s = .next u ∧
      u.region r = some y ∧ y.place = none ∧ y.preempts = x.preempts + 1 ∧ y.aged = x.cls ∧ y.waited = 0 ∧
      y.held = x.held + (s.cycle - x.since) ∧ y.stop = .no ∧ y.marked = false ∧
      y.saved.map Tile.core = x.tilesOf.map (fun t => { (s.tileAt t).core with tlb := [], icache := [] }) ∧
      (∀ z ∈ y.saved, ∀ k : Fin 4, slotKind z.fab.slots[k].frame = 8 → z.fab.slots[k].op.base = none ∧
        ∀ w ∈ z.fab.slots[k].op.rows, w.ids = []) ∧
      (∀ z ∈ y.saved, ∀ k : Fin 8, ∀ tok ∈ z.fab.inQ[k], ¬(tok.kind = .mark ∧ tok.pm = true)) ∧
      (∀ t ∈ x.tilesOf, (u.tileAt t).core.task = none ∧ (u.tileAt t).core.owner = none ∧ (u.tileAt t).fab = {}) ∧
      (x.domainSave = none → y.st = .preempted ∧ u.queue = s.queue ++ [r]) ∧
      (x.domainSave ≠ none → y.st = .faulted ∧ y.domainSave = none)))

/-- A fault that no handler takes goes to its fault domain. Restart, once: the lead task starts afresh where it is.
Freeze-notify stops the regions of the domain, or kills one that has no free save area, and kill-notify kills them; a killed
region's notify write waits for its writes. A corrected soft error is counted, saturating; an uncorrectable one fences its
owner, or every VD (R29, R254, R262). That an area is looked for when the policy acts, what the policies do to a second
fault, what waits for a re-encryption, and when soft errors come are the model's choice (log entries 43, 56, 80, 85). -/
def Obligations.FaultDomainsAndSoftErrors : Prop :=
  (∀ (r : Nat) (s : State) (x : Region) (f : FaultRec), s.region r = some x → x.fault = some f →
    let i := Instr.faultDomainAction r
    let mates := s.domainOf x
    let ready : Prop := x.place.isSome = true ∧ (s.vd x.vd).st = .running ∧ x.domainSave = none ∧
      ∀ q ∈ mates, ∀ y, s.region q = some y → s.rcbWaits y = false
    (¬ready → exec i s = .next s) ∧
    (ready → x.policy = 2 → x.restarted = false → x.image = 0 → Verifies s → ∃ u y o, exec i s = .next u ∧
      u.region r = some y ∧ y.restarted = true ∧ y.fault = none ∧ y.st = .running ∧ y.place = x.place ∧ y.gen = x.gen ∧
      TaskStarted o (u.tileAt x.crown).core x.entry (fun j => x.args[j]) .u x.trapv x.aged
        { role := .lead, vd := x.vd, region := r } ∧
      (∀ t ∈ x.tilesOf, t ≠ x.crown → (u.tileAt t).core.task = none ∧ (u.tileAt t).fab = {}) ∧
      ∀ q z, q ≠ r → s.region q = some z → u.region q = some z) ∧
    (ready → x.policy = 1 → ∃ u, exec i s = .next u ∧ ∀ q ∈ mates, ∀ z, s.region q = some z → ∃ y, u.region q = some y ∧
      y.st = .faulted ∧ y.killed = some (decide (q = r), f) ∧ y.place = none ∧
      ∀ t ∈ z.tilesOf, (u.tileAt t).core.task = none ∧ (u.tileAt t).core.owner = none ∧ (u.tileAt t).fab = {}) ∧
    (ready → x.policy ≠ 1 → (x.policy = 2 → x.restarted = true) → mates = [r] → ∀ o, x.hat = none →
      s.findArea x.vd x.areaSize = some o → ∃ u, exec i s = .next u ∧ u = s.setRegion r { x with
        stop := .wave, hat := some (o, x.areaSize), domainSave := some (true, f), fault := none }) ∧
    (ready → x.policy ≠ 1 → (x.policy = 2 → x.restarted = true) → mates = [r] → x.hat = none →
      s.findArea x.vd x.areaSize = none → Verifies s → ∃ u y, exec i s = .next u ∧ u.region r = some y ∧ y.st = .faulted ∧
        y.killed = some (true, f) ∧ y.place = none ∧ ∀ t ∈ x.tilesOf, (u.tileAt t).core.task = none ∧ (u.tileAt t).fab = {})) ∧
  (∀ (r : Nat) (s : State) (x : Region) (own : Bool) (f : FaultRec), s.region r = some x → x.killed = some (own, f) →
    let out : Prop := (∃ a ∈ s.accs, a.region = some r ∧ a.st ≠ .performed ∧ writesAt a) ∨ s.endWaits x = true
    let i := Instr.killNotifyWrite r
    (out ∨ (s.vd x.vd).st ≠ .running → exec i s = .next s) ∧
    (¬out → (s.vd x.vd).st = .running → Verifies s → ∃ u y, exec i s = .next u ∧ u.region r = some y ∧ y.st = .faulted ∧
      y.killed = none ∧ (∀ a ∈ s.frozenBy, a.2.1 = r → a.2.2 = 0 → (a.1, r, 2) ∈ u.frozenBy))) ∧
  (∀ s : State, exec .softErrorCorrected s =
    .next { s with cecnt := if s.cecnt = 0xFFFFFFFFFFFFFFFF then s.cecnt else s.cecnt + 1 }) ∧
  (∀ s : State, Memory.wf s.mem = true → (∀ v : Fin 32, ∃ u, exec (.softErrorUncorrectable (some v)) s = .next u ∧
      ((s.vd v).st ≠ .none → (u.vd v).st = .fenced ∧ Memory.get u.mem (mailbox (v.val + 1) + 3) = 0x1F) ∧
      ∀ n, n ≠ v.val → u.vd n = s.vd n) ∧
    ∃ u, exec (.softErrorUncorrectable none) s = .next u ∧ ∀ v : Fin 32, (s.vd v).st ≠ .none → (u.vd v).st = .fenced)

/-- The image of a saved region: the header says which RCB, shape, kind and time; a block of a tile slot and its record stand
for each other, whether it compresses or not, so the block comes back bit by bit at the restore, and with the register section
every register of the core (R248, R250 to R252). The places of the pc, PRIV, loop stack, RPST and shadow in the part that the
spec gives them are the model's choice (log entry 61). -/
def Sys2Proof.Claims.SavedImageHoldsItsRegion : Prop :=
  (∀ (s : State) (x : Region) (time : Nat), let pa := (s.vd x.vd).hatPa + (x.hat.getD (0, 0)).1
    let u := s.putImage x time
    x.w < 256 → x.h < 256 → Memory.wf s.mem = true → Verifies s → (s.vd x.vd).st ≠ .fenced →
    u.rd pa 8 = 0x48420001 ∧ u.rd (pa + 8) 8 = x.rcb.toNat ∧ u.rd (pa + 0x10) 1 = x.w ∧ u.rd (pa + 0x11) 1 = x.h ∧
    u.rd (pa + 0x12) 2 = x.bouts.toNat ∧ u.rd (pa + 0x14) 1 = (if x.stop = .wave then 1 else 0) ∧
    u.rd (pa + 0x18) 8 = x.curImage.toNat ∧ u.rd (pa + 0x20) 8 = time % 2 ^ 64 ∧
    u.rd (pa + 0x40) 512 = x.entryTab.toNat ∧ u.rd (pa + 0x240) 512 = x.exitTab.toNat ∧ u.rd (pa + 0x440) 8 = x.btCtl.toNat ∧
    (∀ z y, y = u.withHeader z pa → y.bouts = x.bouts ∧ y.curImage = x.curImage ∧ y.entryTab = x.entryTab ∧
      y.exitTab = x.exitTab ∧ y.btCtl = x.btCtl)) ∧
  (∀ (s : State) (t : Nat) (e : Core), let c := (s.tileAt t).core
    let d := e.withSection (s.regSection t c)
    c.loops.length ≤ 2 → c.shadow.loops.length ≤ 2 →
    d.pc = c.pc ∧ d.lvl = c.lvl ∧ d.inH = c.inH ∧ d.loops = c.loops ∧ d.rpPend = c.rpPend ∧ d.rpCount = c.rpCount ∧
    d.shadow = c.shadow ∧ (∀ r, d.rdG r = c.rdG r) ∧ (∀ r, d.rdP r = c.rdP r) ∧
    (∀ r : VReg, d.v[r] = { c.v[r] with pm := (e.v[r]).pm, own := (e.v[r]).own }) ∧ d.tb = c.tb ∧ d.tbPend = c.tbPend ∧
    (∀ r, d.rdA r = c.rdA r) ∧ d.fmode = c.fmode ∧ d.fstat = c.fstat ∧ d.cause = c.cause ∧ d.epc = c.epc ∧ d.eval = c.eval ∧
    d.estep = c.estep ∧ d.trapv = c.trapv ∧ d.slotcls = c.slotcls ∧ d.task = e.task) ∧
  (∀ b : Nat, b < 2 ^ 512 → unpackBlock (packBlock b).1 (packBlock b).2 = (b, (packBlock b).2.length)) ∧
  (∀ b : Nat, (packBlock b).2.length ≤ 64)
end


namespace Sys2Proof.Claims
open Sys2Proof.Machine

/-! ### The host port, start-up and power -/

/-- The port takes a request of function f: out of reset, a function there is (R276). -/
def PortOpen (s : State) (f : Nat) : Prop := s.perst = false ∧ f ≤ 32

/-- The VD of a virtual function is fenced (R262). -/
def FencedFn (s : State) (f : Nat) : Prop := 1 ≤ f ∧ (s.vd (f - 1)).st = .fenced

/-- The right of an inbound window entry that a use needs: W for writes and AtomicOps, R for reads (R277). -/
def mayUse (e : Word) (u : Use) : Prop :=
  e.getLsbD 63 = true ∧ e.getLsbD (if u = .read then 61 else 62) = true

/-- The VD-physical address of a BAR2 offset: BASE × 2^32 of entry (offset div 4 GiB) and the offset in it (R277). -/
def bar2Address (s : State) (f off : Nat) : Nat :=
  bits (s.inEntry f (off / 2 ^ 32)) 0 16 * 2 ^ 32 + off % 2 ^ 32

/-- The tile store of the steward tile of the function's VD (R277). -/
def inSteward (s : State) (f pa n : Nat) : Prop :=
  isTilePa pa = true ∧ (tileOfPa pa).1 = (s.vd (f - 1)).steward ∧ (tileOfPa pa).2 + n ≤ 0x100000

/-- What a page must be for a use: HBM for all, felt for reads and writes, KIND 11 for these in the steward's tile store. -/
def pageServes (s : State) (f n : Nat) (u : Use) (l : Leaf) (pa : Nat) : Prop :=
  l.kind = 0 ∨ (u ≠ .atomic ∧ (l.kind = 1 ∨ (l.kind = 3 ∧ inSteward s f pa n)))

/-- A piece of BAR2 whose checks pass, up to the verification of its block: pa is its device physical address, l the leaf. -/
structure Passes (s : State) (f off n : Nat) (u : Use) (pa : Nat) (l : Leaf) : Prop where
  fn : 1 ≤ f ∧ off < 2 ^ 36 ∧ (s.vd (f - 1)).st ≠ .none ∧ ¬FencedFn s f
  entry : mayUse (s.inEntry f (off / 2 ^ 32)) u
  leaf : s.stage2 (f - 1) (bar2Address s f off) u = .ok l ∧ pa = l.out (bar2Address s f off)
  page : pageServes s f n u l pa
  granted : s.physCheck (f - 1) l.kind l.win pa u l.ord = none ∧ s.stalled pa = false

/-- The block of a piece fails verification; a write that covers it verifies its counters only (R267, R270). -/
def Unverified (s : State) (n : Nat) (u : Use) (pa : Nat) : Prop :=
  if u ≠ .read ∧ n = 64 then s.ctrBad pa = true else s.isBad pa = true

/-- Where a piece of n bytes goes, through which window, and the state once A and D bits are set: the mailbox page through
BAR0 (64 KiB, behind BAR2 for a virtual function), or what BAR2 reaches (R277, R195). -/
inductive Target (s : State) (f off n : Nat) (u : Use) : Nat → Nat → State → Prop
  | bar0 (o : Nat) (h : off = if f = 0 then o else 2 ^ 36 + o) (fits : o + n ≤ 0x10000) (plain : u ≠ .atomic)
      (free : ¬FencedFn s f) : Target s f off n u (mailbox f + o) 0 s
  | bar2 (pa : Nat) (l : Leaf) (h : Passes s f off n u pa l) (good : ¬Unverified s n u pa) :
      Target s f off n u pa l.win (s.setBits [(l.loc, if u.writes then 0xC0 else 0x40)])

/-- A piece that fails (R277): beyond its BAR, through an entry without V or the right, to no page, one that is
not the VD's, or one of a wrong kind, or an AtomicOp outside BAR2. -/
inductive Fails (s : State) (f off n : Nat) (u : Use) : Prop
  | beyond (o : Nat) (h : off = if f = 0 then o else 2 ^ 36 + o) (out : 0x10000 < o + n ∨ u = .atomic)
  | entry (fn : 1 ≤ f) (h : off < 2 ^ 36) (e : ¬mayUse (s.inEntry f (off / 2 ^ 32)) u)
  | fault (fn : 1 ≤ f) (h : off < 2 ^ 36) (c : BitVec 8)
      (e : s.stage2 (f - 1) (bar2Address s f off) u = .error (.fault c)) (ne : c ≠ 0x0A)
  | refused (fn : 1 ≤ f) (h : off < 2 ^ 36) (l : Leaf) (c : BitVec 8)
      (e : s.stage2 (f - 1) (bar2Address s f off) u = .ok l)
      (p : s.physCheck (f - 1) l.kind l.win (l.out (bar2Address s f off)) u l.ord = some (.fault c))
  | page (fn : 1 ≤ f) (h : off < 2 ^ 36) (l : Leaf) (e : s.stage2 (f - 1) (bar2Address s f off) u = .ok l)
      (p : ¬pageServes s f n u l (l.out (bar2Address s f off)))

/-- A piece inside one 64-byte block. -/
def InBlock (off n : Nat) : Prop := 1 ≤ n ∧ off % 64 + n ≤ 64 ∧ off < 2 ^ 64 - 64

/-- The access that carries bytes of a posted write of function f to pa: it goes by the I/O die wheel, then by that of a
stack whose bytes it writes (R228, R240, R274, R278). -/
def CarriesPosted (a : Access) (f pa win : Nat) (xs : List Byte) : Prop :=
  a.party = .inbound f ∧ a.kind = .store ∧ a.pa = pa ∧ a.win = win ∧ a.vd = (if f = 0 then 32 else f - 1) ∧
    a.size = xs.length ∧ a.st = .buffered ∧ a.data = BitVec.ofNat 512 (ofBytes xs) ∧
    a.mask = BitVec.ofNat 512 (fullMask xs.length) ∧
    a.needs = (2, 0) :: (match homeOf pa with
      | .hbm k _ => [(0, k)]
      | _ => [])

/-- The access of an inbound read or AtomicOp of function f to n bytes at pa; for CAS the operand is the new value. -/
def CarriesAsked (a : Access) (f pa win n : Nat) (op : Option (AtomOp × Word × Word)) : Prop :=
  a.party = .inbound f ∧ a.pa = pa ∧ a.win = win ∧ a.vd = (if f = 0 then 32 else f - 1) ∧ a.size = n ∧ a.st = .buffered ∧
    a.needs = (2, 0) :: (match homeOf pa with
      | .hbm k _ => [(0, k)]
      | _ => []) ∧
    match op with
    | none => a.kind = .load
    | some (k, x, y) => a.kind = .atom k ∧ a.data = x.setWidth 512 ∧ a.cmp = y

/-- A request of function f that has passed enters the ordering point, from the state s1 after its checks; it leaves at once
when no posted write of the function is unacknowledged, and is held otherwise. -/
def Asks (i : Instr) (s s1 : State) (f n : Nat) (op : Option (AtomOp × Word × Word)) (pa win : Nat) : Prop :=
  let q : InRead := { id := s.nextId, fn := f, size := n, op := op, after := (s.postedOf f).map Posted.id, parts := [(pa, win, n, 0)] }
  (s.postedOf f ≠ [] → exec i s = .next { s1 with nextId := s.nextId + 1, asked := s.asked ++ [q] }) ∧
  (s.postedOf f = [] → ∃ t a, exec i s = .next t ∧ a.id = s.nextId + 1 ∧ CarriesAsked a f pa win n op ∧ t = { s1 with
    nextId := s.nextId + 2
    accs := s.accs ++ [a]
    asked := s.asked ++ [{ q with sent := true, out := [(s.nextId + 1, 0)] }] })

/-- Word 1 of a function's status pair counts one more dropped write, saturating, firmware that sleeps on it looks, and the host
is told by vector 0, which is sent, or pending where it is masked (R280 to R282; log entry 70). -/
def CountsDrop (s t : State) (f : Nat) : Prop :=
  let u := (s.wr (mailbox f + 8) 8 (min (s.rd (mailbox f + 8) 8 + 1) (2 ^ 64 - 1))).wake (mailbox f + 8) 8
  if u.rd (mailbox f + 0xE00C) 1 % 2 = 1 then t = u.wr (mailbox f + 0xF000) 1 (u.rd (mailbox f + 0xF000) 1 ||| 1)
  else t = { u with sent := u.sent ++ [.msix f 0] }

/-- A region of a class runs, and the turn of a class to be slowed: first C3, then C2 and C1, C0 last (R287). -/
def ClassRuns (s : State) (c : Nat) : Prop := ∃ x ∈ s.regions, x.place.isSome = true ∧ x.st = .running ∧ x.aged = c
def SlowTurn (s : State) (c : Nat) : Prop :=
  let past (d : Nat) : Prop := s.slow.getLsbD d = true ∨ ¬ClassRuns s d
  ClassRuns s c ∧ (c = 3 ∨ ((c = 1 ∨ c = 2) ∧ past 3) ∨ (c = 0 ∧ past 1 ∧ past 2 ∧ past 3))

end Sys2Proof.Claims

section
open Sys2Proof Sys2Proof.Machine Sys2Proof.Claims

/-- An inbound posted write (here within one block) is judged whole: one that fails, or whose VD is fenced, is dropped and
counted, and the host is told; one that meets a failing block fences the VD too. One that passes enters the ordering point; it leaves at once with
Relaxed Ordering or when no write of its function is unacknowledged, and is held otherwise. An acknowledged part is done, and
lets the oldest held write of its function leave when none is before it (R228, R240, R262, R267, R270, R277, R278, R282). What
a fence does to held writes, the split, class and kind of inbound accesses, and where a vector is masked and pending, are the
model's choice (log entries 67, 68, 70, 79). -/
def Sys2Proof.Claims.HostWritesKeepTheirOrder : Prop :=
  (∀ (f off : Nat) (xs : List Byte) (relaxed : Bool) (s : State), PortOpen s f → (s.postedOf f).length < 64 →
    InBlock off xs.length →
    let i := Instr.inboundPostedWrite f off xs relaxed
    (FencedFn s f ∨ ((1 ≤ f → (s.vd (f - 1)).st ≠ .none) ∧ Fails s f off xs.length .write) →
      ∃ t, exec i s = .next t ∧ CountsDrop s t f) ∧
    (∀ pa l, Passes s f off xs.length .write pa l → Unverified s xs.length .write pa →
      ∃ t, exec i s = .next t ∧ (t.vd (f - 1)).st = .fenced ∧ (∀ p ∈ t.posted, p ∈ s.posted) ∧ ∀ a ∈ t.accs, a ∈ s.accs) ∧
    (∀ pa win s1, Target s f off xs.length .write pa win s1 → (∀ p ∈ s.posted, p.id < s.nextId) →
      let p : Posted := { id := s.nextId, fn := f, relaxed := relaxed, parts := [(pa, win, xs)] }
      (relaxed = true ∨ s.postedOf f = [] → ∃ t a, exec i s = .next t ∧ a.id = s.nextId + 1 ∧ CarriesPosted a f pa win xs ∧
        t = { s1 with
          nextId := s.nextId + 2
          accs := s.accs ++ [a]
          posted := s.posted ++ [{ p with sent := true, out := [s.nextId + 1] }] }) ∧
      (relaxed = false → s.postedOf f ≠ [] →
        exec i s = .next { s1 with nextId := s.nextId + 1, posted := s.posted ++ [p] }))) ∧
  (∀ (f off : Nat) (xs : List Byte) (relaxed : Bool) (s : State), ¬PortOpen s f ∨ 64 ≤ (s.postedOf f).length →
    exec (.inboundPostedWrite f off xs relaxed) s = .next s) ∧
  (∀ (f : Nat) (s : State) (l r : List Access) (x : Access), Among s l x r → x.party = .inbound f →
    (x.st ≠ .performed → exec (.routeAck f x.id) s = .next s) ∧
    (x.st = .performed → s.asked = [] →
      let acked := s.posted.map fun (p : Posted) => { p with out := p.out.filter fun j => j != x.id }
      let q := acked.filter fun (p : Posted) => !p.sent || !p.out.isEmpty
      let s1 : State := { s with accs := l ++ r, posted := q }
      ((∀ p, (q.filter fun y => y.fn == f).head? = some p → p.sent = true) →
        exec (.routeAck f x.id) s = .next s1) ∧
      (∀ p pa win xs, (q.filter fun y => y.fn == f).head? = some p → p.sent = false → p.parts = [(pa, win, xs)] →
        (∀ y ∈ q, y.id = p.id → y = p) → ∃ t a, exec (.routeAck f x.id) s = .next t ∧ a.id = s.nextId ∧
          CarriesPosted a f pa win xs ∧ t = { s1 with
            nextId := s.nextId + 1
            accs := l ++ r ++ [a]
            posted := q.map (fun y => if y.id = p.id then { p with sent := true, out := [s.nextId] } else y) })))

/-- An inbound read or AtomicOp completes with Completer Abort for a fenced VD, with Unsupported Request where a byte of it
fails; a failing block gives Completer Abort and fences the VD. One that passes enters the ordering point behind the posted
writes of its function that are not acknowledged, and leaves, as a load or an atomic of the host port, once they are; the last
part that is performed answers it with the bytes, an AtomicOp with the old value (R206, R228, R240, R262, R270, R276, R277).
The split and the class of these accesses, and a misaligned AtomicOp, are the model's choice (log entries 68, 79). -/
def Sys2Proof.Claims.HostReadsAndAtomicsComplete : Prop :=
  (∀ (f off n : Nat) (s : State), PortOpen s f → InBlock off n →
    let i := Instr.inboundRead f off n
    (FencedFn s f → exec i s = .next { s with sent := s.sent ++ [.abort f] }) ∧
    (¬FencedFn s f → (1 ≤ f → (s.vd (f - 1)).st ≠ .none) → Fails s f off n .read →
      exec i s = .next { s with sent := s.sent ++ [.unsupported f] }) ∧
    (∀ pa win s1, Target s f off n .read pa win s1 → (∀ q ∈ s.asked, q.id < s.nextId) →
      Asks i s s1 f n none pa win) ∧
    (∀ pa l, Passes s f off n .read pa l → s.isBad pa = true →
      ∃ t xs, exec i s = .next t ∧ (t.vd (f - 1)).st = .fenced ∧ t.sent = xs ++ [.abort f])) ∧
  (∀ (f off : Nat) (op : PcieAtomic) (dword : Bool) (x y : Word) (s : State), PortOpen s f → off < 2 ^ 63 →
    let n := if dword then 8 else 4
    let i := Instr.inboundAtomic f off op dword x y
    (FencedFn s f → exec i s = .next { s with sent := s.sent ++ [.abort f] }) ∧
    (¬FencedFn s f → (1 ≤ f → (s.vd (f - 1)).st ≠ .none) → Fails s f off n .atomic →
      exec i s = .next { s with sent := s.sent ++ [.unsupported f] }) ∧
    (¬FencedFn s f → off % n ≠ 0 → exec i s = .next { s with sent := s.sent ++ [.unsupported f] }) ∧
    (∀ pa win s1, off % n = 0 → Target s f off n .atomic pa win s1 → (∀ q ∈ s.asked, q.id < s.nextId) →
      Asks i s s1 f n (some (match op with
        | .fetchAdd => (.add, x, 0)
        | .swap => (.swap, x, 0)
        | .cas => (.cas, y, x))) pa win)) ∧
  (∀ (f : Nat) (s : State) (l r : List Access) (x : Access) (q : InRead), Among s l x r → x.party = .inbound f →
    x.st = .performed → s.asked = [q] →
    let i := Instr.routeAck f x.id
    (∀ off rest, s.posted = [] → q.sent = true → q.out = (x.id, off) :: rest → (∀ o ∈ rest, o.1 ≠ x.id) →
      let got := q.got ||| (x.val.toNat % 2 ^ (8 * x.size)) <<< (8 * off)
      (rest ≠ [] → exec i s = .next { s with accs := l ++ r, asked := [{ q with out := rest, got := got }] }) ∧
      (rest = [] → exec i s =
        .next { s with accs := l ++ r, asked := [], sent := s.sent ++ [.completion q.fn (toBytes q.size got)] })) ∧
    (∀ p pa win n, s.posted = [p] → p.sent = true → p.fn = f → p.out = [x.id] → q.after = [p.id] → q.sent = false →
      q.out = [] → q.parts = [(pa, win, n, 0)] → ∃ t a, exec i s = .next t ∧ CarriesAsked a q.fn pa win n q.op ∧
        a.id = s.nextId ∧ t = { s with
          accs := l ++ r ++ [a]
          posted := []
          nextId := s.nextId + 1
          asked := [{ q with sent := true, out := [(s.nextId, 0)] }] }))

/-- Start-up: PERST# released, then each stage once the last is behind, its number and error code in word 0 of function 0's
status pair; an error stops the device: from then on it answers only resets, configuration requests and its sensors. Stage 2
takes measurement 1, stage 3 begins the firmware on the service cores in H and fails by 0x21 or 0x22, stage 4 takes
measurement 2 and leaves every slot unowned, stage 5 sets READY. Until stage 5 a configuration request is answered Request
Retry Status. PERST# again leaves the state of reset (R53, R276, R282, R286). What outlives PERST#, the answer to a
configuration request, and how firmware starts are the model's choice (log entries 5, 13, 69). -/
def Sys2Proof.Claims.DeviceStartsInStages : Prop :=
  (∀ s : State, Memory.wf s.mem = true → (s.perst = true → ∃ t, exec .perstRelease s = .next t ∧ t.perst = false ∧ t.stage = 1 ∧ t.cycle = 0 ∧
      Memory.get t.mem (mailbox 0) = 1) ∧
    (s.perst = false → exec .perstRelease s = .next s)) ∧
  (∀ (s : State) (err : BitVec 8), ∀ x ∈ [(Instr.rotFirmwareVerify err, 1, err), (.firmwareInit err, 2, err),
      (.millinerInit err, 3, err), (.deviceReady, 4, 0)],
    (x.2.1 = 2 → err ≠ 0 → err ≠ 0x21 → err ≠ 0x22 → exec x.1 s = .next s) ∧
    (s.perst = false → s.halted = false → s.stage = x.2.1 → (x.2.1 = 2 → err = 0 ∨ err = 0x21 ∨ err = 0x22) →
      Memory.wf s.mem = true → ∃ t, exec x.1 s = .next t ∧ t.stage = x.2.1 + 1 ∧
      t.rd (mailbox 0) 1 = x.2.1 + 1 ∧ t.rd (mailbox 0 + 1) 1 = x.2.2.toNat ∧ t.bootErr = x.2.2 ∧
      t.halted = decide (x.2.2 ≠ 0) ∧ t.ready = (s.ready || decide (x.2.1 = 4)) ∧
      (t.rd (mailbox 0 + 2) 1 = if t.ready then 1 else 0) ∧
      (x.2.1 = 2 → err = 0 → ∀ j, j < 8 → let c := (t.tileAt (4096 + j)).core
        c.lvl = .h ∧ c.status = .run ∧ c.pc = Config.firmwarePc j ∧ ∃ k, c.task = some k ∧ k.role = .firmware) ∧
      (x.2.1 = 1 → err = 0 → t.measured.1.isSome = true ∧ t.measured.2 = s.measured.2) ∧
      (x.2.1 = 3 → err = 0 → t.wheels = [] ∧ t.wheelsNext = [] ∧ t.measured.2.isSome = true ∧ t.measured.1 = s.measured.1)) ∧
    (s.perst = true ∨ s.halted = true ∨ s.stage ≠ x.2.1 → exec x.1 s = .next s)) ∧
  (∀ (s : State) (dt : Nat) (r : List Turn), s.off = false → s.halted = true →
    let u : State := { s with agenda := r, cycle := s.cycle + dt }
    (∀ n, s.agenda = ⟨dt, .core n false⟩ :: r → step s = .next (u.focus n)) ∧
    (∀ i, s.agenda = ⟨dt, .event i⟩ :: r → i ≠ .perstAssert → (∀ q, i ≠ .configurationRequest q) →
      (∀ c m x, i ≠ .powerThrottle c m x) → i ≠ .overtempShutdown → step s = .next u)) ∧
  (∀ (s : State) (req : List Byte), ∃ t, exec (.configurationRequest req) s = .next t ∧
    t = { s with sent := t.sent, tick := t.tick } ∧
    (if s.perst then t.sent = s.sent else if s.stage < 5 then t.sent = s.sent ++ [.retry]
     else ∃ xs, t.sent = s.sent ++ [.config xs])) ∧
  (∀ s : State, ∃ t, exec .perstAssert s = .next t ∧
    t = { State.reset with sent := s.sent, agenda := s.agenda, tick := s.tick, off := s.off })

/-- Sensors: PWRNOW and TEMPMAX read what they measure; above PCAP (0 or more than 4,800 W means 4,800) or from 100 °C on,
the running regions of a class are slowed when its turn has come, C3 first, then C2 and C1, C0 last; THROT[0] is set, and
THROT[1] for C0; otherwise none is slow. At 110 °C the device removes its own power and takes no step more. A lost frame is sent
again, and its payload counts once (R283, R287). When sensors are read, and that a slow region loses only time, are the model's
choice (log entry 75). -/
def Sys2Proof.Claims.PowerIsCappedAndFramesRepeat : Prop :=
  (∀ (cls : Fin 4) (mw : BitVec 32) (temp : BitVec 16) (s : State),
    let cap := if s.pcap.toNat = 0 ∨ 4800 < s.pcap.toNat then 4800 else s.pcap.toNat
    let hot : Prop := cap * 1000 < mw.toNat ∨ 1600 ≤ temp.toNat
    ∃ t, exec (.powerThrottle cls mw temp) s = .next t ∧
      t = { s with pwrnow := mw, tempmax := temp, slow := t.slow, throt := t.throt } ∧
      (hot → SlowTurn s cls.val → t.throt.getLsbD 0 = true ∧ t.throt.getLsbD 1 = (s.throt.getLsbD 1 || decide (cls = 0)) ∧
        ∀ c : Fin 4, t.slow.getLsbD c.val = (s.slow.getLsbD c.val || decide (c = cls))) ∧
      (hot → ¬SlowTurn s cls.val → t.throt = s.throt ∧ t.slow = s.slow) ∧
      (¬hot → t.throt = s.throt ∧ t.slow = 0)) ∧
  (∀ s : State, (1760 ≤ s.tempmax.toNat → ∃ t, exec .overtempShutdown s = .next t ∧ step t = .fault .poweredOff ∧
      t = { State.reset with sent := s.sent, tick := s.tick, off := true }) ∧
    (s.tempmax.toNat < 1760 → exec .overtempShutdown s = .next s)) ∧
  (∀ (n : Nat) (s : State), exec (.frameRetransmit n) s = .next s)
end

section
open Sys2Proof.Claims

/-- A step runs the instruction that the word at the pc decodes to, or the agenda's event; a word that is none faults:
the parts named here hold together. What the parts say is the model's choice rests on log entries 1, 2. -/
def Obligations.StepRunsWhatItFetches : Prop := StepRunsDecodedInstruction ∧ StepRunsAgendaEvent ∧ StepFaultsOnBadWord

/-- The guard is p[PG] XOR PN, guard 0 has no effect, and a wrong level raises PRIVILEGE whatever the guard: the parts
named here hold together. -/
def Obligations.GuardsDecideTheEffect : Prop := WrongLevelRaisesPrivilege ∧ GuardZeroHasNoEffect ∧ GuardIsPredicateXorSense

/-- LOOP pushes a level, skips its body or raises LOOP_NEST; the end test counts levels down: the parts named here hold
together. -/
def Obligations.LoopsPushTestAndSkip : Prop := LoopEndTest ∧ LoopPushesOrSkips

/-- ADD, SUB, MUL, MULH, DIV and REM write what their entries say and nothing else; division by 0 traps: the parts named
here hold together. -/
def Obligations.ArithmeticWritesItsResult : Prop := ArithmeticWrites ∧ DivisionByZeroTraps

/-- Logical instructions, shifts, counts, fields, moves, compares and selects write what their entries say and nothing
else: the parts named here hold together. -/
def Obligations.LogicFieldsAndComparesWriteTheirResult : Prop := LogicAndShiftsWriteTheirResult ∧ FieldsAndCountsWriteTheirResult ∧ CompareAndSelectWriteTheirResult

/-- BR, CBR, CALL, JMP and RET go to their targets and pop the loops they leave; a misaligned target traps: the parts
named here hold together. -/
def Obligations.BranchesGoToTheirTargets : Prop := BranchesGo ∧ MisalignedTargetTraps

/-- REP repeats its target with stepped registers, and faults at itself: the parts named here hold together. What the
parts say is the model's choice rests on log entry 11. -/
def Obligations.RepRepeatsItsTarget : Prop := RepRepeats ∧ RepFaultsAtItself

/-- The checks of an access come in the spec's order and change only translation state: the parts named here hold
together. What the parts say is the model's choice rests on log entry 20. -/
def Obligations.AccessChecksPassOrFaultInOrder : Prop := ChecksChangeOnlyTranslationState ∧ AccessChecksFaultInOrder

/-- LD and ST enter the order buffer with their address, bytes, order and scope: the parts named here hold together. -/
def Obligations.LoadsAndStoresEnterOrderBuffer : Prop := LoadEntersOrderBuffer ∧ StoreEntersOrderBuffer

/-- An access leaves the buffer unless an earlier one or a fence holds it; a fence leaves when nothing it waits for is
left: the parts named here hold together. What the parts say is the model's choice rests on log entries 30, 31. -/
def Obligations.FencesAndAccessesLeave : Prop := AccessLeavesUnlessHeld ∧ FencesEnterAndLeave

/-- Queues, wheels, the SC token, re-encryptions, device walks and the request limit: the parts named here hold
together. What the parts say is the model's choice rests on log entries 8, 59, 79. -/
def Obligations.QueuesWheelsAndWalksMove : Prop := QueuesAndWheelsMoveAccesses ∧ DeviceWalksAndLimits

/-- A reply writes the register that waits for it, and no other: the parts named here hold together. -/
def Obligations.ReplyWritesRegister : Prop := ReplyWritesG ∧ RepliesWriteTokensAndTiles

/-- WAITA sleeps until its word satisfies it; BAR arrives, and an episode closes at its count: the parts named here hold
together. -/
def Obligations.WaitaAndBarriers : Prop := WaitaSleepsUntilSatisfied ∧ BarrierArrivesAndCloses

/-- Conversions, scales, scans, reductions and functions write their token, with their flags: the parts named here hold
together. What the parts say is the model's choice rests on log entries 34, 89. -/
def Obligations.ConversionsAndReductionsWriteTheirResult : Prop := ConversionsAndReductionsWrite ∧ RoundingIsNearest ∧ ConversionValues ∧ SpecialFunctionValues

/-- Token moves, permutations, ranks and masks write their result; a token of the wrong tag traps: the parts named here
hold together. What the parts say is the model's choice rests on log entry 16. -/
def Obligations.TokenMovesWriteTheirResult : Prop := TokenMovesWrite ∧ WrongTagTraps

/-- Vector loads, stores, gathers and scatters issue their parts; sparse records are written and read: the parts named
here hold together. -/
def Obligations.VectorMemoryMoves : Prop := VectorMemoryIssuesParts ∧ SparseRecordsAreWrittenAndRead

/-- CFG installs a fabric image that the loader accepts; QWAIT waits for quiet: the parts named here hold together. What
the parts say is the model's choice rests on log entries 45, 46. -/
def Obligations.ConfigurationAndQuiet : Prop := ConfigurationRuns ∧ LoaderDecides

/-- A network move takes tokens one hop to every destination with room, through the filters of switches: the parts named
here hold together. What the parts say is the model's choice rests on log entries 41, 96. -/
def Obligations.TokensMoveOneHop : Prop := TokensMove ∧ FiltersDecide

/-- MAP, PREFIX, FILTER, REDUCE, QUANT and SELECT emit what their entries give: the parts named here hold together. What
the parts say is the model's choice rests on log entries 5, 34. -/
def Obligations.OperatorsFireOnTokens : Prop := OperatorsFire ∧ ExactSumsAndSamples

/-- The steps of DDOT add their exact products; results, ACLR, ALD, AST and TPRED reach accumulators and tables: the
parts named here hold together. What the parts say is the model's choice rests on log entry 36. -/
def Obligations.AccumulatorsAreWrittenAndRead : Prop := MacroStepsOfFormats ∧ AccumulatorsMove

/-- Engine threads move their bytes and then write their completion word: the parts named here hold together. What the
parts say is the model's choice rests on log entries 59, 76, 78, 98. -/
def Obligations.EngineThreadsMoveBytes : Prop := EngineThreadsComplete ∧ EngineBytesArrive

/-- SPAWN queues a region or writes its status; RUN starts a worker: the parts named here hold together. What the parts
say is the model's choice rests on log entries 7, 23, 53, 54, 80, 81, 83. -/
def Obligations.SpawnAndRunStartTasks : Prop := SpawnWritesItsStatus ∧ RunStartsAWorker

/-- EXIT ends a task; a region ends with its tasks, its RCB says so, and the notify word follows: the parts named here
hold together. What the parts say is the model's choice rests on log entries 27, 57, 80. -/
def Obligations.ExitEndsTasksAndRegions : Prop := ExitEnds ∧ MillinerWritesRcbAndNotify

/-- The TLBI forms drop translations and wait; DIRTY harvests the dirty bits: the parts named here hold together. What
the parts say is the model's choice rests on log entries 7, 8, 32, 35, 80. -/
def Obligations.TlbiAndDirty : Prop := TlbiInvalidatesAndWaits ∧ DirtyHarvests

/-- VDCMD creates, grants, revokes, starts and destroys virtual devices: the parts named here hold together. What the
parts say is the model's choice rests on log entries 14, 22, 23, 24, 70, 82. -/
def Obligations.VdCommands : Prop := VdCommandsCreateGrantRevoke ∧ VdCommandsStartDestroy

/-- Cores and elements stop, and the region is saved in an image that holds it bit by bit: the parts named here hold
together. What the parts say is the model's choice rests on log entries 61, 62, 63, 80, 85. -/
def Obligations.RegionsStopAndAreSaved : Prop := RegionsStop ∧ SavedImageHoldsItsRegion

/-- Inbound writes, reads and AtomicOps are judged whole and keep their order: the parts named here hold together. What
the parts say is the model's choice rests on log entries 67, 68, 70, 79. -/
def Obligations.HostRequestsAreJudgedInOrder : Prop := HostWritesKeepTheirOrder ∧ HostReadsAndAtomicsComplete

/-- The device starts in stages, throttles over its cap, and removes its power at 110 °C: the parts named here hold
together. What the parts say is the model's choice rests on log entries 5, 13, 69, 75. -/
def Obligations.DeviceStartsAndIsPowered : Prop := DeviceStartsInStages ∧ PowerIsCappedAndFramesRepeat
end
end

