-- ==== Sys2Proof/Laws/Codec.lean ====
section
/-!
SUPPORT. The fields of a word and their codes read back: what the per-instruction lemmas of the round trip rest on.
-/
namespace Sys2Proof

/-! ### Fields -/

theorem extract_high {m n : Nat} (a : BitVec m) (b : BitVec n) (lo k : Nat) (h : n ≤ lo) :
    (a ++ b).extractLsb' lo k = a.extractLsb' (lo - n) k := by
  apply BitVec.eq_of_getLsbD_eq
  intro i hi
  simp only [BitVec.getLsbD_extractLsb', BitVec.getLsbD_append, hi, decide_true, Bool.true_and]
  rw [if_neg (by omega), show lo + i - n = lo - n + i by omega]
theorem extract_low {m n : Nat} (a : BitVec m) (b : BitVec n) (lo k : Nat) (h : lo + k ≤ n) :
    (a ++ b).extractLsb' lo k = b.extractLsb' lo k := by
  apply BitVec.eq_of_getLsbD_eq
  intro i hi
  simp only [BitVec.getLsbD_extractLsb', BitVec.getLsbD_append, hi, decide_true, Bool.true_and]
  rw [if_pos (by omega)]
theorem extract_all {n : Nat} (a : BitVec n) : a.extractLsb' 0 n = a := by
  apply BitVec.eq_of_getLsbD_eq
  intro i hi
  simp [hi]

@[simp] theorem F0.of_pack (f : F0) : F0.of f.pack = f := by
  obtain ⟨d, a, b, c, fn, mod, ext⟩ := f
  simp (disch := omega) only [F0.of, F0.pack, extract_high, extract_low, extract_all, Nat.sub_self, Nat.reduceSub]
@[simp] theorem F1.of_pack (f : F1) : F1.of f.pack = f := by
  obtain ⟨d, a, fn, mod, imm⟩ := f
  simp (disch := omega) only [F1.of, F1.pack, extract_high, extract_low, extract_all, Nat.sub_self, Nat.reduceSub]
@[simp] theorem F2.of_pack (f : F2) : F2.of f.pack = f := by
  obtain ⟨t, base, idx, szf, ord, scope, minor, off⟩ := f
  simp (disch := omega) only [F2.of, F2.pack, extract_high, extract_low, extract_all, Nat.sub_self, Nat.reduceSub]
@[simp] theorem F3.of_pack (f : F3) : F3.of f.pack = f := by
  obtain ⟨a, b, cond, hint, fn3, disp⟩ := f
  simp (disch := omega) only [F3.of, F3.pack, extract_high, extract_low, extract_all, Nat.sub_self, Nat.reduceSub]
@[simp] theorem F4L.of_pack (f : F4L) : F4L.of f.pack = f := by
  obtain ⟨cnt, count, len, low⟩ := f
  simp (disch := omega) only [F4L.of, F4L.pack, extract_high, extract_low, extract_all, Nat.sub_self, Nat.reduceSub]
@[simp] theorem F4R.of_pack (f : F4R) : F4R.of f.pack = f := by
  obtain ⟨n, sd, sa, sb, sc, low⟩ := f
  simp (disch := omega) only [F4R.of, F4R.pack, extract_high, extract_low, extract_all, Nat.sub_self, Nat.reduceSub]
@[simp] theorem F5.of_pack (f : F5) : F5.of f.pack = f := by
  obtain ⟨ad, a, b, c, e, fn, flags⟩ := f
  simp (disch := omega) only [F5.of, F5.pack, extract_high, extract_low, extract_all, Nat.sub_self, Nat.reduceSub]
@[simp] theorem F6.of_pack (f : F6) : F6.of f.pack = f := by
  obtain ⟨d, a, fn, srn, imm⟩ := f
  simp (disch := omega) only [F6.of, F6.pack, extract_high, extract_low, extract_all, Nat.sub_self, Nat.reduceSub]
@[simp] theorem F7.of_pack (f : F7) : F7.of f.pack = f := by
  obtain ⟨d, a, port, fn, mod, imm⟩ := f
  simp (disch := omega) only [F7.of, F7.pack, extract_high, extract_low, extract_all, Nat.sub_self, Nat.reduceSub]
@[simp] theorem F4L.kind (f : F4L) : f.pack.extractLsb' 52 2 = 0#2 := by
  simp (disch := omega) only [F4L.pack, extract_high, extract_all, Nat.sub_self, Nat.reduceSub]
@[simp] theorem F4R.kind (f : F4R) : f.pack.extractLsb' 52 2 = 1#2 := by
  simp (disch := omega) only [F4R.pack, extract_high, extract_all, Nat.sub_self, Nat.reduceSub]

/-! ### Register fields -/

@[simp] theorem gOf_gCode : ∀ r : GReg, gOf (gCode r) = some r := by decide
@[simp] theorem vOf_vCode : ∀ r : VReg, vOf (vCode r) = some r := by decide
@[simp] theorem pOf_pCode : ∀ r : PReg, pOf (pCode r) = some r := by decide
@[simp] theorem aOf_aCode : ∀ r : AReg, aOf (aCode r) = some r := by decide
@[simp] theorem gCode_zero : ∀ r : GReg, (gCode r = 0#6) = (r = 0) := by decide
theorem gOf_pCode : ∀ r : PReg, gOf (pCode r) = none := by decide
theorem gOf_vCode : ∀ r : VReg, gOf (vCode r) = none := by decide
theorem vOf_gCode : ∀ r : GReg, vOf (gCode r) = none := by decide
@[simp] theorem gpOf_code (x : GP) : gpOf x.code = some x := by
  cases x <;> simp [gpOf, GP.code, gOf_pCode]
@[simp] theorem inPort_inCode : ∀ p : Fin 8, inPort (inCode p) = some p := by decide
@[simp] theorem outPort_outCode : ∀ p : Fin 8, outPort (outCode p) = some p := by decide

/-! ### Codes -/

@[simp] theorem Fmt.ofTag_tag (f : Fmt) : Fmt.ofTag f.tag = some f := by cases f <;> rfl
@[simp] theorem Cond.ofCode_code (k : Cond) : Cond.ofCode k.code.toNat = some k := by cases k <;> rfl
@[simp] theorem VCond.ofCode_code (k : VCond) : VCond.ofCode k.code.toNat = some k := by cases k <;> rfl
@[simp] theorem WCond.ofCode_code (k : WCond) : WCond.ofCode k.code = k := by cases k <;> rfl
@[simp] theorem PlogOp.ofCode_code (k : PlogOp) : PlogOp.ofCode k.code.toNat = some k := by cases k <;> rfl
@[simp] theorem Rm.ofCode_code (k : Rm) : Rm.ofCode k.code.toNat = some k := by cases k <;> rfl
@[simp] theorem Ord.ofCode_code (k : Ord) : Ord.ofCode k.code.toNat = some k := by cases k <;> rfl
@[simp] theorem Scope.ofCode_code (k : Scope) : Scope.ofCode k.code = k := by cases k <;> rfl
@[simp] theorem Sz.ofCode_code (k : Sz) : Sz.ofCode k.code.toNat = some k := by cases k <;> rfl
@[simp] theorem RedOp.ofCode_code (k : RedOp) : RedOp.ofCode k.code.toNat = some k := by cases k <;> rfl
@[simp] theorem Sparsity.ofCode_code (k : Sparsity) : Sparsity.ofCode k.code.toNat = some k := by cases k <;> rfl

theorem rdotActOf_code (f : Fmt) (h : f.isRdotAct = true) : rdotActOf (rdotActCode f).toNat = some f := by
  cases f <;> first | rfl | cases h
theorem wtOf_code (f : Fmt) (h : f.isRdotWt = true) : wtOf (wtCode f).toNat = some f := by
  cases f <;> first | rfl | cases h
theorem ddotAOf_code (f : Fmt) (h : f.isDdotA = true) : ddotAOf (ddotACode f).toNat = some f := by
  cases f <;> first | rfl | cases h
theorem ddotBOf_code (f : Fmt) (h : f.isDdotB = true) : ddotBOf (ddotBCode f).toNat = some f := by
  cases f <;> first | rfl | cases h

/-! ### Narrow values in wider fields -/

@[simp] theorem bit_one (b : Bool) : (bit b == 1#1) = b := by cases b <;> rfl
@[simp] theorem bit_one_eq (b : Bool) : (bit b = 1#1) = (b = true) := by cases b <;> simp [bit]
theorem low_setWidth {k n : Nat} (x : BitVec k) (h : k ≤ n) : (x.setWidth n).extractLsb' 0 k = x := by
  apply BitVec.eq_of_getLsbD_eq
  intro i hi
  simp [hi]; omega
theorem high_setWidth {k n : Nat} (x : BitVec k) (lo m : Nat) (h : k ≤ lo) : (x.setWidth n).extractLsb' lo m = 0#m := by
  apply BitVec.eq_of_getLsbD_eq
  intro i hi
  simp [BitVec.getLsbD_of_ge x (lo + i) (by omega)]
theorem toNat_setWidth' {k n : Nat} (x : BitVec k) (h : k ≤ n) : (x.setWidth n).toNat = x.toNat := by
  rw [BitVec.toNat_setWidth, Nat.mod_eq_of_lt]
  exact Nat.lt_of_lt_of_le x.isLt (Nat.pow_le_pow_right (by omega) h)
@[simp] theorem bit_toNat_lt (b : Bool) : ((0#2) ++ bit b).toNat < 2 := by cases b <;> decide
@[simp] theorem hint_one (b : Bool) : ((0#2) ++ bit b == 1#3) = b := by cases b <;> rfl

/-! ### Words -/

theorem maj_word (maj : BitVec 6) (g : Guard) (b : BitVec 54) : (word maj g b).extractLsb' 58 6 = maj := by
  simp (disch := omega) only [word, extract_high, extract_all, Nat.sub_self, Nat.reduceSub]
theorem body_word (maj : BitVec 6) (g : Guard) (b : BitVec 54) : (word maj g b).extractLsb' 0 54 = b := by
  simp (disch := omega) only [word, extract_low, extract_all]
@[simp] theorem guardOf_word (maj : BitVec 6) (g : Guard) (b : BitVec 54) : guardOf (word maj g b) = g := by
  obtain ⟨pg, pn⟩ := g
  have h1 : (word maj ⟨pg, pn⟩ b).extractLsb' 55 3 = BitVec.ofNat 3 pg.val := by
    simp (disch := omega) only [word, extract_high, extract_low, extract_all, Nat.sub_self, Nat.reduceSub]
  have h2 : (word maj ⟨pg, pn⟩ b).extractLsb' 54 1 = bit pn := by
    simp (disch := omega) only [word, extract_high, extract_low, extract_all, Nat.sub_self]
  simp only [guardOf, h1, h2, Guard.mk.injEq]
  constructor
  · apply Fin.ext
    simp
  · cases pn <;> rfl

/-- A word with a field that is not 0 is not the word of NOP. -/
theorem decode_word {maj : BitVec 6} {g : Guard} {b : BitVec 54} (h : maj ≠ 0 ∨ g ≠ ⟨0, false⟩ ∨ b ≠ 0) :
    decode (word maj g b) = decBody maj g b := by
  have hw : word maj g b ≠ 0 := by
    intro e
    have h1 := maj_word maj g b
    have h2 := body_word maj g b
    have h3 := guardOf_word maj g b
    rw [e] at h1 h2 h3
    rcases h with h | h | h
    · exact h (by rw [← h1]; rfl)
    · exact h (by rw [← h3]; rfl)
    · exact h (by rw [← h2]; rfl)
  rw [decode, if_neg hw, maj_word, guardOf_word, body_word]

end Sys2Proof
end

