-- ==== Sys2Proof/Laws/Memory.lean ====
section
/-!
SUPPORT. What reading and writing memory do to one another, and that every memory operation keeps the canonical form.
-/
namespace Sys2Proof.Machine

/-! ### One byte -/

/-- Below its first entry a canonical list reads as unlisted. -/
theorem Memory.get_below (l : List Host.Cell) (m a : Nat) (ha : a < m) (hl : Memory.above m l = true) :
    Memory.get l a = Memory.unlisted := by
  induction l generalizing m with
  | nil => rfl
  | cons q l ih =>
    obtain ⟨j, w⟩ := q
    simp only [Memory.above, Bool.and_eq_true, decide_eq_true_eq] at hl
    simp only [Memory.get]
    rw [if_neg (by omega)]
    exact ih (j + 1) (by omega) hl.2

theorem Memory.get_set_same (m : List Host.Cell) (a : Nat) (b : Byte) (h : Memory.wf m = true) :
    Memory.get (Memory.set m a b) a = b := by
  suffices ∀ n, n ≤ a → Memory.above n m = true → Memory.get (Memory.set m a b) a = b from this 0 (Nat.zero_le _) h
  clear h
  induction m with
  | nil => intro n _ _; by_cases hb : b = Memory.unlisted <;> simp [Memory.set, Memory.get, hb]
  | cons p r ih =>
    obtain ⟨k, v⟩ := p
    intro n hn h
    simp only [Memory.above, Bool.and_eq_true, decide_eq_true_eq] at h
    obtain ⟨⟨hk, hv⟩, hr⟩ := h
    simp only [Memory.set]
    split
    · split
      · rename_i hb; rw [hb]; exact Memory.get_below _ (a + 1) a (by omega) (by
          simp only [Memory.above, Bool.and_eq_true, decide_eq_true_eq]; exact ⟨⟨by omega, hv⟩, hr⟩)
      · simp [Memory.get]
    · split
      · rename_i hak; subst hak
        split
        · rename_i hb; rw [hb]; exact Memory.get_below r (a + 1) a (by omega) hr
        · simp [Memory.get]
      · simp only [Memory.get]
        rw [if_neg (by omega)]
        exact ih (k + 1) (by omega) hr

theorem Memory.get_set_other (m : List Host.Cell) (a c : Nat) (b : Byte) (h : c ≠ a) :
    Memory.get (Memory.set m a b) c = Memory.get m c := by
  induction m with
  | nil => by_cases hb : b = Memory.unlisted <;> simp [Memory.set, Memory.get, hb, Ne.symm h]
  | cons p r ih =>
    obtain ⟨k, v⟩ := p
    simp only [Memory.set]
    split
    · split
      · rfl
      · simp [Memory.get, Ne.symm h]
    · split
      · rename_i hak; subst hak
        split <;> simp [Memory.get, Ne.symm h]
      · simp [Memory.get, ih]

/-! ### The canonical form -/

theorem Memory.above_mono {m : List Host.Cell} {i j : Nat} (h : i ≤ j) (hm : Memory.above j m = true) :
    Memory.above i m = true := by
  cases m with
  | nil => rfl
  | cons p r =>
    obtain ⟨k, v⟩ := p
    simp only [Memory.above, Bool.and_eq_true, decide_eq_true_eq] at hm ⊢
    exact ⟨⟨by omega, hm.1.2⟩, hm.2⟩

theorem Memory.above_set (m : List Host.Cell) (n a : Nat) (b : Byte) (hn : n ≤ a) (h : Memory.above n m = true) :
    Memory.above n (Memory.set m a b) = true := by
  induction m generalizing n with
  | nil => by_cases hb : b = Memory.unlisted <;> simp [Memory.set, Memory.above, hb, hn]
  | cons p r ih =>
    obtain ⟨k, v⟩ := p
    simp only [Memory.above, Bool.and_eq_true, decide_eq_true_eq] at h
    obtain ⟨⟨hk, hv⟩, hr⟩ := h
    simp only [Memory.set]
    split
    · split
      · simp only [Memory.above, Bool.and_eq_true, decide_eq_true_eq]; exact ⟨⟨hk, hv⟩, hr⟩
      · rename_i hb
        simp only [Memory.above, Bool.and_eq_true, decide_eq_true_eq]
        exact ⟨⟨hn, hb⟩, ⟨by omega, hv⟩, hr⟩
    · split
      · rename_i hak; subst hak
        split
        · exact Memory.above_mono (by omega) hr
        · rename_i hb
          simp only [Memory.above, Bool.and_eq_true, decide_eq_true_eq]
          exact ⟨⟨hn, hb⟩, hr⟩
      · simp only [Memory.above, Bool.and_eq_true, decide_eq_true_eq]
        exact ⟨⟨hk, hv⟩, ih (k + 1) (by omega) hr⟩

theorem Memory.wf_set (m : List Host.Cell) (a : Nat) (b : Byte) (h : Memory.wf m = true) :
    Memory.wf (Memory.set m a b) = true := Memory.above_set m 0 a b (Nat.zero_le _) h

theorem Memory.wf_write (m : List Host.Cell) (a n x mask : Nat) (h : Memory.wf m = true) :
    Memory.wf (Memory.write m a n x mask) = true := by
  induction n generalizing m a x mask with
  | zero => exact h
  | succ n ih => exact ih _ _ _ _ (Memory.wf_set _ _ _ h)

theorem Memory.above_filter (m : List Host.Cell) (n : Nat) (f : Host.Cell → Bool) (h : Memory.above n m = true) :
    Memory.above n (m.filter f) = true := by
  induction m generalizing n with
  | nil => rfl
  | cons p r ih =>
    obtain ⟨k, v⟩ := p
    simp only [Memory.above, Bool.and_eq_true, decide_eq_true_eq] at h
    obtain ⟨⟨hk, hv⟩, hr⟩ := h
    simp only [List.filter]
    split
    · simp only [Memory.above, Bool.and_eq_true, decide_eq_true_eq]
      exact ⟨⟨hk, hv⟩, ih (k + 1) hr⟩
    · exact Memory.above_mono (by omega) (ih (k + 1) hr)

theorem Memory.wf_filter (m : List Host.Cell) (f : Host.Cell → Bool) (h : Memory.wf m = true) :
    Memory.wf (m.filter f) = true := Memory.above_filter m 0 f h

/-- Two memories in the canonical form that read the same are the same. -/
theorem Memory.eq_of_get {m l : List Host.Cell} (hm : Memory.wf m = true) (hl : Memory.wf l = true)
    (h : ∀ a, Memory.get m a = Memory.get l a) : m = l := by
  suffices ∀ (m l : List Host.Cell) (n : Nat), Memory.above n m = true → Memory.above n l = true →
      (∀ a, n ≤ a → Memory.get m a = Memory.get l a) → m = l from this m l 0 hm hl fun a _ => h a
  clear h hm hl m l
  intro m
  induction m with
  | nil =>
    intro l n _ hl h
    cases l with
    | nil => rfl
    | cons q l =>
      obtain ⟨j, w⟩ := q
      simp only [Memory.above, Bool.and_eq_true, decide_eq_true_eq] at hl
      have := h j hl.1.1
      simp only [Memory.get, if_true] at this
      exact absurd this.symm hl.1.2
  | cons p m ih =>
    obtain ⟨k, v⟩ := p
    intro l n hm hl h
    have hm' := hm
    simp only [Memory.above, Bool.and_eq_true, decide_eq_true_eq] at hm'
    obtain ⟨⟨hk, hv⟩, hr⟩ := hm'
    cases l with
    | nil =>
      have := h k hk
      simp only [Memory.get, if_true] at this
      exact absurd this hv
    | cons q l =>
      obtain ⟨j, w⟩ := q
      have hl' := hl
      simp only [Memory.above, Bool.and_eq_true, decide_eq_true_eq] at hl'
      obtain ⟨⟨hj, hw⟩, hs⟩ := hl'
      have hkj : k = j := by
        rcases Nat.lt_trichotomy k j with lt | eq | gt
        · have := h k hk
          rw [Memory.get_below ((j, w) :: l) j k lt (by
            simp only [Memory.above, Bool.and_eq_true, decide_eq_true_eq]; exact ⟨⟨Nat.le_refl _, hw⟩, hs⟩)] at this
          simp only [Memory.get, if_true] at this
          exact absurd this hv
        · exact eq
        · have := h j hj
          rw [Memory.get_below ((k, v) :: m) k j gt (by
            simp only [Memory.above, Bool.and_eq_true, decide_eq_true_eq]; exact ⟨⟨Nat.le_refl _, hv⟩, hr⟩)] at this
          simp only [Memory.get, if_true] at this
          exact absurd this.symm hw
      subst hkj
      have hvw : v = w := by simpa [Memory.get] using h k hk
      subst hvw
      rw [ih l (k + 1) hr hs fun a ha => by
        have := h a (by omega)
        simpa [Memory.get, show k ≠ a by omega] using this]

/-! ### Several bytes -/

theorem Memory.get_write_other (m : List Host.Cell) (a n x mask c : Nat) (h : c < a ∨ a + n ≤ c) :
    Memory.get (Memory.write m a n x mask) c = Memory.get m c := by
  induction n generalizing m a x mask with
  | zero => rfl
  | succ n ih =>
    rw [Memory.write, ih _ _ _ _ (by omega), Memory.get_set_other _ _ _ _ (by omega)]

/-- A byte that a masked write covers: the old bits where the mask is clear, the new ones where it is set. -/
theorem Memory.get_write_same (m : List Host.Cell) (a n x mask i : Nat) (h : Memory.wf m = true) (hi : i < n) :
    Memory.get (Memory.write m a n x mask) (a + i) =
      BitVec.ofNat 8 (((Memory.get m (a + i)).toNat &&& (255 - mask / 256 ^ i % 256)) |||
        (x / 256 ^ i % 256 &&& mask / 256 ^ i % 256)) := by
  induction n generalizing m a x mask i with
  | zero => omega
  | succ n ih =>
    cases i with
    | zero =>
      rw [Memory.write, Memory.get_write_other _ _ _ _ _ _ (by omega)]
      simp [Memory.get_set_same _ _ _ h]
    | succ i =>
      rw [Memory.write, show a + (i + 1) = a + 1 + i by omega, ih _ _ _ _ _ (Memory.wf_set _ _ _ h) (by omega),
        Memory.get_set_other _ _ _ _ (by omega)]
      simp [Nat.pow_succ', Nat.div_div_eq_div_mul]

theorem Memory.read_congr (m l : List Host.Cell) (a n : Nat) (h : ∀ i, i < n → Memory.get m (a + i) = Memory.get l (a + i)) :
    Memory.read m a n = Memory.read l a n := by
  induction n generalizing a with
  | zero => rfl
  | succ n ih =>
    have h0 := h 0 (by omega)
    rw [Memory.read, Memory.read, ih (a + 1) fun i hi => by
      have := h (i + 1) (by omega)
      rwa [show a + (i + 1) = a + 1 + i by omega] at this]
    simp only [Nat.add_zero] at h0
    rw [h0]

/-- Bytes away from a write read as before. -/
theorem Memory.read_write_other (m : List Host.Cell) (a n x mask b k : Nat) (h : b + k ≤ a ∨ a + n ≤ b) :
    Memory.read (Memory.write m a n x mask) b k = Memory.read m b k :=
  Memory.read_congr _ _ _ _ fun i hi => Memory.get_write_other _ _ _ _ _ _ (by omega)

/-- What a whole write of n bytes stored is what reading them gives. -/
theorem Memory.read_write_same (m : List Host.Cell) (a n x : Nat) (h : Memory.wf m = true) :
    Memory.read (Memory.write m a n x (fullMask n)) a n = x % 256 ^ n := by
  suffices ∀ k mask, (∀ i, i < k → mask / 256 ^ i % 256 = 255) →
      Memory.read (Memory.write m a k x mask) a k = x % 256 ^ k from
    this n (fullMask n) fun i hi => by
      have e : 256 ^ n = 256 ^ i * 256 ^ (n - i - 1) * 256 := by
        rw [← Nat.pow_add, ← Nat.pow_succ]; congr 1; omega
      have p : 0 < 256 ^ i := Nat.pow_pos (by omega)
      have q : 0 < 256 ^ (n - i - 1) := Nat.pow_pos (by omega)
      have d : fullMask n / 256 ^ i = 256 ^ (n - i - 1) * 256 - 1 := by
        rw [fullMask, e, Nat.mul_assoc]
        rw [show 256 ^ i * (256 ^ (n - i - 1) * 256) - 1 =
          256 ^ i * (256 ^ (n - i - 1) * 256 - 1) + (256 ^ i - 1) by
            rw [Nat.mul_sub]
            have : 256 ^ i ≤ 256 ^ i * (256 ^ (n - i - 1) * 256) := Nat.le_mul_of_pos_right _ (by omega)
            omega]
        rw [Nat.mul_add_div p, Nat.div_eq_of_lt (by omega), Nat.add_zero]
      rw [d]; omega
  intro k
  induction k generalizing m a x with
  | zero => intros; simp [Memory.read, Nat.mod_one]
  | succ k ih =>
    intro mask hm
    rw [Memory.read, Memory.write]
    have h0 := hm 0 (by omega)
    simp only [Nat.pow_zero, Nat.div_one] at h0
    rw [ih _ _ _ (Memory.wf_set _ _ _ h) _ fun i hi => by
      have := hm (i + 1) (by omega)
      rwa [Nat.pow_succ', ← Nat.div_div_eq_div_mul] at this]
    rw [Memory.get_write_other _ _ _ _ _ _ (by omega), Memory.get_set_same _ _ _ h, h0]
    simp only [Nat.sub_self, Nat.and_zero, Nat.zero_or]
    rw [show x % 256 &&& 255 = x % 256 by
      rw [show (255 : Nat) = 2 ^ 8 - 1 by rfl, Nat.and_two_pow_sub_one_eq_mod]; omega]
    rw [BitVec.toNat_ofNat, show 256 ^ (k + 1) = 256 * 256 ^ k from Nat.pow_succ', Nat.mod_mul,
      Nat.mod_eq_of_lt (show x % 256 < 2 ^ 8 by omega)]

/-! ### The operations of the machine -/

theorem State.wr_wf (s : State) (pa n x : Nat) (h : Memory.wf s.mem = true) : Memory.wf (s.wr pa n x).mem = true :=
  Memory.wf_write _ _ _ _ _ h

theorem State.zero_wf (s : State) (pa n : Nat) (h : Memory.wf s.mem = true) : Memory.wf (s.zero pa n).mem = true :=
  Memory.wf_filter _ _ h

@[simp] theorem State.wake_mem (s : State) (pa n : Nat) : (s.wake pa n).mem = s.mem := rfl
@[simp] theorem State.seal_mem (s : State) (pa : Nat) : (s.seal pa).mem = s.mem := by
  unfold State.seal; split <;> rfl
@[simp] theorem State.commit_mem (s : State) (pa n x mask : Nat) :
    (s.commit pa n x mask).mem = Memory.write s.mem pa n x mask := by simp [State.commit]

theorem State.commit_wf (s : State) (pa n x mask : Nat) (h : Memory.wf s.mem = true) :
    Memory.wf (s.commit pa n x mask).mem = true := by
  rw [State.commit_mem]; exact Memory.wf_write _ _ _ _ _ h

/-- The memory lists nothing at reset, and so it is in its canonical form. -/
theorem reset_mem_wf : Memory.wf State.reset.mem = true := rfl

end Sys2Proof.Machine
end

