-- ==== Sys2Proof/Laws/State.lean ====
section
/-!
SUPPORT. What each update of the state changes: one lemma for each field and update, so that no proof unfolds a record.
-/
namespace Sys2Proof.Machine


/-! ### The core in focus -/

@[simp] theorem State.setCore_core (s : State) (c : Core) : (s.setCore c).core = c := rfl
@[simp] theorem State.setCore_self (s : State) : s.setCore s.core = s := rfl
@[simp] theorem State.setCore_setCore (s : State) (c d : Core) : (s.setCore c).setCore d = s.setCore d := rfl
@[simp] theorem State.setCore_fab (s : State) (c : Core) : (s.setCore c).tile.fab = s.tile.fab := rfl
@[simp] theorem State.setCore_cur (s : State) (c : Core) : (s.setCore c).cur = s.cur := rfl
@[simp] theorem State.setCore_parked (s : State) (c : Core) : (s.setCore c).parked = s.parked := rfl
@[simp] theorem State.setCore_ir (s : State) (c : Core) : (s.setCore c).ir = s.ir := rfl
@[simp] theorem State.setCore_mem (s : State) (c : Core) : (s.setCore c).mem = s.mem := rfl
@[simp] theorem State.setCore_accs (s : State) (c : Core) : (s.setCore c).accs = s.accs := rfl
@[simp] theorem State.setCore_threads (s : State) (c : Core) : (s.setCore c).threads = s.threads := rfl
@[simp] theorem State.setCore_nextId (s : State) (c : Core) : (s.setCore c).nextId = s.nextId := rfl
@[simp] theorem State.setCore_ringAt (s : State) (c : Core) : (s.setCore c).ringAt = s.ringAt := rfl
@[simp] theorem State.setCore_seqNext (s : State) (c : Core) : (s.setCore c).seqNext = s.seqNext := rfl
@[simp] theorem State.setCore_ringDone (s : State) (c : Core) : (s.setCore c).ringDone = s.ringDone := rfl
@[simp] theorem State.setCore_counters (s : State) (c : Core) : (s.setCore c).counters = s.counters := rfl
@[simp] theorem State.setCore_recrypt (s : State) (c : Core) : (s.setCore c).recrypt = s.recrypt := rfl
@[simp] theorem State.setCore_bad (s : State) (c : Core) : (s.setCore c).bad = s.bad := rfl
@[simp] theorem State.setCore_badCtr (s : State) (c : Core) : (s.setCore c).badCtr = s.badCtr := rfl
@[simp] theorem State.setCore_keys (s : State) (c : Core) : (s.setCore c).keys = s.keys := rfl
@[simp] theorem State.setCore_regions (s : State) (c : Core) : (s.setCore c).regions = s.regions := rfl
@[simp] theorem State.setCore_vds (s : State) (c : Core) : (s.setCore c).vds = s.vds := rfl
@[simp] theorem State.setCore_wins (s : State) (c : Core) : (s.setCore c).wins = s.wins := rfl
@[simp] theorem State.setCore_queue (s : State) (c : Core) : (s.setCore c).queue = s.queue := rfl
@[simp] theorem State.setCore_notifyDue (s : State) (c : Core) : (s.setCore c).notifyDue = s.notifyDue := rfl
@[simp] theorem State.setCore_frozenBy (s : State) (c : Core) : (s.setCore c).frozenBy = s.frozenBy := rfl
@[simp] theorem State.setCore_wkey (s : State) (c : Core) : (s.setCore c).wkey = s.wkey := rfl
@[simp] theorem State.setCore_ctlFlight (s : State) (c : Core) : (s.setCore c).ctlFlight = s.ctlFlight := rfl
@[simp] theorem State.setCore_cycle (s : State) (c : Core) : (s.setCore c).cycle = s.cycle := rfl
@[simp] theorem State.setCore_timebase (s : State) (c : Core) : (s.setCore c).timebase = s.timebase := rfl
@[simp] theorem State.setCore_vdsel (s : State) (c : Core) : (s.setCore c).vdsel = s.vdsel := rfl
@[simp] theorem State.setCore_vdgbase (s : State) (c : Core) : (s.setCore c).vdgbase = s.vdgbase := rfl
@[simp] theorem State.setCore_vdgcount (s : State) (c : Core) : (s.setCore c).vdgcount = s.vdgcount := rfl
@[simp] theorem State.setCore_vdOp (s : State) (c : Core) : (s.setCore c).vdOp = s.vdOp := rfl
@[simp] theorem State.setCore_vdStatus (s : State) (c : Core) : (s.setCore c).vdStatus = s.vdStatus := rfl
@[simp] theorem State.setCore_vdBusy (s : State) (c : Core) : (s.setCore c).vdBusy = s.vdBusy := rfl
@[simp] theorem State.setCore_whsel (s : State) (c : Core) : (s.setCore c).whsel = s.whsel := rfl
@[simp] theorem State.setCore_wheels (s : State) (c : Core) : (s.setCore c).wheels = s.wheels := rfl
@[simp] theorem State.setCore_wheelsNext (s : State) (c : Core) : (s.setCore c).wheelsNext = s.wheelsNext := rfl
@[simp] theorem State.setCore_wheelsAt (s : State) (c : Core) : (s.setCore c).wheelsAt = s.wheelsAt := rfl
@[simp] theorem State.setCore_wheelUsed (s : State) (c : Core) : (s.setCore c).wheelUsed = s.wheelUsed := rfl
@[simp] theorem State.setCore_wheelLast (s : State) (c : Core) : (s.setCore c).wheelLast = s.wheelLast := rfl
@[simp] theorem State.setCore_wheelGot (s : State) (c : Core) : (s.setCore c).wheelGot = s.wheelGot := rfl
@[simp] theorem State.setCore_peersLost (s : State) (c : Core) : (s.setCore c).peersLost = s.peersLost := rfl
@[simp] theorem State.setCore_peersHeard (s : State) (c : Core) : (s.setCore c).peersHeard = s.peersHeard := rfl
@[simp] theorem State.setCore_c0vd (s : State) (c : Core) : (s.setCore c).c0vd = s.c0vd := rfl
@[simp] theorem State.setCore_pwrnow (s : State) (c : Core) : (s.setCore c).pwrnow = s.pwrnow := rfl
@[simp] theorem State.setCore_tempmax (s : State) (c : Core) : (s.setCore c).tempmax = s.tempmax := rfl
@[simp] theorem State.setCore_pcap (s : State) (c : Core) : (s.setCore c).pcap = s.pcap := rfl
@[simp] theorem State.setCore_throt (s : State) (c : Core) : (s.setCore c).throt = s.throt := rfl
@[simp] theorem State.setCore_slow (s : State) (c : Core) : (s.setCore c).slow = s.slow := rfl
@[simp] theorem State.setCore_cecnt (s : State) (c : Core) : (s.setCore c).cecnt = s.cecnt := rfl
@[simp] theorem State.setCore_winsel (s : State) (c : Core) : (s.setCore c).winsel = s.winsel := rfl
@[simp] theorem State.setCore_stage (s : State) (c : Core) : (s.setCore c).stage = s.stage := rfl
@[simp] theorem State.setCore_bootErr (s : State) (c : Core) : (s.setCore c).bootErr = s.bootErr := rfl
@[simp] theorem State.setCore_ready (s : State) (c : Core) : (s.setCore c).ready = s.ready := rfl
@[simp] theorem State.setCore_perst (s : State) (c : Core) : (s.setCore c).perst = s.perst := rfl
@[simp] theorem State.setCore_halted (s : State) (c : Core) : (s.setCore c).halted = s.halted := rfl
@[simp] theorem State.setCore_measured (s : State) (c : Core) : (s.setCore c).measured = s.measured := rfl
@[simp] theorem State.setCore_off (s : State) (c : Core) : (s.setCore c).off = s.off := rfl
@[simp] theorem State.setCore_posted (s : State) (c : Core) : (s.setCore c).posted = s.posted := rfl
@[simp] theorem State.setCore_asked (s : State) (c : Core) : (s.setCore c).asked = s.asked := rfl
@[simp] theorem State.setCore_sent (s : State) (c : Core) : (s.setCore c).sent = s.sent := rfl
@[simp] theorem State.setCore_agenda (s : State) (c : Core) : (s.setCore c).agenda = s.agenda := rfl
@[simp] theorem State.setCore_tick (s : State) (c : Core) : (s.setCore c).tick = s.tick := rfl

/-! ### The record of any core -/

@[simp] theorem State.updTile_eq (s : State) (t : Nat) (f : Tile → Tile) : s.updTile t f = s.setTile t (f (s.tileAt t)) := rfl
@[simp] theorem State.updCore_eq (s : State) (t : Nat) (f : Core → Core) :
    s.updCore t f = s.setTile t { s.tileAt t with core := f (s.tileAt t).core } := rfl
@[simp] theorem State.updFab_eq (s : State) (t : Nat) (f : Fabric → Fabric) :
    s.updFab t f = s.setTile t { s.tileAt t with fab := f (s.tileAt t).fab } := rfl
@[simp] theorem State.setTile_cur (s : State) (t : Nat) (x : Tile) : (s.setTile t x).cur = s.cur := by
  unfold State.setTile; split <;> rfl
@[simp] theorem State.setTile_ir (s : State) (t : Nat) (x : Tile) : (s.setTile t x).ir = s.ir := by
  unfold State.setTile; split <;> rfl
@[simp] theorem State.setTile_mem (s : State) (t : Nat) (x : Tile) : (s.setTile t x).mem = s.mem := by
  unfold State.setTile; split <;> rfl
@[simp] theorem State.setTile_accs (s : State) (t : Nat) (x : Tile) : (s.setTile t x).accs = s.accs := by
  unfold State.setTile; split <;> rfl
@[simp] theorem State.setTile_threads (s : State) (t : Nat) (x : Tile) : (s.setTile t x).threads = s.threads := by
  unfold State.setTile; split <;> rfl
@[simp] theorem State.setTile_nextId (s : State) (t : Nat) (x : Tile) : (s.setTile t x).nextId = s.nextId := by
  unfold State.setTile; split <;> rfl
@[simp] theorem State.setTile_ringAt (s : State) (t : Nat) (x : Tile) : (s.setTile t x).ringAt = s.ringAt := by
  unfold State.setTile; split <;> rfl
@[simp] theorem State.setTile_seqNext (s : State) (t : Nat) (x : Tile) : (s.setTile t x).seqNext = s.seqNext := by
  unfold State.setTile; split <;> rfl
@[simp] theorem State.setTile_ringDone (s : State) (t : Nat) (x : Tile) : (s.setTile t x).ringDone = s.ringDone := by
  unfold State.setTile; split <;> rfl
@[simp] theorem State.setTile_counters (s : State) (t : Nat) (x : Tile) : (s.setTile t x).counters = s.counters := by
  unfold State.setTile; split <;> rfl
@[simp] theorem State.setTile_recrypt (s : State) (t : Nat) (x : Tile) : (s.setTile t x).recrypt = s.recrypt := by
  unfold State.setTile; split <;> rfl
@[simp] theorem State.setTile_bad (s : State) (t : Nat) (x : Tile) : (s.setTile t x).bad = s.bad := by
  unfold State.setTile; split <;> rfl
@[simp] theorem State.setTile_badCtr (s : State) (t : Nat) (x : Tile) : (s.setTile t x).badCtr = s.badCtr := by
  unfold State.setTile; split <;> rfl
@[simp] theorem State.setTile_keys (s : State) (t : Nat) (x : Tile) : (s.setTile t x).keys = s.keys := by
  unfold State.setTile; split <;> rfl
@[simp] theorem State.setTile_regions (s : State) (t : Nat) (x : Tile) : (s.setTile t x).regions = s.regions := by
  unfold State.setTile; split <;> rfl
@[simp] theorem State.setTile_vds (s : State) (t : Nat) (x : Tile) : (s.setTile t x).vds = s.vds := by
  unfold State.setTile; split <;> rfl
@[simp] theorem State.setTile_wins (s : State) (t : Nat) (x : Tile) : (s.setTile t x).wins = s.wins := by
  unfold State.setTile; split <;> rfl
@[simp] theorem State.setTile_queue (s : State) (t : Nat) (x : Tile) : (s.setTile t x).queue = s.queue := by
  unfold State.setTile; split <;> rfl
@[simp] theorem State.setTile_notifyDue (s : State) (t : Nat) (x : Tile) : (s.setTile t x).notifyDue = s.notifyDue := by
  unfold State.setTile; split <;> rfl
@[simp] theorem State.setTile_frozenBy (s : State) (t : Nat) (x : Tile) : (s.setTile t x).frozenBy = s.frozenBy := by
  unfold State.setTile; split <;> rfl
@[simp] theorem State.setTile_wkey (s : State) (t : Nat) (x : Tile) : (s.setTile t x).wkey = s.wkey := by
  unfold State.setTile; split <;> rfl
@[simp] theorem State.setTile_ctlFlight (s : State) (t : Nat) (x : Tile) : (s.setTile t x).ctlFlight = s.ctlFlight := by
  unfold State.setTile; split <;> rfl
@[simp] theorem State.setTile_cycle (s : State) (t : Nat) (x : Tile) : (s.setTile t x).cycle = s.cycle := by
  unfold State.setTile; split <;> rfl
@[simp] theorem State.setTile_timebase (s : State) (t : Nat) (x : Tile) : (s.setTile t x).timebase = s.timebase := by
  unfold State.setTile; split <;> rfl
@[simp] theorem State.setTile_vdsel (s : State) (t : Nat) (x : Tile) : (s.setTile t x).vdsel = s.vdsel := by
  unfold State.setTile; split <;> rfl
@[simp] theorem State.setTile_vdgbase (s : State) (t : Nat) (x : Tile) : (s.setTile t x).vdgbase = s.vdgbase := by
  unfold State.setTile; split <;> rfl
@[simp] theorem State.setTile_vdgcount (s : State) (t : Nat) (x : Tile) : (s.setTile t x).vdgcount = s.vdgcount := by
  unfold State.setTile; split <;> rfl
@[simp] theorem State.setTile_vdOp (s : State) (t : Nat) (x : Tile) : (s.setTile t x).vdOp = s.vdOp := by
  unfold State.setTile; split <;> rfl
@[simp] theorem State.setTile_vdStatus (s : State) (t : Nat) (x : Tile) : (s.setTile t x).vdStatus = s.vdStatus := by
  unfold State.setTile; split <;> rfl
@[simp] theorem State.setTile_vdBusy (s : State) (t : Nat) (x : Tile) : (s.setTile t x).vdBusy = s.vdBusy := by
  unfold State.setTile; split <;> rfl
@[simp] theorem State.setTile_whsel (s : State) (t : Nat) (x : Tile) : (s.setTile t x).whsel = s.whsel := by
  unfold State.setTile; split <;> rfl
@[simp] theorem State.setTile_wheels (s : State) (t : Nat) (x : Tile) : (s.setTile t x).wheels = s.wheels := by
  unfold State.setTile; split <;> rfl
@[simp] theorem State.setTile_wheelsNext (s : State) (t : Nat) (x : Tile) : (s.setTile t x).wheelsNext = s.wheelsNext := by
  unfold State.setTile; split <;> rfl
@[simp] theorem State.setTile_wheelsAt (s : State) (t : Nat) (x : Tile) : (s.setTile t x).wheelsAt = s.wheelsAt := by
  unfold State.setTile; split <;> rfl
@[simp] theorem State.setTile_wheelUsed (s : State) (t : Nat) (x : Tile) : (s.setTile t x).wheelUsed = s.wheelUsed := by
  unfold State.setTile; split <;> rfl
@[simp] theorem State.setTile_wheelLast (s : State) (t : Nat) (x : Tile) : (s.setTile t x).wheelLast = s.wheelLast := by
  unfold State.setTile; split <;> rfl
@[simp] theorem State.setTile_wheelGot (s : State) (t : Nat) (x : Tile) : (s.setTile t x).wheelGot = s.wheelGot := by
  unfold State.setTile; split <;> rfl
@[simp] theorem State.setTile_peersLost (s : State) (t : Nat) (x : Tile) : (s.setTile t x).peersLost = s.peersLost := by
  unfold State.setTile; split <;> rfl
@[simp] theorem State.setTile_peersHeard (s : State) (t : Nat) (x : Tile) : (s.setTile t x).peersHeard = s.peersHeard := by
  unfold State.setTile; split <;> rfl
@[simp] theorem State.setTile_c0vd (s : State) (t : Nat) (x : Tile) : (s.setTile t x).c0vd = s.c0vd := by
  unfold State.setTile; split <;> rfl
@[simp] theorem State.setTile_pwrnow (s : State) (t : Nat) (x : Tile) : (s.setTile t x).pwrnow = s.pwrnow := by
  unfold State.setTile; split <;> rfl
@[simp] theorem State.setTile_tempmax (s : State) (t : Nat) (x : Tile) : (s.setTile t x).tempmax = s.tempmax := by
  unfold State.setTile; split <;> rfl
@[simp] theorem State.setTile_pcap (s : State) (t : Nat) (x : Tile) : (s.setTile t x).pcap = s.pcap := by
  unfold State.setTile; split <;> rfl
@[simp] theorem State.setTile_throt (s : State) (t : Nat) (x : Tile) : (s.setTile t x).throt = s.throt := by
  unfold State.setTile; split <;> rfl
@[simp] theorem State.setTile_slow (s : State) (t : Nat) (x : Tile) : (s.setTile t x).slow = s.slow := by
  unfold State.setTile; split <;> rfl
@[simp] theorem State.setTile_cecnt (s : State) (t : Nat) (x : Tile) : (s.setTile t x).cecnt = s.cecnt := by
  unfold State.setTile; split <;> rfl
@[simp] theorem State.setTile_winsel (s : State) (t : Nat) (x : Tile) : (s.setTile t x).winsel = s.winsel := by
  unfold State.setTile; split <;> rfl
@[simp] theorem State.setTile_stage (s : State) (t : Nat) (x : Tile) : (s.setTile t x).stage = s.stage := by
  unfold State.setTile; split <;> rfl
@[simp] theorem State.setTile_bootErr (s : State) (t : Nat) (x : Tile) : (s.setTile t x).bootErr = s.bootErr := by
  unfold State.setTile; split <;> rfl
@[simp] theorem State.setTile_ready (s : State) (t : Nat) (x : Tile) : (s.setTile t x).ready = s.ready := by
  unfold State.setTile; split <;> rfl
@[simp] theorem State.setTile_perst (s : State) (t : Nat) (x : Tile) : (s.setTile t x).perst = s.perst := by
  unfold State.setTile; split <;> rfl
@[simp] theorem State.setTile_halted (s : State) (t : Nat) (x : Tile) : (s.setTile t x).halted = s.halted := by
  unfold State.setTile; split <;> rfl
@[simp] theorem State.setTile_measured (s : State) (t : Nat) (x : Tile) : (s.setTile t x).measured = s.measured := by
  unfold State.setTile; split <;> rfl
@[simp] theorem State.setTile_off (s : State) (t : Nat) (x : Tile) : (s.setTile t x).off = s.off := by
  unfold State.setTile; split <;> rfl
@[simp] theorem State.setTile_posted (s : State) (t : Nat) (x : Tile) : (s.setTile t x).posted = s.posted := by
  unfold State.setTile; split <;> rfl
@[simp] theorem State.setTile_asked (s : State) (t : Nat) (x : Tile) : (s.setTile t x).asked = s.asked := by
  unfold State.setTile; split <;> rfl
@[simp] theorem State.setTile_sent (s : State) (t : Nat) (x : Tile) : (s.setTile t x).sent = s.sent := by
  unfold State.setTile; split <;> rfl
@[simp] theorem State.setTile_agenda (s : State) (t : Nat) (x : Tile) : (s.setTile t x).agenda = s.agenda := by
  unfold State.setTile; split <;> rfl
@[simp] theorem State.setTile_tick (s : State) (t : Nat) (x : Tile) : (s.setTile t x).tick = s.tick := by
  unfold State.setTile; split <;> rfl

/-! ### Regions -/

@[simp] theorem State.setRegion_regions (s : State) (r : Nat) (x : Region) : (s.setRegion r x).regions = s.regions.set r x := rfl
@[simp] theorem State.setRegion_cur (s : State) (r : Nat) (x : Region) : (s.setRegion r x).cur = s.cur := rfl
@[simp] theorem State.setRegion_tile (s : State) (r : Nat) (x : Region) : (s.setRegion r x).tile = s.tile := rfl
@[simp] theorem State.setRegion_parked (s : State) (r : Nat) (x : Region) : (s.setRegion r x).parked = s.parked := rfl
@[simp] theorem State.setRegion_ir (s : State) (r : Nat) (x : Region) : (s.setRegion r x).ir = s.ir := rfl
@[simp] theorem State.setRegion_mem (s : State) (r : Nat) (x : Region) : (s.setRegion r x).mem = s.mem := rfl
@[simp] theorem State.setRegion_accs (s : State) (r : Nat) (x : Region) : (s.setRegion r x).accs = s.accs := rfl
@[simp] theorem State.setRegion_threads (s : State) (r : Nat) (x : Region) : (s.setRegion r x).threads = s.threads := rfl
@[simp] theorem State.setRegion_nextId (s : State) (r : Nat) (x : Region) : (s.setRegion r x).nextId = s.nextId := rfl
@[simp] theorem State.setRegion_ringAt (s : State) (r : Nat) (x : Region) : (s.setRegion r x).ringAt = s.ringAt := rfl
@[simp] theorem State.setRegion_seqNext (s : State) (r : Nat) (x : Region) : (s.setRegion r x).seqNext = s.seqNext := rfl
@[simp] theorem State.setRegion_ringDone (s : State) (r : Nat) (x : Region) : (s.setRegion r x).ringDone = s.ringDone := rfl
@[simp] theorem State.setRegion_counters (s : State) (r : Nat) (x : Region) : (s.setRegion r x).counters = s.counters := rfl
@[simp] theorem State.setRegion_recrypt (s : State) (r : Nat) (x : Region) : (s.setRegion r x).recrypt = s.recrypt := rfl
@[simp] theorem State.setRegion_bad (s : State) (r : Nat) (x : Region) : (s.setRegion r x).bad = s.bad := rfl
@[simp] theorem State.setRegion_badCtr (s : State) (r : Nat) (x : Region) : (s.setRegion r x).badCtr = s.badCtr := rfl
@[simp] theorem State.setRegion_keys (s : State) (r : Nat) (x : Region) : (s.setRegion r x).keys = s.keys := rfl
@[simp] theorem State.setRegion_vds (s : State) (r : Nat) (x : Region) : (s.setRegion r x).vds = s.vds := rfl
@[simp] theorem State.setRegion_wins (s : State) (r : Nat) (x : Region) : (s.setRegion r x).wins = s.wins := rfl
@[simp] theorem State.setRegion_queue (s : State) (r : Nat) (x : Region) : (s.setRegion r x).queue = s.queue := rfl
@[simp] theorem State.setRegion_notifyDue (s : State) (r : Nat) (x : Region) : (s.setRegion r x).notifyDue = s.notifyDue := rfl
@[simp] theorem State.setRegion_frozenBy (s : State) (r : Nat) (x : Region) : (s.setRegion r x).frozenBy = s.frozenBy := rfl
@[simp] theorem State.setRegion_wkey (s : State) (r : Nat) (x : Region) : (s.setRegion r x).wkey = s.wkey := rfl
@[simp] theorem State.setRegion_ctlFlight (s : State) (r : Nat) (x : Region) : (s.setRegion r x).ctlFlight = s.ctlFlight := rfl
@[simp] theorem State.setRegion_cycle (s : State) (r : Nat) (x : Region) : (s.setRegion r x).cycle = s.cycle := rfl
@[simp] theorem State.setRegion_timebase (s : State) (r : Nat) (x : Region) : (s.setRegion r x).timebase = s.timebase := rfl
@[simp] theorem State.setRegion_vdsel (s : State) (r : Nat) (x : Region) : (s.setRegion r x).vdsel = s.vdsel := rfl
@[simp] theorem State.setRegion_vdgbase (s : State) (r : Nat) (x : Region) : (s.setRegion r x).vdgbase = s.vdgbase := rfl
@[simp] theorem State.setRegion_vdgcount (s : State) (r : Nat) (x : Region) : (s.setRegion r x).vdgcount = s.vdgcount := rfl
@[simp] theorem State.setRegion_vdOp (s : State) (r : Nat) (x : Region) : (s.setRegion r x).vdOp = s.vdOp := rfl
@[simp] theorem State.setRegion_vdStatus (s : State) (r : Nat) (x : Region) : (s.setRegion r x).vdStatus = s.vdStatus := rfl
@[simp] theorem State.setRegion_vdBusy (s : State) (r : Nat) (x : Region) : (s.setRegion r x).vdBusy = s.vdBusy := rfl
@[simp] theorem State.setRegion_whsel (s : State) (r : Nat) (x : Region) : (s.setRegion r x).whsel = s.whsel := rfl
@[simp] theorem State.setRegion_wheels (s : State) (r : Nat) (x : Region) : (s.setRegion r x).wheels = s.wheels := rfl
@[simp] theorem State.setRegion_wheelsNext (s : State) (r : Nat) (x : Region) : (s.setRegion r x).wheelsNext = s.wheelsNext := rfl
@[simp] theorem State.setRegion_wheelsAt (s : State) (r : Nat) (x : Region) : (s.setRegion r x).wheelsAt = s.wheelsAt := rfl
@[simp] theorem State.setRegion_wheelUsed (s : State) (r : Nat) (x : Region) : (s.setRegion r x).wheelUsed = s.wheelUsed := rfl
@[simp] theorem State.setRegion_wheelLast (s : State) (r : Nat) (x : Region) : (s.setRegion r x).wheelLast = s.wheelLast := rfl
@[simp] theorem State.setRegion_wheelGot (s : State) (r : Nat) (x : Region) : (s.setRegion r x).wheelGot = s.wheelGot := rfl
@[simp] theorem State.setRegion_peersLost (s : State) (r : Nat) (x : Region) : (s.setRegion r x).peersLost = s.peersLost := rfl
@[simp] theorem State.setRegion_peersHeard (s : State) (r : Nat) (x : Region) : (s.setRegion r x).peersHeard = s.peersHeard := rfl
@[simp] theorem State.setRegion_c0vd (s : State) (r : Nat) (x : Region) : (s.setRegion r x).c0vd = s.c0vd := rfl
@[simp] theorem State.setRegion_pwrnow (s : State) (r : Nat) (x : Region) : (s.setRegion r x).pwrnow = s.pwrnow := rfl
@[simp] theorem State.setRegion_tempmax (s : State) (r : Nat) (x : Region) : (s.setRegion r x).tempmax = s.tempmax := rfl
@[simp] theorem State.setRegion_pcap (s : State) (r : Nat) (x : Region) : (s.setRegion r x).pcap = s.pcap := rfl
@[simp] theorem State.setRegion_throt (s : State) (r : Nat) (x : Region) : (s.setRegion r x).throt = s.throt := rfl
@[simp] theorem State.setRegion_slow (s : State) (r : Nat) (x : Region) : (s.setRegion r x).slow = s.slow := rfl
@[simp] theorem State.setRegion_cecnt (s : State) (r : Nat) (x : Region) : (s.setRegion r x).cecnt = s.cecnt := rfl
@[simp] theorem State.setRegion_winsel (s : State) (r : Nat) (x : Region) : (s.setRegion r x).winsel = s.winsel := rfl
@[simp] theorem State.setRegion_stage (s : State) (r : Nat) (x : Region) : (s.setRegion r x).stage = s.stage := rfl
@[simp] theorem State.setRegion_bootErr (s : State) (r : Nat) (x : Region) : (s.setRegion r x).bootErr = s.bootErr := rfl
@[simp] theorem State.setRegion_ready (s : State) (r : Nat) (x : Region) : (s.setRegion r x).ready = s.ready := rfl
@[simp] theorem State.setRegion_perst (s : State) (r : Nat) (x : Region) : (s.setRegion r x).perst = s.perst := rfl
@[simp] theorem State.setRegion_halted (s : State) (r : Nat) (x : Region) : (s.setRegion r x).halted = s.halted := rfl
@[simp] theorem State.setRegion_measured (s : State) (r : Nat) (x : Region) : (s.setRegion r x).measured = s.measured := rfl
@[simp] theorem State.setRegion_off (s : State) (r : Nat) (x : Region) : (s.setRegion r x).off = s.off := rfl
@[simp] theorem State.setRegion_posted (s : State) (r : Nat) (x : Region) : (s.setRegion r x).posted = s.posted := rfl
@[simp] theorem State.setRegion_asked (s : State) (r : Nat) (x : Region) : (s.setRegion r x).asked = s.asked := rfl
@[simp] theorem State.setRegion_sent (s : State) (r : Nat) (x : Region) : (s.setRegion r x).sent = s.sent := rfl
@[simp] theorem State.setRegion_agenda (s : State) (r : Nat) (x : Region) : (s.setRegion r x).agenda = s.agenda := rfl
@[simp] theorem State.setRegion_tick (s : State) (r : Nat) (x : Region) : (s.setRegion r x).tick = s.tick := rfl
@[simp] theorem State.updRegion_cur (s : State) (r : Nat) (f : Region → Region) :
    (s.updRegion r f).cur = s.cur := by unfold State.updRegion; split <;> rfl
@[simp] theorem State.updRegion_tile (s : State) (r : Nat) (f : Region → Region) :
    (s.updRegion r f).tile = s.tile := by unfold State.updRegion; split <;> rfl
@[simp] theorem State.updRegion_parked (s : State) (r : Nat) (f : Region → Region) :
    (s.updRegion r f).parked = s.parked := by unfold State.updRegion; split <;> rfl
@[simp] theorem State.updRegion_ir (s : State) (r : Nat) (f : Region → Region) :
    (s.updRegion r f).ir = s.ir := by unfold State.updRegion; split <;> rfl
@[simp] theorem State.updRegion_mem (s : State) (r : Nat) (f : Region → Region) :
    (s.updRegion r f).mem = s.mem := by unfold State.updRegion; split <;> rfl
@[simp] theorem State.updRegion_accs (s : State) (r : Nat) (f : Region → Region) :
    (s.updRegion r f).accs = s.accs := by unfold State.updRegion; split <;> rfl
@[simp] theorem State.updRegion_threads (s : State) (r : Nat) (f : Region → Region) :
    (s.updRegion r f).threads = s.threads := by unfold State.updRegion; split <;> rfl
@[simp] theorem State.updRegion_nextId (s : State) (r : Nat) (f : Region → Region) :
    (s.updRegion r f).nextId = s.nextId := by unfold State.updRegion; split <;> rfl
@[simp] theorem State.updRegion_ringAt (s : State) (r : Nat) (f : Region → Region) :
    (s.updRegion r f).ringAt = s.ringAt := by unfold State.updRegion; split <;> rfl
@[simp] theorem State.updRegion_seqNext (s : State) (r : Nat) (f : Region → Region) :
    (s.updRegion r f).seqNext = s.seqNext := by unfold State.updRegion; split <;> rfl
@[simp] theorem State.updRegion_ringDone (s : State) (r : Nat) (f : Region → Region) :
    (s.updRegion r f).ringDone = s.ringDone := by unfold State.updRegion; split <;> rfl
@[simp] theorem State.updRegion_counters (s : State) (r : Nat) (f : Region → Region) :
    (s.updRegion r f).counters = s.counters := by unfold State.updRegion; split <;> rfl
@[simp] theorem State.updRegion_recrypt (s : State) (r : Nat) (f : Region → Region) :
    (s.updRegion r f).recrypt = s.recrypt := by unfold State.updRegion; split <;> rfl
@[simp] theorem State.updRegion_bad (s : State) (r : Nat) (f : Region → Region) :
    (s.updRegion r f).bad = s.bad := by unfold State.updRegion; split <;> rfl
@[simp] theorem State.updRegion_badCtr (s : State) (r : Nat) (f : Region → Region) :
    (s.updRegion r f).badCtr = s.badCtr := by unfold State.updRegion; split <;> rfl
@[simp] theorem State.updRegion_keys (s : State) (r : Nat) (f : Region → Region) :
    (s.updRegion r f).keys = s.keys := by unfold State.updRegion; split <;> rfl
@[simp] theorem State.updRegion_vds (s : State) (r : Nat) (f : Region → Region) :
    (s.updRegion r f).vds = s.vds := by unfold State.updRegion; split <;> rfl
@[simp] theorem State.updRegion_wins (s : State) (r : Nat) (f : Region → Region) :
    (s.updRegion r f).wins = s.wins := by unfold State.updRegion; split <;> rfl
@[simp] theorem State.updRegion_queue (s : State) (r : Nat) (f : Region → Region) :
    (s.updRegion r f).queue = s.queue := by unfold State.updRegion; split <;> rfl
@[simp] theorem State.updRegion_notifyDue (s : State) (r : Nat) (f : Region → Region) :
    (s.updRegion r f).notifyDue = s.notifyDue := by unfold State.updRegion; split <;> rfl
@[simp] theorem State.updRegion_frozenBy (s : State) (r : Nat) (f : Region → Region) :
    (s.updRegion r f).frozenBy = s.frozenBy := by unfold State.updRegion; split <;> rfl
@[simp] theorem State.updRegion_wkey (s : State) (r : Nat) (f : Region → Region) :
    (s.updRegion r f).wkey = s.wkey := by unfold State.updRegion; split <;> rfl
@[simp] theorem State.updRegion_ctlFlight (s : State) (r : Nat) (f : Region → Region) :
    (s.updRegion r f).ctlFlight = s.ctlFlight := by unfold State.updRegion; split <;> rfl
@[simp] theorem State.updRegion_cycle (s : State) (r : Nat) (f : Region → Region) :
    (s.updRegion r f).cycle = s.cycle := by unfold State.updRegion; split <;> rfl
@[simp] theorem State.updRegion_timebase (s : State) (r : Nat) (f : Region → Region) :
    (s.updRegion r f).timebase = s.timebase := by unfold State.updRegion; split <;> rfl
@[simp] theorem State.updRegion_vdsel (s : State) (r : Nat) (f : Region → Region) :
    (s.updRegion r f).vdsel = s.vdsel := by unfold State.updRegion; split <;> rfl
@[simp] theorem State.updRegion_vdgbase (s : State) (r : Nat) (f : Region → Region) :
    (s.updRegion r f).vdgbase = s.vdgbase := by unfold State.updRegion; split <;> rfl
@[simp] theorem State.updRegion_vdgcount (s : State) (r : Nat) (f : Region → Region) :
    (s.updRegion r f).vdgcount = s.vdgcount := by unfold State.updRegion; split <;> rfl
@[simp] theorem State.updRegion_vdOp (s : State) (r : Nat) (f : Region → Region) :
    (s.updRegion r f).vdOp = s.vdOp := by unfold State.updRegion; split <;> rfl
@[simp] theorem State.updRegion_vdStatus (s : State) (r : Nat) (f : Region → Region) :
    (s.updRegion r f).vdStatus = s.vdStatus := by unfold State.updRegion; split <;> rfl
@[simp] theorem State.updRegion_vdBusy (s : State) (r : Nat) (f : Region → Region) :
    (s.updRegion r f).vdBusy = s.vdBusy := by unfold State.updRegion; split <;> rfl
@[simp] theorem State.updRegion_whsel (s : State) (r : Nat) (f : Region → Region) :
    (s.updRegion r f).whsel = s.whsel := by unfold State.updRegion; split <;> rfl
@[simp] theorem State.updRegion_wheels (s : State) (r : Nat) (f : Region → Region) :
    (s.updRegion r f).wheels = s.wheels := by unfold State.updRegion; split <;> rfl
@[simp] theorem State.updRegion_wheelsNext (s : State) (r : Nat) (f : Region → Region) :
    (s.updRegion r f).wheelsNext = s.wheelsNext := by unfold State.updRegion; split <;> rfl
@[simp] theorem State.updRegion_wheelsAt (s : State) (r : Nat) (f : Region → Region) :
    (s.updRegion r f).wheelsAt = s.wheelsAt := by unfold State.updRegion; split <;> rfl
@[simp] theorem State.updRegion_wheelUsed (s : State) (r : Nat) (f : Region → Region) :
    (s.updRegion r f).wheelUsed = s.wheelUsed := by unfold State.updRegion; split <;> rfl
@[simp] theorem State.updRegion_wheelLast (s : State) (r : Nat) (f : Region → Region) :
    (s.updRegion r f).wheelLast = s.wheelLast := by unfold State.updRegion; split <;> rfl
@[simp] theorem State.updRegion_wheelGot (s : State) (r : Nat) (f : Region → Region) :
    (s.updRegion r f).wheelGot = s.wheelGot := by unfold State.updRegion; split <;> rfl
@[simp] theorem State.updRegion_peersLost (s : State) (r : Nat) (f : Region → Region) :
    (s.updRegion r f).peersLost = s.peersLost := by unfold State.updRegion; split <;> rfl
@[simp] theorem State.updRegion_peersHeard (s : State) (r : Nat) (f : Region → Region) :
    (s.updRegion r f).peersHeard = s.peersHeard := by unfold State.updRegion; split <;> rfl
@[simp] theorem State.updRegion_c0vd (s : State) (r : Nat) (f : Region → Region) :
    (s.updRegion r f).c0vd = s.c0vd := by unfold State.updRegion; split <;> rfl
@[simp] theorem State.updRegion_pwrnow (s : State) (r : Nat) (f : Region → Region) :
    (s.updRegion r f).pwrnow = s.pwrnow := by unfold State.updRegion; split <;> rfl
@[simp] theorem State.updRegion_tempmax (s : State) (r : Nat) (f : Region → Region) :
    (s.updRegion r f).tempmax = s.tempmax := by unfold State.updRegion; split <;> rfl
@[simp] theorem State.updRegion_pcap (s : State) (r : Nat) (f : Region → Region) :
    (s.updRegion r f).pcap = s.pcap := by unfold State.updRegion; split <;> rfl
@[simp] theorem State.updRegion_throt (s : State) (r : Nat) (f : Region → Region) :
    (s.updRegion r f).throt = s.throt := by unfold State.updRegion; split <;> rfl
@[simp] theorem State.updRegion_slow (s : State) (r : Nat) (f : Region → Region) :
    (s.updRegion r f).slow = s.slow := by unfold State.updRegion; split <;> rfl
@[simp] theorem State.updRegion_cecnt (s : State) (r : Nat) (f : Region → Region) :
    (s.updRegion r f).cecnt = s.cecnt := by unfold State.updRegion; split <;> rfl
@[simp] theorem State.updRegion_winsel (s : State) (r : Nat) (f : Region → Region) :
    (s.updRegion r f).winsel = s.winsel := by unfold State.updRegion; split <;> rfl
@[simp] theorem State.updRegion_stage (s : State) (r : Nat) (f : Region → Region) :
    (s.updRegion r f).stage = s.stage := by unfold State.updRegion; split <;> rfl
@[simp] theorem State.updRegion_bootErr (s : State) (r : Nat) (f : Region → Region) :
    (s.updRegion r f).bootErr = s.bootErr := by unfold State.updRegion; split <;> rfl
@[simp] theorem State.updRegion_ready (s : State) (r : Nat) (f : Region → Region) :
    (s.updRegion r f).ready = s.ready := by unfold State.updRegion; split <;> rfl
@[simp] theorem State.updRegion_perst (s : State) (r : Nat) (f : Region → Region) :
    (s.updRegion r f).perst = s.perst := by unfold State.updRegion; split <;> rfl
@[simp] theorem State.updRegion_halted (s : State) (r : Nat) (f : Region → Region) :
    (s.updRegion r f).halted = s.halted := by unfold State.updRegion; split <;> rfl
@[simp] theorem State.updRegion_measured (s : State) (r : Nat) (f : Region → Region) :
    (s.updRegion r f).measured = s.measured := by unfold State.updRegion; split <;> rfl
@[simp] theorem State.updRegion_off (s : State) (r : Nat) (f : Region → Region) :
    (s.updRegion r f).off = s.off := by unfold State.updRegion; split <;> rfl
@[simp] theorem State.updRegion_posted (s : State) (r : Nat) (f : Region → Region) :
    (s.updRegion r f).posted = s.posted := by unfold State.updRegion; split <;> rfl
@[simp] theorem State.updRegion_asked (s : State) (r : Nat) (f : Region → Region) :
    (s.updRegion r f).asked = s.asked := by unfold State.updRegion; split <;> rfl
@[simp] theorem State.updRegion_sent (s : State) (r : Nat) (f : Region → Region) :
    (s.updRegion r f).sent = s.sent := by unfold State.updRegion; split <;> rfl
@[simp] theorem State.updRegion_agenda (s : State) (r : Nat) (f : Region → Region) :
    (s.updRegion r f).agenda = s.agenda := by unfold State.updRegion; split <;> rfl
@[simp] theorem State.updRegion_tick (s : State) (r : Nat) (f : Region → Region) :
    (s.updRegion r f).tick = s.tick := by unfold State.updRegion; split <;> rfl

/-! ### Virtual devices -/

@[simp] theorem State.updVd_cur (s : State) (n : Nat) (f : Vd → Vd) : (s.updVd n f).cur = s.cur := by
  unfold State.updVd; split <;> rfl
@[simp] theorem State.updVd_tile (s : State) (n : Nat) (f : Vd → Vd) : (s.updVd n f).tile = s.tile := by
  unfold State.updVd; split <;> rfl
@[simp] theorem State.updVd_parked (s : State) (n : Nat) (f : Vd → Vd) : (s.updVd n f).parked = s.parked := by
  unfold State.updVd; split <;> rfl
@[simp] theorem State.updVd_ir (s : State) (n : Nat) (f : Vd → Vd) : (s.updVd n f).ir = s.ir := by
  unfold State.updVd; split <;> rfl
@[simp] theorem State.updVd_mem (s : State) (n : Nat) (f : Vd → Vd) : (s.updVd n f).mem = s.mem := by
  unfold State.updVd; split <;> rfl
@[simp] theorem State.updVd_accs (s : State) (n : Nat) (f : Vd → Vd) : (s.updVd n f).accs = s.accs := by
  unfold State.updVd; split <;> rfl
@[simp] theorem State.updVd_threads (s : State) (n : Nat) (f : Vd → Vd) : (s.updVd n f).threads = s.threads := by
  unfold State.updVd; split <;> rfl
@[simp] theorem State.updVd_nextId (s : State) (n : Nat) (f : Vd → Vd) : (s.updVd n f).nextId = s.nextId := by
  unfold State.updVd; split <;> rfl
@[simp] theorem State.updVd_ringAt (s : State) (n : Nat) (f : Vd → Vd) : (s.updVd n f).ringAt = s.ringAt := by
  unfold State.updVd; split <;> rfl
@[simp] theorem State.updVd_seqNext (s : State) (n : Nat) (f : Vd → Vd) : (s.updVd n f).seqNext = s.seqNext := by
  unfold State.updVd; split <;> rfl
@[simp] theorem State.updVd_ringDone (s : State) (n : Nat) (f : Vd → Vd) : (s.updVd n f).ringDone = s.ringDone := by
  unfold State.updVd; split <;> rfl
@[simp] theorem State.updVd_counters (s : State) (n : Nat) (f : Vd → Vd) : (s.updVd n f).counters = s.counters := by
  unfold State.updVd; split <;> rfl
@[simp] theorem State.updVd_recrypt (s : State) (n : Nat) (f : Vd → Vd) : (s.updVd n f).recrypt = s.recrypt := by
  unfold State.updVd; split <;> rfl
@[simp] theorem State.updVd_bad (s : State) (n : Nat) (f : Vd → Vd) : (s.updVd n f).bad = s.bad := by
  unfold State.updVd; split <;> rfl
@[simp] theorem State.updVd_badCtr (s : State) (n : Nat) (f : Vd → Vd) : (s.updVd n f).badCtr = s.badCtr := by
  unfold State.updVd; split <;> rfl
@[simp] theorem State.updVd_keys (s : State) (n : Nat) (f : Vd → Vd) : (s.updVd n f).keys = s.keys := by
  unfold State.updVd; split <;> rfl
@[simp] theorem State.updVd_regions (s : State) (n : Nat) (f : Vd → Vd) : (s.updVd n f).regions = s.regions := by
  unfold State.updVd; split <;> rfl
@[simp] theorem State.updVd_wins (s : State) (n : Nat) (f : Vd → Vd) : (s.updVd n f).wins = s.wins := by
  unfold State.updVd; split <;> rfl
@[simp] theorem State.updVd_queue (s : State) (n : Nat) (f : Vd → Vd) : (s.updVd n f).queue = s.queue := by
  unfold State.updVd; split <;> rfl
@[simp] theorem State.updVd_notifyDue (s : State) (n : Nat) (f : Vd → Vd) : (s.updVd n f).notifyDue = s.notifyDue := by
  unfold State.updVd; split <;> rfl
@[simp] theorem State.updVd_frozenBy (s : State) (n : Nat) (f : Vd → Vd) : (s.updVd n f).frozenBy = s.frozenBy := by
  unfold State.updVd; split <;> rfl
@[simp] theorem State.updVd_wkey (s : State) (n : Nat) (f : Vd → Vd) : (s.updVd n f).wkey = s.wkey := by
  unfold State.updVd; split <;> rfl
@[simp] theorem State.updVd_ctlFlight (s : State) (n : Nat) (f : Vd → Vd) : (s.updVd n f).ctlFlight = s.ctlFlight := by
  unfold State.updVd; split <;> rfl
@[simp] theorem State.updVd_cycle (s : State) (n : Nat) (f : Vd → Vd) : (s.updVd n f).cycle = s.cycle := by
  unfold State.updVd; split <;> rfl
@[simp] theorem State.updVd_timebase (s : State) (n : Nat) (f : Vd → Vd) : (s.updVd n f).timebase = s.timebase := by
  unfold State.updVd; split <;> rfl
@[simp] theorem State.updVd_vdsel (s : State) (n : Nat) (f : Vd → Vd) : (s.updVd n f).vdsel = s.vdsel := by
  unfold State.updVd; split <;> rfl
@[simp] theorem State.updVd_vdgbase (s : State) (n : Nat) (f : Vd → Vd) : (s.updVd n f).vdgbase = s.vdgbase := by
  unfold State.updVd; split <;> rfl
@[simp] theorem State.updVd_vdgcount (s : State) (n : Nat) (f : Vd → Vd) : (s.updVd n f).vdgcount = s.vdgcount := by
  unfold State.updVd; split <;> rfl
@[simp] theorem State.updVd_vdOp (s : State) (n : Nat) (f : Vd → Vd) : (s.updVd n f).vdOp = s.vdOp := by
  unfold State.updVd; split <;> rfl
@[simp] theorem State.updVd_vdStatus (s : State) (n : Nat) (f : Vd → Vd) : (s.updVd n f).vdStatus = s.vdStatus := by
  unfold State.updVd; split <;> rfl
@[simp] theorem State.updVd_vdBusy (s : State) (n : Nat) (f : Vd → Vd) : (s.updVd n f).vdBusy = s.vdBusy := by
  unfold State.updVd; split <;> rfl
@[simp] theorem State.updVd_whsel (s : State) (n : Nat) (f : Vd → Vd) : (s.updVd n f).whsel = s.whsel := by
  unfold State.updVd; split <;> rfl
@[simp] theorem State.updVd_wheels (s : State) (n : Nat) (f : Vd → Vd) : (s.updVd n f).wheels = s.wheels := by
  unfold State.updVd; split <;> rfl
@[simp] theorem State.updVd_wheelsNext (s : State) (n : Nat) (f : Vd → Vd) : (s.updVd n f).wheelsNext = s.wheelsNext := by
  unfold State.updVd; split <;> rfl
@[simp] theorem State.updVd_wheelsAt (s : State) (n : Nat) (f : Vd → Vd) : (s.updVd n f).wheelsAt = s.wheelsAt := by
  unfold State.updVd; split <;> rfl
@[simp] theorem State.updVd_wheelUsed (s : State) (n : Nat) (f : Vd → Vd) : (s.updVd n f).wheelUsed = s.wheelUsed := by
  unfold State.updVd; split <;> rfl
@[simp] theorem State.updVd_wheelLast (s : State) (n : Nat) (f : Vd → Vd) : (s.updVd n f).wheelLast = s.wheelLast := by
  unfold State.updVd; split <;> rfl
@[simp] theorem State.updVd_wheelGot (s : State) (n : Nat) (f : Vd → Vd) : (s.updVd n f).wheelGot = s.wheelGot := by
  unfold State.updVd; split <;> rfl
@[simp] theorem State.updVd_peersLost (s : State) (n : Nat) (f : Vd → Vd) : (s.updVd n f).peersLost = s.peersLost := by
  unfold State.updVd; split <;> rfl
@[simp] theorem State.updVd_peersHeard (s : State) (n : Nat) (f : Vd → Vd) : (s.updVd n f).peersHeard = s.peersHeard := by
  unfold State.updVd; split <;> rfl
@[simp] theorem State.updVd_c0vd (s : State) (n : Nat) (f : Vd → Vd) : (s.updVd n f).c0vd = s.c0vd := by
  unfold State.updVd; split <;> rfl
@[simp] theorem State.updVd_pwrnow (s : State) (n : Nat) (f : Vd → Vd) : (s.updVd n f).pwrnow = s.pwrnow := by
  unfold State.updVd; split <;> rfl
@[simp] theorem State.updVd_tempmax (s : State) (n : Nat) (f : Vd → Vd) : (s.updVd n f).tempmax = s.tempmax := by
  unfold State.updVd; split <;> rfl
@[simp] theorem State.updVd_pcap (s : State) (n : Nat) (f : Vd → Vd) : (s.updVd n f).pcap = s.pcap := by
  unfold State.updVd; split <;> rfl
@[simp] theorem State.updVd_throt (s : State) (n : Nat) (f : Vd → Vd) : (s.updVd n f).throt = s.throt := by
  unfold State.updVd; split <;> rfl
@[simp] theorem State.updVd_slow (s : State) (n : Nat) (f : Vd → Vd) : (s.updVd n f).slow = s.slow := by
  unfold State.updVd; split <;> rfl
@[simp] theorem State.updVd_cecnt (s : State) (n : Nat) (f : Vd → Vd) : (s.updVd n f).cecnt = s.cecnt := by
  unfold State.updVd; split <;> rfl
@[simp] theorem State.updVd_winsel (s : State) (n : Nat) (f : Vd → Vd) : (s.updVd n f).winsel = s.winsel := by
  unfold State.updVd; split <;> rfl
@[simp] theorem State.updVd_stage (s : State) (n : Nat) (f : Vd → Vd) : (s.updVd n f).stage = s.stage := by
  unfold State.updVd; split <;> rfl
@[simp] theorem State.updVd_bootErr (s : State) (n : Nat) (f : Vd → Vd) : (s.updVd n f).bootErr = s.bootErr := by
  unfold State.updVd; split <;> rfl
@[simp] theorem State.updVd_ready (s : State) (n : Nat) (f : Vd → Vd) : (s.updVd n f).ready = s.ready := by
  unfold State.updVd; split <;> rfl
@[simp] theorem State.updVd_perst (s : State) (n : Nat) (f : Vd → Vd) : (s.updVd n f).perst = s.perst := by
  unfold State.updVd; split <;> rfl
@[simp] theorem State.updVd_halted (s : State) (n : Nat) (f : Vd → Vd) : (s.updVd n f).halted = s.halted := by
  unfold State.updVd; split <;> rfl
@[simp] theorem State.updVd_measured (s : State) (n : Nat) (f : Vd → Vd) : (s.updVd n f).measured = s.measured := by
  unfold State.updVd; split <;> rfl
@[simp] theorem State.updVd_off (s : State) (n : Nat) (f : Vd → Vd) : (s.updVd n f).off = s.off := by
  unfold State.updVd; split <;> rfl
@[simp] theorem State.updVd_posted (s : State) (n : Nat) (f : Vd → Vd) : (s.updVd n f).posted = s.posted := by
  unfold State.updVd; split <;> rfl
@[simp] theorem State.updVd_asked (s : State) (n : Nat) (f : Vd → Vd) : (s.updVd n f).asked = s.asked := by
  unfold State.updVd; split <;> rfl
@[simp] theorem State.updVd_sent (s : State) (n : Nat) (f : Vd → Vd) : (s.updVd n f).sent = s.sent := by
  unfold State.updVd; split <;> rfl
@[simp] theorem State.updVd_agenda (s : State) (n : Nat) (f : Vd → Vd) : (s.updVd n f).agenda = s.agenda := by
  unfold State.updVd; split <;> rfl
@[simp] theorem State.updVd_tick (s : State) (n : Nat) (f : Vd → Vd) : (s.updVd n f).tick = s.tick := by
  unfold State.updVd; split <;> rfl

/-! ### Memory -/

@[simp] theorem State.wr_cur (s : State) (pa n x : Nat) : (s.wr pa n x).cur = s.cur := rfl
@[simp] theorem State.wr_tile (s : State) (pa n x : Nat) : (s.wr pa n x).tile = s.tile := rfl
@[simp] theorem State.wr_parked (s : State) (pa n x : Nat) : (s.wr pa n x).parked = s.parked := rfl
@[simp] theorem State.wr_ir (s : State) (pa n x : Nat) : (s.wr pa n x).ir = s.ir := rfl
@[simp] theorem State.wr_accs (s : State) (pa n x : Nat) : (s.wr pa n x).accs = s.accs := rfl
@[simp] theorem State.wr_threads (s : State) (pa n x : Nat) : (s.wr pa n x).threads = s.threads := rfl
@[simp] theorem State.wr_nextId (s : State) (pa n x : Nat) : (s.wr pa n x).nextId = s.nextId := rfl
@[simp] theorem State.wr_ringAt (s : State) (pa n x : Nat) : (s.wr pa n x).ringAt = s.ringAt := rfl
@[simp] theorem State.wr_seqNext (s : State) (pa n x : Nat) : (s.wr pa n x).seqNext = s.seqNext := rfl
@[simp] theorem State.wr_ringDone (s : State) (pa n x : Nat) : (s.wr pa n x).ringDone = s.ringDone := rfl
@[simp] theorem State.wr_counters (s : State) (pa n x : Nat) : (s.wr pa n x).counters = s.counters := rfl
@[simp] theorem State.wr_recrypt (s : State) (pa n x : Nat) : (s.wr pa n x).recrypt = s.recrypt := rfl
@[simp] theorem State.wr_bad (s : State) (pa n x : Nat) : (s.wr pa n x).bad = s.bad := rfl
@[simp] theorem State.wr_badCtr (s : State) (pa n x : Nat) : (s.wr pa n x).badCtr = s.badCtr := rfl
@[simp] theorem State.wr_keys (s : State) (pa n x : Nat) : (s.wr pa n x).keys = s.keys := rfl
@[simp] theorem State.wr_regions (s : State) (pa n x : Nat) : (s.wr pa n x).regions = s.regions := rfl
@[simp] theorem State.wr_vds (s : State) (pa n x : Nat) : (s.wr pa n x).vds = s.vds := rfl
@[simp] theorem State.wr_wins (s : State) (pa n x : Nat) : (s.wr pa n x).wins = s.wins := rfl
@[simp] theorem State.wr_queue (s : State) (pa n x : Nat) : (s.wr pa n x).queue = s.queue := rfl
@[simp] theorem State.wr_notifyDue (s : State) (pa n x : Nat) : (s.wr pa n x).notifyDue = s.notifyDue := rfl
@[simp] theorem State.wr_frozenBy (s : State) (pa n x : Nat) : (s.wr pa n x).frozenBy = s.frozenBy := rfl
@[simp] theorem State.wr_wkey (s : State) (pa n x : Nat) : (s.wr pa n x).wkey = s.wkey := rfl
@[simp] theorem State.wr_ctlFlight (s : State) (pa n x : Nat) : (s.wr pa n x).ctlFlight = s.ctlFlight := rfl
@[simp] theorem State.wr_cycle (s : State) (pa n x : Nat) : (s.wr pa n x).cycle = s.cycle := rfl
@[simp] theorem State.wr_timebase (s : State) (pa n x : Nat) : (s.wr pa n x).timebase = s.timebase := rfl
@[simp] theorem State.wr_vdsel (s : State) (pa n x : Nat) : (s.wr pa n x).vdsel = s.vdsel := rfl
@[simp] theorem State.wr_vdgbase (s : State) (pa n x : Nat) : (s.wr pa n x).vdgbase = s.vdgbase := rfl
@[simp] theorem State.wr_vdgcount (s : State) (pa n x : Nat) : (s.wr pa n x).vdgcount = s.vdgcount := rfl
@[simp] theorem State.wr_vdOp (s : State) (pa n x : Nat) : (s.wr pa n x).vdOp = s.vdOp := rfl
@[simp] theorem State.wr_vdStatus (s : State) (pa n x : Nat) : (s.wr pa n x).vdStatus = s.vdStatus := rfl
@[simp] theorem State.wr_vdBusy (s : State) (pa n x : Nat) : (s.wr pa n x).vdBusy = s.vdBusy := rfl
@[simp] theorem State.wr_whsel (s : State) (pa n x : Nat) : (s.wr pa n x).whsel = s.whsel := rfl
@[simp] theorem State.wr_wheels (s : State) (pa n x : Nat) : (s.wr pa n x).wheels = s.wheels := rfl
@[simp] theorem State.wr_wheelsNext (s : State) (pa n x : Nat) : (s.wr pa n x).wheelsNext = s.wheelsNext := rfl
@[simp] theorem State.wr_wheelsAt (s : State) (pa n x : Nat) : (s.wr pa n x).wheelsAt = s.wheelsAt := rfl
@[simp] theorem State.wr_wheelUsed (s : State) (pa n x : Nat) : (s.wr pa n x).wheelUsed = s.wheelUsed := rfl
@[simp] theorem State.wr_wheelLast (s : State) (pa n x : Nat) : (s.wr pa n x).wheelLast = s.wheelLast := rfl
@[simp] theorem State.wr_wheelGot (s : State) (pa n x : Nat) : (s.wr pa n x).wheelGot = s.wheelGot := rfl
@[simp] theorem State.wr_peersLost (s : State) (pa n x : Nat) : (s.wr pa n x).peersLost = s.peersLost := rfl
@[simp] theorem State.wr_peersHeard (s : State) (pa n x : Nat) : (s.wr pa n x).peersHeard = s.peersHeard := rfl
@[simp] theorem State.wr_c0vd (s : State) (pa n x : Nat) : (s.wr pa n x).c0vd = s.c0vd := rfl
@[simp] theorem State.wr_pwrnow (s : State) (pa n x : Nat) : (s.wr pa n x).pwrnow = s.pwrnow := rfl
@[simp] theorem State.wr_tempmax (s : State) (pa n x : Nat) : (s.wr pa n x).tempmax = s.tempmax := rfl
@[simp] theorem State.wr_pcap (s : State) (pa n x : Nat) : (s.wr pa n x).pcap = s.pcap := rfl
@[simp] theorem State.wr_throt (s : State) (pa n x : Nat) : (s.wr pa n x).throt = s.throt := rfl
@[simp] theorem State.wr_slow (s : State) (pa n x : Nat) : (s.wr pa n x).slow = s.slow := rfl
@[simp] theorem State.wr_cecnt (s : State) (pa n x : Nat) : (s.wr pa n x).cecnt = s.cecnt := rfl
@[simp] theorem State.wr_winsel (s : State) (pa n x : Nat) : (s.wr pa n x).winsel = s.winsel := rfl
@[simp] theorem State.wr_stage (s : State) (pa n x : Nat) : (s.wr pa n x).stage = s.stage := rfl
@[simp] theorem State.wr_bootErr (s : State) (pa n x : Nat) : (s.wr pa n x).bootErr = s.bootErr := rfl
@[simp] theorem State.wr_ready (s : State) (pa n x : Nat) : (s.wr pa n x).ready = s.ready := rfl
@[simp] theorem State.wr_perst (s : State) (pa n x : Nat) : (s.wr pa n x).perst = s.perst := rfl
@[simp] theorem State.wr_halted (s : State) (pa n x : Nat) : (s.wr pa n x).halted = s.halted := rfl
@[simp] theorem State.wr_measured (s : State) (pa n x : Nat) : (s.wr pa n x).measured = s.measured := rfl
@[simp] theorem State.wr_off (s : State) (pa n x : Nat) : (s.wr pa n x).off = s.off := rfl
@[simp] theorem State.wr_posted (s : State) (pa n x : Nat) : (s.wr pa n x).posted = s.posted := rfl
@[simp] theorem State.wr_asked (s : State) (pa n x : Nat) : (s.wr pa n x).asked = s.asked := rfl
@[simp] theorem State.wr_sent (s : State) (pa n x : Nat) : (s.wr pa n x).sent = s.sent := rfl
@[simp] theorem State.wr_agenda (s : State) (pa n x : Nat) : (s.wr pa n x).agenda = s.agenda := rfl
@[simp] theorem State.wr_tick (s : State) (pa n x : Nat) : (s.wr pa n x).tick = s.tick := rfl
@[simp] theorem State.zero_cur (s : State) (pa n : Nat) : (s.zero pa n).cur = s.cur := rfl
@[simp] theorem State.zero_tile (s : State) (pa n : Nat) : (s.zero pa n).tile = s.tile := rfl
@[simp] theorem State.zero_parked (s : State) (pa n : Nat) : (s.zero pa n).parked = s.parked := rfl
@[simp] theorem State.zero_ir (s : State) (pa n : Nat) : (s.zero pa n).ir = s.ir := rfl
@[simp] theorem State.zero_accs (s : State) (pa n : Nat) : (s.zero pa n).accs = s.accs := rfl
@[simp] theorem State.zero_threads (s : State) (pa n : Nat) : (s.zero pa n).threads = s.threads := rfl
@[simp] theorem State.zero_nextId (s : State) (pa n : Nat) : (s.zero pa n).nextId = s.nextId := rfl
@[simp] theorem State.zero_ringAt (s : State) (pa n : Nat) : (s.zero pa n).ringAt = s.ringAt := rfl
@[simp] theorem State.zero_seqNext (s : State) (pa n : Nat) : (s.zero pa n).seqNext = s.seqNext := rfl
@[simp] theorem State.zero_ringDone (s : State) (pa n : Nat) : (s.zero pa n).ringDone = s.ringDone := rfl
@[simp] theorem State.zero_counters (s : State) (pa n : Nat) : (s.zero pa n).counters = s.counters := rfl
@[simp] theorem State.zero_recrypt (s : State) (pa n : Nat) : (s.zero pa n).recrypt = s.recrypt := rfl
@[simp] theorem State.zero_bad (s : State) (pa n : Nat) : (s.zero pa n).bad = s.bad := rfl
@[simp] theorem State.zero_badCtr (s : State) (pa n : Nat) : (s.zero pa n).badCtr = s.badCtr := rfl
@[simp] theorem State.zero_keys (s : State) (pa n : Nat) : (s.zero pa n).keys = s.keys := rfl
@[simp] theorem State.zero_regions (s : State) (pa n : Nat) : (s.zero pa n).regions = s.regions := rfl
@[simp] theorem State.zero_vds (s : State) (pa n : Nat) : (s.zero pa n).vds = s.vds := rfl
@[simp] theorem State.zero_wins (s : State) (pa n : Nat) : (s.zero pa n).wins = s.wins := rfl
@[simp] theorem State.zero_queue (s : State) (pa n : Nat) : (s.zero pa n).queue = s.queue := rfl
@[simp] theorem State.zero_notifyDue (s : State) (pa n : Nat) : (s.zero pa n).notifyDue = s.notifyDue := rfl
@[simp] theorem State.zero_frozenBy (s : State) (pa n : Nat) : (s.zero pa n).frozenBy = s.frozenBy := rfl
@[simp] theorem State.zero_wkey (s : State) (pa n : Nat) : (s.zero pa n).wkey = s.wkey := rfl
@[simp] theorem State.zero_ctlFlight (s : State) (pa n : Nat) : (s.zero pa n).ctlFlight = s.ctlFlight := rfl
@[simp] theorem State.zero_cycle (s : State) (pa n : Nat) : (s.zero pa n).cycle = s.cycle := rfl
@[simp] theorem State.zero_timebase (s : State) (pa n : Nat) : (s.zero pa n).timebase = s.timebase := rfl
@[simp] theorem State.zero_vdsel (s : State) (pa n : Nat) : (s.zero pa n).vdsel = s.vdsel := rfl
@[simp] theorem State.zero_vdgbase (s : State) (pa n : Nat) : (s.zero pa n).vdgbase = s.vdgbase := rfl
@[simp] theorem State.zero_vdgcount (s : State) (pa n : Nat) : (s.zero pa n).vdgcount = s.vdgcount := rfl
@[simp] theorem State.zero_vdOp (s : State) (pa n : Nat) : (s.zero pa n).vdOp = s.vdOp := rfl
@[simp] theorem State.zero_vdStatus (s : State) (pa n : Nat) : (s.zero pa n).vdStatus = s.vdStatus := rfl
@[simp] theorem State.zero_vdBusy (s : State) (pa n : Nat) : (s.zero pa n).vdBusy = s.vdBusy := rfl
@[simp] theorem State.zero_whsel (s : State) (pa n : Nat) : (s.zero pa n).whsel = s.whsel := rfl
@[simp] theorem State.zero_wheels (s : State) (pa n : Nat) : (s.zero pa n).wheels = s.wheels := rfl
@[simp] theorem State.zero_wheelsNext (s : State) (pa n : Nat) : (s.zero pa n).wheelsNext = s.wheelsNext := rfl
@[simp] theorem State.zero_wheelsAt (s : State) (pa n : Nat) : (s.zero pa n).wheelsAt = s.wheelsAt := rfl
@[simp] theorem State.zero_wheelUsed (s : State) (pa n : Nat) : (s.zero pa n).wheelUsed = s.wheelUsed := rfl
@[simp] theorem State.zero_wheelLast (s : State) (pa n : Nat) : (s.zero pa n).wheelLast = s.wheelLast := rfl
@[simp] theorem State.zero_wheelGot (s : State) (pa n : Nat) : (s.zero pa n).wheelGot = s.wheelGot := rfl
@[simp] theorem State.zero_peersLost (s : State) (pa n : Nat) : (s.zero pa n).peersLost = s.peersLost := rfl
@[simp] theorem State.zero_peersHeard (s : State) (pa n : Nat) : (s.zero pa n).peersHeard = s.peersHeard := rfl
@[simp] theorem State.zero_c0vd (s : State) (pa n : Nat) : (s.zero pa n).c0vd = s.c0vd := rfl
@[simp] theorem State.zero_pwrnow (s : State) (pa n : Nat) : (s.zero pa n).pwrnow = s.pwrnow := rfl
@[simp] theorem State.zero_tempmax (s : State) (pa n : Nat) : (s.zero pa n).tempmax = s.tempmax := rfl
@[simp] theorem State.zero_pcap (s : State) (pa n : Nat) : (s.zero pa n).pcap = s.pcap := rfl
@[simp] theorem State.zero_throt (s : State) (pa n : Nat) : (s.zero pa n).throt = s.throt := rfl
@[simp] theorem State.zero_slow (s : State) (pa n : Nat) : (s.zero pa n).slow = s.slow := rfl
@[simp] theorem State.zero_cecnt (s : State) (pa n : Nat) : (s.zero pa n).cecnt = s.cecnt := rfl
@[simp] theorem State.zero_winsel (s : State) (pa n : Nat) : (s.zero pa n).winsel = s.winsel := rfl
@[simp] theorem State.zero_stage (s : State) (pa n : Nat) : (s.zero pa n).stage = s.stage := rfl
@[simp] theorem State.zero_bootErr (s : State) (pa n : Nat) : (s.zero pa n).bootErr = s.bootErr := rfl
@[simp] theorem State.zero_ready (s : State) (pa n : Nat) : (s.zero pa n).ready = s.ready := rfl
@[simp] theorem State.zero_perst (s : State) (pa n : Nat) : (s.zero pa n).perst = s.perst := rfl
@[simp] theorem State.zero_halted (s : State) (pa n : Nat) : (s.zero pa n).halted = s.halted := rfl
@[simp] theorem State.zero_measured (s : State) (pa n : Nat) : (s.zero pa n).measured = s.measured := rfl
@[simp] theorem State.zero_off (s : State) (pa n : Nat) : (s.zero pa n).off = s.off := rfl
@[simp] theorem State.zero_posted (s : State) (pa n : Nat) : (s.zero pa n).posted = s.posted := rfl
@[simp] theorem State.zero_asked (s : State) (pa n : Nat) : (s.zero pa n).asked = s.asked := rfl
@[simp] theorem State.zero_sent (s : State) (pa n : Nat) : (s.zero pa n).sent = s.sent := rfl
@[simp] theorem State.zero_agenda (s : State) (pa n : Nat) : (s.zero pa n).agenda = s.agenda := rfl
@[simp] theorem State.zero_tick (s : State) (pa n : Nat) : (s.zero pa n).tick = s.tick := rfl

/-! ### Registers of a core -/

@[simp] theorem Core.wrG_pc (c : Core) (r : GReg) (x : Word) : (c.wrG r x).pc = c.pc := by
  unfold Core.wrG; split <;> rfl
@[simp] theorem Core.wrG_lvl (c : Core) (r : GReg) (x : Word) : (c.wrG r x).lvl = c.lvl := by
  unfold Core.wrG; split <;> rfl
@[simp] theorem Core.wrG_inH (c : Core) (r : GReg) (x : Word) : (c.wrG r x).inH = c.inH := by
  unfold Core.wrG; split <;> rfl
@[simp] theorem Core.wrG_v (c : Core) (r : GReg) (x : Word) : (c.wrG r x).v = c.v := by
  unfold Core.wrG; split <;> rfl
@[simp] theorem Core.wrG_p (c : Core) (r : GReg) (x : Word) : (c.wrG r x).p = c.p := by
  unfold Core.wrG; split <;> rfl
@[simp] theorem Core.wrG_a (c : Core) (r : GReg) (x : Word) : (c.wrG r x).a = c.a := by
  unfold Core.wrG; split <;> rfl
@[simp] theorem Core.wrG_tb (c : Core) (r : GReg) (x : Word) : (c.wrG r x).tb = c.tb := by
  unfold Core.wrG; split <;> rfl
@[simp] theorem Core.wrG_tbPend (c : Core) (r : GReg) (x : Word) : (c.wrG r x).tbPend = c.tbPend := by
  unfold Core.wrG; split <;> rfl
@[simp] theorem Core.wrG_loops (c : Core) (r : GReg) (x : Word) : (c.wrG r x).loops = c.loops := by
  unfold Core.wrG; split <;> rfl
@[simp] theorem Core.wrG_rpPend (c : Core) (r : GReg) (x : Word) : (c.wrG r x).rpPend = c.rpPend := by
  unfold Core.wrG; split <;> rfl
@[simp] theorem Core.wrG_rpCount (c : Core) (r : GReg) (x : Word) : (c.wrG r x).rpCount = c.rpCount := by
  unfold Core.wrG; split <;> rfl
@[simp] theorem Core.wrG_shadow (c : Core) (r : GReg) (x : Word) : (c.wrG r x).shadow = c.shadow := by
  unfold Core.wrG; split <;> rfl
@[simp] theorem Core.wrG_fmode (c : Core) (r : GReg) (x : Word) : (c.wrG r x).fmode = c.fmode := by
  unfold Core.wrG; split <;> rfl
@[simp] theorem Core.wrG_fstat (c : Core) (r : GReg) (x : Word) : (c.wrG r x).fstat = c.fstat := by
  unfold Core.wrG; split <;> rfl
@[simp] theorem Core.wrG_cause (c : Core) (r : GReg) (x : Word) : (c.wrG r x).cause = c.cause := by
  unfold Core.wrG; split <;> rfl
@[simp] theorem Core.wrG_epc (c : Core) (r : GReg) (x : Word) : (c.wrG r x).epc = c.epc := by
  unfold Core.wrG; split <;> rfl
@[simp] theorem Core.wrG_eval (c : Core) (r : GReg) (x : Word) : (c.wrG r x).eval = c.eval := by
  unfold Core.wrG; split <;> rfl
@[simp] theorem Core.wrG_estep (c : Core) (r : GReg) (x : Word) : (c.wrG r x).estep = c.estep := by
  unfold Core.wrG; split <;> rfl
@[simp] theorem Core.wrG_trapv (c : Core) (r : GReg) (x : Word) : (c.wrG r x).trapv = c.trapv := by
  unfold Core.wrG; split <;> rfl
@[simp] theorem Core.wrG_slotcls (c : Core) (r : GReg) (x : Word) : (c.wrG r x).slotcls = c.slotcls := by
  unfold Core.wrG; split <;> rfl
@[simp] theorem Core.wrG_status (c : Core) (r : GReg) (x : Word) : (c.wrG r x).status = c.status := by
  unfold Core.wrG; split <;> rfl
@[simp] theorem Core.wrG_resume (c : Core) (r : GReg) (x : Word) : (c.wrG r x).resume = c.resume := by
  unfold Core.wrG; split <;> rfl
@[simp] theorem Core.wrG_task (c : Core) (r : GReg) (x : Word) : (c.wrG r x).task = c.task := by
  unfold Core.wrG; split <;> rfl
@[simp] theorem Core.wrG_owner (c : Core) (r : GReg) (x : Word) : (c.wrG r x).owner = c.owner := by
  unfold Core.wrG; split <;> rfl
@[simp] theorem Core.wrG_lastOwner (c : Core) (r : GReg) (x : Word) : (c.wrG r x).lastOwner = c.lastOwner := by
  unfold Core.wrG; split <;> rfl
@[simp] theorem Core.wrG_freezing (c : Core) (r : GReg) (x : Word) : (c.wrG r x).freezing = c.freezing := by
  unfold Core.wrG; split <;> rfl
@[simp] theorem Core.wrG_lastVd (c : Core) (r : GReg) (x : Word) : (c.wrG r x).lastVd = c.lastVd := by
  unfold Core.wrG; split <;> rfl
@[simp] theorem Core.wrG_repAt (c : Core) (r : GReg) (x : Word) : (c.wrG r x).repAt = c.repAt := by
  unfold Core.wrG; split <;> rfl
@[simp] theorem Core.wrG_stepAt (c : Core) (r : GReg) (x : Word) : (c.wrG r x).stepAt = c.stepAt := by
  unfold Core.wrG; split <;> rfl
@[simp] theorem Core.wrG_stepAcc (c : Core) (r : GReg) (x : Word) : (c.wrG r x).stepAcc = c.stepAcc := by
  unfold Core.wrG; split <;> rfl
@[simp] theorem Core.wrG_opWord (c : Core) (r : GReg) (x : Word) : (c.wrG r x).opWord = c.opWord := by
  unfold Core.wrG; split <;> rfl
@[simp] theorem Core.wrG_tgtWord (c : Core) (r : GReg) (x : Word) : (c.wrG r x).tgtWord = c.tgtWord := by
  unfold Core.wrG; split <;> rfl
@[simp] theorem Core.wrG_inflight (c : Core) (r : GReg) (x : Word) : (c.wrG r x).inflight = c.inflight := by
  unfold Core.wrG; split <;> rfl
@[simp] theorem Core.wrG_heldAcc (c : Core) (r : GReg) (x : Word) : (c.wrG r x).heldAcc = c.heldAcc := by
  unfold Core.wrG; split <;> rfl
@[simp] theorem Core.wrG_readings (c : Core) (r : GReg) (x : Word) : (c.wrG r x).readings = c.readings := by
  unfold Core.wrG; split <;> rfl
@[simp] theorem Core.wrG_barAt (c : Core) (r : GReg) (x : Word) : (c.wrG r x).barAt = c.barAt := by
  unfold Core.wrG; split <;> rfl
@[simp] theorem Core.wrG_icache (c : Core) (r : GReg) (x : Word) : (c.wrG r x).icache = c.icache := by
  unfold Core.wrG; split <;> rfl
@[simp] theorem Core.wrG_tlb (c : Core) (r : GReg) (x : Word) : (c.wrG r x).tlb = c.tlb := by
  unfold Core.wrG; split <;> rfl
@[simp] theorem Core.wrP_pc (c : Core) (r : PReg) (b : Bool) : (c.wrP r b).pc = c.pc := by
  unfold Core.wrP; split <;> rfl
@[simp] theorem Core.wrP_lvl (c : Core) (r : PReg) (b : Bool) : (c.wrP r b).lvl = c.lvl := by
  unfold Core.wrP; split <;> rfl
@[simp] theorem Core.wrP_inH (c : Core) (r : PReg) (b : Bool) : (c.wrP r b).inH = c.inH := by
  unfold Core.wrP; split <;> rfl
@[simp] theorem Core.wrP_g (c : Core) (r : PReg) (b : Bool) : (c.wrP r b).g = c.g := by
  unfold Core.wrP; split <;> rfl
@[simp] theorem Core.wrP_v (c : Core) (r : PReg) (b : Bool) : (c.wrP r b).v = c.v := by
  unfold Core.wrP; split <;> rfl
@[simp] theorem Core.wrP_a (c : Core) (r : PReg) (b : Bool) : (c.wrP r b).a = c.a := by
  unfold Core.wrP; split <;> rfl
@[simp] theorem Core.wrP_tb (c : Core) (r : PReg) (b : Bool) : (c.wrP r b).tb = c.tb := by
  unfold Core.wrP; split <;> rfl
@[simp] theorem Core.wrP_tbPend (c : Core) (r : PReg) (b : Bool) : (c.wrP r b).tbPend = c.tbPend := by
  unfold Core.wrP; split <;> rfl
@[simp] theorem Core.wrP_loops (c : Core) (r : PReg) (b : Bool) : (c.wrP r b).loops = c.loops := by
  unfold Core.wrP; split <;> rfl
@[simp] theorem Core.wrP_rpPend (c : Core) (r : PReg) (b : Bool) : (c.wrP r b).rpPend = c.rpPend := by
  unfold Core.wrP; split <;> rfl
@[simp] theorem Core.wrP_rpCount (c : Core) (r : PReg) (b : Bool) : (c.wrP r b).rpCount = c.rpCount := by
  unfold Core.wrP; split <;> rfl
@[simp] theorem Core.wrP_shadow (c : Core) (r : PReg) (b : Bool) : (c.wrP r b).shadow = c.shadow := by
  unfold Core.wrP; split <;> rfl
@[simp] theorem Core.wrP_fmode (c : Core) (r : PReg) (b : Bool) : (c.wrP r b).fmode = c.fmode := by
  unfold Core.wrP; split <;> rfl
@[simp] theorem Core.wrP_fstat (c : Core) (r : PReg) (b : Bool) : (c.wrP r b).fstat = c.fstat := by
  unfold Core.wrP; split <;> rfl
@[simp] theorem Core.wrP_cause (c : Core) (r : PReg) (b : Bool) : (c.wrP r b).cause = c.cause := by
  unfold Core.wrP; split <;> rfl
@[simp] theorem Core.wrP_epc (c : Core) (r : PReg) (b : Bool) : (c.wrP r b).epc = c.epc := by
  unfold Core.wrP; split <;> rfl
@[simp] theorem Core.wrP_eval (c : Core) (r : PReg) (b : Bool) : (c.wrP r b).eval = c.eval := by
  unfold Core.wrP; split <;> rfl
@[simp] theorem Core.wrP_estep (c : Core) (r : PReg) (b : Bool) : (c.wrP r b).estep = c.estep := by
  unfold Core.wrP; split <;> rfl
@[simp] theorem Core.wrP_trapv (c : Core) (r : PReg) (b : Bool) : (c.wrP r b).trapv = c.trapv := by
  unfold Core.wrP; split <;> rfl
@[simp] theorem Core.wrP_slotcls (c : Core) (r : PReg) (b : Bool) : (c.wrP r b).slotcls = c.slotcls := by
  unfold Core.wrP; split <;> rfl
@[simp] theorem Core.wrP_status (c : Core) (r : PReg) (b : Bool) : (c.wrP r b).status = c.status := by
  unfold Core.wrP; split <;> rfl
@[simp] theorem Core.wrP_resume (c : Core) (r : PReg) (b : Bool) : (c.wrP r b).resume = c.resume := by
  unfold Core.wrP; split <;> rfl
@[simp] theorem Core.wrP_task (c : Core) (r : PReg) (b : Bool) : (c.wrP r b).task = c.task := by
  unfold Core.wrP; split <;> rfl
@[simp] theorem Core.wrP_owner (c : Core) (r : PReg) (b : Bool) : (c.wrP r b).owner = c.owner := by
  unfold Core.wrP; split <;> rfl
@[simp] theorem Core.wrP_lastOwner (c : Core) (r : PReg) (b : Bool) : (c.wrP r b).lastOwner = c.lastOwner := by
  unfold Core.wrP; split <;> rfl
@[simp] theorem Core.wrP_freezing (c : Core) (r : PReg) (b : Bool) : (c.wrP r b).freezing = c.freezing := by
  unfold Core.wrP; split <;> rfl
@[simp] theorem Core.wrP_lastVd (c : Core) (r : PReg) (b : Bool) : (c.wrP r b).lastVd = c.lastVd := by
  unfold Core.wrP; split <;> rfl
@[simp] theorem Core.wrP_repAt (c : Core) (r : PReg) (b : Bool) : (c.wrP r b).repAt = c.repAt := by
  unfold Core.wrP; split <;> rfl
@[simp] theorem Core.wrP_stepAt (c : Core) (r : PReg) (b : Bool) : (c.wrP r b).stepAt = c.stepAt := by
  unfold Core.wrP; split <;> rfl
@[simp] theorem Core.wrP_stepAcc (c : Core) (r : PReg) (b : Bool) : (c.wrP r b).stepAcc = c.stepAcc := by
  unfold Core.wrP; split <;> rfl
@[simp] theorem Core.wrP_opWord (c : Core) (r : PReg) (b : Bool) : (c.wrP r b).opWord = c.opWord := by
  unfold Core.wrP; split <;> rfl
@[simp] theorem Core.wrP_tgtWord (c : Core) (r : PReg) (b : Bool) : (c.wrP r b).tgtWord = c.tgtWord := by
  unfold Core.wrP; split <;> rfl
@[simp] theorem Core.wrP_inflight (c : Core) (r : PReg) (b : Bool) : (c.wrP r b).inflight = c.inflight := by
  unfold Core.wrP; split <;> rfl
@[simp] theorem Core.wrP_heldAcc (c : Core) (r : PReg) (b : Bool) : (c.wrP r b).heldAcc = c.heldAcc := by
  unfold Core.wrP; split <;> rfl
@[simp] theorem Core.wrP_readings (c : Core) (r : PReg) (b : Bool) : (c.wrP r b).readings = c.readings := by
  unfold Core.wrP; split <;> rfl
@[simp] theorem Core.wrP_barAt (c : Core) (r : PReg) (b : Bool) : (c.wrP r b).barAt = c.barAt := by
  unfold Core.wrP; split <;> rfl
@[simp] theorem Core.wrP_icache (c : Core) (r : PReg) (b : Bool) : (c.wrP r b).icache = c.icache := by
  unfold Core.wrP; split <;> rfl
@[simp] theorem Core.wrP_tlb (c : Core) (r : PReg) (b : Bool) : (c.wrP r b).tlb = c.tlb := by
  unfold Core.wrP; split <;> rfl
@[simp] theorem Core.wrV_pc (c : Core) (r : VReg) (x : Token) : (c.wrV r x).pc = c.pc := rfl
@[simp] theorem Core.wrV_lvl (c : Core) (r : VReg) (x : Token) : (c.wrV r x).lvl = c.lvl := rfl
@[simp] theorem Core.wrV_inH (c : Core) (r : VReg) (x : Token) : (c.wrV r x).inH = c.inH := rfl
@[simp] theorem Core.wrV_g (c : Core) (r : VReg) (x : Token) : (c.wrV r x).g = c.g := rfl
@[simp] theorem Core.wrV_p (c : Core) (r : VReg) (x : Token) : (c.wrV r x).p = c.p := rfl
@[simp] theorem Core.wrV_a (c : Core) (r : VReg) (x : Token) : (c.wrV r x).a = c.a := rfl
@[simp] theorem Core.wrV_tb (c : Core) (r : VReg) (x : Token) : (c.wrV r x).tb = c.tb := rfl
@[simp] theorem Core.wrV_tbPend (c : Core) (r : VReg) (x : Token) : (c.wrV r x).tbPend = c.tbPend := rfl
@[simp] theorem Core.wrV_loops (c : Core) (r : VReg) (x : Token) : (c.wrV r x).loops = c.loops := rfl
@[simp] theorem Core.wrV_rpPend (c : Core) (r : VReg) (x : Token) : (c.wrV r x).rpPend = c.rpPend := rfl
@[simp] theorem Core.wrV_rpCount (c : Core) (r : VReg) (x : Token) : (c.wrV r x).rpCount = c.rpCount := rfl
@[simp] theorem Core.wrV_shadow (c : Core) (r : VReg) (x : Token) : (c.wrV r x).shadow = c.shadow := rfl
@[simp] theorem Core.wrV_fmode (c : Core) (r : VReg) (x : Token) : (c.wrV r x).fmode = c.fmode := rfl
@[simp] theorem Core.wrV_fstat (c : Core) (r : VReg) (x : Token) : (c.wrV r x).fstat = c.fstat := rfl
@[simp] theorem Core.wrV_cause (c : Core) (r : VReg) (x : Token) : (c.wrV r x).cause = c.cause := rfl
@[simp] theorem Core.wrV_epc (c : Core) (r : VReg) (x : Token) : (c.wrV r x).epc = c.epc := rfl
@[simp] theorem Core.wrV_eval (c : Core) (r : VReg) (x : Token) : (c.wrV r x).eval = c.eval := rfl
@[simp] theorem Core.wrV_estep (c : Core) (r : VReg) (x : Token) : (c.wrV r x).estep = c.estep := rfl
@[simp] theorem Core.wrV_trapv (c : Core) (r : VReg) (x : Token) : (c.wrV r x).trapv = c.trapv := rfl
@[simp] theorem Core.wrV_slotcls (c : Core) (r : VReg) (x : Token) : (c.wrV r x).slotcls = c.slotcls := rfl
@[simp] theorem Core.wrV_status (c : Core) (r : VReg) (x : Token) : (c.wrV r x).status = c.status := rfl
@[simp] theorem Core.wrV_resume (c : Core) (r : VReg) (x : Token) : (c.wrV r x).resume = c.resume := rfl
@[simp] theorem Core.wrV_task (c : Core) (r : VReg) (x : Token) : (c.wrV r x).task = c.task := rfl
@[simp] theorem Core.wrV_owner (c : Core) (r : VReg) (x : Token) : (c.wrV r x).owner = c.owner := rfl
@[simp] theorem Core.wrV_lastOwner (c : Core) (r : VReg) (x : Token) : (c.wrV r x).lastOwner = c.lastOwner := rfl
@[simp] theorem Core.wrV_freezing (c : Core) (r : VReg) (x : Token) : (c.wrV r x).freezing = c.freezing := rfl
@[simp] theorem Core.wrV_lastVd (c : Core) (r : VReg) (x : Token) : (c.wrV r x).lastVd = c.lastVd := rfl
@[simp] theorem Core.wrV_repAt (c : Core) (r : VReg) (x : Token) : (c.wrV r x).repAt = c.repAt := rfl
@[simp] theorem Core.wrV_stepAt (c : Core) (r : VReg) (x : Token) : (c.wrV r x).stepAt = c.stepAt := rfl
@[simp] theorem Core.wrV_stepAcc (c : Core) (r : VReg) (x : Token) : (c.wrV r x).stepAcc = c.stepAcc := rfl
@[simp] theorem Core.wrV_opWord (c : Core) (r : VReg) (x : Token) : (c.wrV r x).opWord = c.opWord := rfl
@[simp] theorem Core.wrV_tgtWord (c : Core) (r : VReg) (x : Token) : (c.wrV r x).tgtWord = c.tgtWord := rfl
@[simp] theorem Core.wrV_inflight (c : Core) (r : VReg) (x : Token) : (c.wrV r x).inflight = c.inflight := rfl
@[simp] theorem Core.wrV_heldAcc (c : Core) (r : VReg) (x : Token) : (c.wrV r x).heldAcc = c.heldAcc := rfl
@[simp] theorem Core.wrV_readings (c : Core) (r : VReg) (x : Token) : (c.wrV r x).readings = c.readings := rfl
@[simp] theorem Core.wrV_barAt (c : Core) (r : VReg) (x : Token) : (c.wrV r x).barAt = c.barAt := rfl
@[simp] theorem Core.wrV_icache (c : Core) (r : VReg) (x : Token) : (c.wrV r x).icache = c.icache := rfl
@[simp] theorem Core.wrV_tlb (c : Core) (r : VReg) (x : Token) : (c.wrV r x).tlb = c.tlb := rfl
@[simp] theorem Core.wrA_pc (c : Core) (r : AReg) (x : Acc) : (c.wrA r x).pc = c.pc := rfl
@[simp] theorem Core.wrA_lvl (c : Core) (r : AReg) (x : Acc) : (c.wrA r x).lvl = c.lvl := rfl
@[simp] theorem Core.wrA_inH (c : Core) (r : AReg) (x : Acc) : (c.wrA r x).inH = c.inH := rfl
@[simp] theorem Core.wrA_g (c : Core) (r : AReg) (x : Acc) : (c.wrA r x).g = c.g := rfl
@[simp] theorem Core.wrA_v (c : Core) (r : AReg) (x : Acc) : (c.wrA r x).v = c.v := rfl
@[simp] theorem Core.wrA_p (c : Core) (r : AReg) (x : Acc) : (c.wrA r x).p = c.p := rfl
@[simp] theorem Core.wrA_tb (c : Core) (r : AReg) (x : Acc) : (c.wrA r x).tb = c.tb := rfl
@[simp] theorem Core.wrA_tbPend (c : Core) (r : AReg) (x : Acc) : (c.wrA r x).tbPend = c.tbPend := rfl
@[simp] theorem Core.wrA_loops (c : Core) (r : AReg) (x : Acc) : (c.wrA r x).loops = c.loops := rfl
@[simp] theorem Core.wrA_rpPend (c : Core) (r : AReg) (x : Acc) : (c.wrA r x).rpPend = c.rpPend := rfl
@[simp] theorem Core.wrA_rpCount (c : Core) (r : AReg) (x : Acc) : (c.wrA r x).rpCount = c.rpCount := rfl
@[simp] theorem Core.wrA_shadow (c : Core) (r : AReg) (x : Acc) : (c.wrA r x).shadow = c.shadow := rfl
@[simp] theorem Core.wrA_fmode (c : Core) (r : AReg) (x : Acc) : (c.wrA r x).fmode = c.fmode := rfl
@[simp] theorem Core.wrA_fstat (c : Core) (r : AReg) (x : Acc) : (c.wrA r x).fstat = c.fstat := rfl
@[simp] theorem Core.wrA_cause (c : Core) (r : AReg) (x : Acc) : (c.wrA r x).cause = c.cause := rfl
@[simp] theorem Core.wrA_epc (c : Core) (r : AReg) (x : Acc) : (c.wrA r x).epc = c.epc := rfl
@[simp] theorem Core.wrA_eval (c : Core) (r : AReg) (x : Acc) : (c.wrA r x).eval = c.eval := rfl
@[simp] theorem Core.wrA_estep (c : Core) (r : AReg) (x : Acc) : (c.wrA r x).estep = c.estep := rfl
@[simp] theorem Core.wrA_trapv (c : Core) (r : AReg) (x : Acc) : (c.wrA r x).trapv = c.trapv := rfl
@[simp] theorem Core.wrA_slotcls (c : Core) (r : AReg) (x : Acc) : (c.wrA r x).slotcls = c.slotcls := rfl
@[simp] theorem Core.wrA_status (c : Core) (r : AReg) (x : Acc) : (c.wrA r x).status = c.status := rfl
@[simp] theorem Core.wrA_resume (c : Core) (r : AReg) (x : Acc) : (c.wrA r x).resume = c.resume := rfl
@[simp] theorem Core.wrA_task (c : Core) (r : AReg) (x : Acc) : (c.wrA r x).task = c.task := rfl
@[simp] theorem Core.wrA_owner (c : Core) (r : AReg) (x : Acc) : (c.wrA r x).owner = c.owner := rfl
@[simp] theorem Core.wrA_lastOwner (c : Core) (r : AReg) (x : Acc) : (c.wrA r x).lastOwner = c.lastOwner := rfl
@[simp] theorem Core.wrA_freezing (c : Core) (r : AReg) (x : Acc) : (c.wrA r x).freezing = c.freezing := rfl
@[simp] theorem Core.wrA_lastVd (c : Core) (r : AReg) (x : Acc) : (c.wrA r x).lastVd = c.lastVd := rfl
@[simp] theorem Core.wrA_repAt (c : Core) (r : AReg) (x : Acc) : (c.wrA r x).repAt = c.repAt := rfl
@[simp] theorem Core.wrA_stepAt (c : Core) (r : AReg) (x : Acc) : (c.wrA r x).stepAt = c.stepAt := rfl
@[simp] theorem Core.wrA_stepAcc (c : Core) (r : AReg) (x : Acc) : (c.wrA r x).stepAcc = c.stepAcc := rfl
@[simp] theorem Core.wrA_opWord (c : Core) (r : AReg) (x : Acc) : (c.wrA r x).opWord = c.opWord := rfl
@[simp] theorem Core.wrA_tgtWord (c : Core) (r : AReg) (x : Acc) : (c.wrA r x).tgtWord = c.tgtWord := rfl
@[simp] theorem Core.wrA_inflight (c : Core) (r : AReg) (x : Acc) : (c.wrA r x).inflight = c.inflight := rfl
@[simp] theorem Core.wrA_heldAcc (c : Core) (r : AReg) (x : Acc) : (c.wrA r x).heldAcc = c.heldAcc := rfl
@[simp] theorem Core.wrA_pend (c : Core) (r : AReg) (x : Acc) : (c.wrA r x).pend = c.pend := rfl
@[simp] theorem Core.wrA_readings (c : Core) (r : AReg) (x : Acc) : (c.wrA r x).readings = c.readings := rfl
@[simp] theorem Core.wrA_barAt (c : Core) (r : AReg) (x : Acc) : (c.wrA r x).barAt = c.barAt := rfl
@[simp] theorem Core.wrA_icache (c : Core) (r : AReg) (x : Acc) : (c.wrA r x).icache = c.icache := rfl
@[simp] theorem Core.wrA_tlb (c : Core) (r : AReg) (x : Acc) : (c.wrA r x).tlb = c.tlb := rfl

/-! ### Retirement -/

@[simp] theorem Core.retire_lvl (c : Core) : c.retire.lvl = c.lvl := rfl
@[simp] theorem Core.retire_inH (c : Core) : c.retire.inH = c.inH := rfl
@[simp] theorem Core.retire_g (c : Core) : c.retire.g = c.g := rfl
@[simp] theorem Core.retire_v (c : Core) : c.retire.v = c.v := rfl
@[simp] theorem Core.retire_p (c : Core) : c.retire.p = c.p := rfl
@[simp] theorem Core.retire_a (c : Core) : c.retire.a = c.a := rfl
@[simp] theorem Core.retire_tb (c : Core) : c.retire.tb = c.tb := rfl
@[simp] theorem Core.retire_tbPend (c : Core) : c.retire.tbPend = c.tbPend := rfl
@[simp] theorem Core.retire_shadow (c : Core) : c.retire.shadow = c.shadow := rfl
@[simp] theorem Core.retire_fmode (c : Core) : c.retire.fmode = c.fmode := rfl
@[simp] theorem Core.retire_fstat (c : Core) : c.retire.fstat = c.fstat := rfl
@[simp] theorem Core.retire_cause (c : Core) : c.retire.cause = c.cause := rfl
@[simp] theorem Core.retire_epc (c : Core) : c.retire.epc = c.epc := rfl
@[simp] theorem Core.retire_eval (c : Core) : c.retire.eval = c.eval := rfl
@[simp] theorem Core.retire_trapv (c : Core) : c.retire.trapv = c.trapv := rfl
@[simp] theorem Core.retire_slotcls (c : Core) : c.retire.slotcls = c.slotcls := rfl
@[simp] theorem Core.retire_status (c : Core) : c.retire.status = c.status := rfl
@[simp] theorem Core.retire_resume (c : Core) : c.retire.resume = c.resume := rfl
@[simp] theorem Core.retire_task (c : Core) : c.retire.task = c.task := rfl
@[simp] theorem Core.retire_owner (c : Core) : c.retire.owner = c.owner := rfl
@[simp] theorem Core.retire_lastOwner (c : Core) : c.retire.lastOwner = c.lastOwner := rfl
@[simp] theorem Core.retire_freezing (c : Core) : c.retire.freezing = c.freezing := rfl
@[simp] theorem Core.retire_lastVd (c : Core) : c.retire.lastVd = c.lastVd := rfl
@[simp] theorem Core.retire_stepAcc (c : Core) : c.retire.stepAcc = c.stepAcc := rfl
@[simp] theorem Core.retire_opWord (c : Core) : c.retire.opWord = c.opWord := rfl
@[simp] theorem Core.retire_tgtWord (c : Core) : c.retire.tgtWord = c.tgtWord := rfl
@[simp] theorem Core.retire_inflight (c : Core) : c.retire.inflight = c.inflight := rfl
@[simp] theorem Core.retire_heldAcc (c : Core) : c.retire.heldAcc = c.heldAcc := rfl
@[simp] theorem Core.retire_pend (c : Core) : c.retire.pend = c.pend := rfl
@[simp] theorem Core.retire_icache (c : Core) : c.retire.icache = c.icache := rfl
@[simp] theorem Core.retire_tlb (c : Core) : c.retire.tlb = c.tlb := rfl
@[simp] theorem Core.retired_pc (c : Core) : c.retired.pc = c.pc := rfl
@[simp] theorem Core.retired_lvl (c : Core) : c.retired.lvl = c.lvl := rfl
@[simp] theorem Core.retired_inH (c : Core) : c.retired.inH = c.inH := rfl
@[simp] theorem Core.retired_g (c : Core) : c.retired.g = c.g := rfl
@[simp] theorem Core.retired_v (c : Core) : c.retired.v = c.v := rfl
@[simp] theorem Core.retired_p (c : Core) : c.retired.p = c.p := rfl
@[simp] theorem Core.retired_a (c : Core) : c.retired.a = c.a := rfl
@[simp] theorem Core.retired_tb (c : Core) : c.retired.tb = c.tb := rfl
@[simp] theorem Core.retired_tbPend (c : Core) : c.retired.tbPend = c.tbPend := rfl
@[simp] theorem Core.retired_loops (c : Core) : c.retired.loops = c.loops := rfl
@[simp] theorem Core.retired_shadow (c : Core) : c.retired.shadow = c.shadow := rfl
@[simp] theorem Core.retired_fmode (c : Core) : c.retired.fmode = c.fmode := rfl
@[simp] theorem Core.retired_fstat (c : Core) : c.retired.fstat = c.fstat := rfl
@[simp] theorem Core.retired_cause (c : Core) : c.retired.cause = c.cause := rfl
@[simp] theorem Core.retired_epc (c : Core) : c.retired.epc = c.epc := rfl
@[simp] theorem Core.retired_eval (c : Core) : c.retired.eval = c.eval := rfl
@[simp] theorem Core.retired_trapv (c : Core) : c.retired.trapv = c.trapv := rfl
@[simp] theorem Core.retired_slotcls (c : Core) : c.retired.slotcls = c.slotcls := rfl
@[simp] theorem Core.retired_status (c : Core) : c.retired.status = c.status := rfl
@[simp] theorem Core.retired_resume (c : Core) : c.retired.resume = c.resume := rfl
@[simp] theorem Core.retired_task (c : Core) : c.retired.task = c.task := rfl
@[simp] theorem Core.retired_owner (c : Core) : c.retired.owner = c.owner := rfl
@[simp] theorem Core.retired_lastOwner (c : Core) : c.retired.lastOwner = c.lastOwner := rfl
@[simp] theorem Core.retired_freezing (c : Core) : c.retired.freezing = c.freezing := rfl
@[simp] theorem Core.retired_lastVd (c : Core) : c.retired.lastVd = c.lastVd := rfl
@[simp] theorem Core.retired_stepAcc (c : Core) : c.retired.stepAcc = c.stepAcc := rfl
@[simp] theorem Core.retired_opWord (c : Core) : c.retired.opWord = c.opWord := rfl
@[simp] theorem Core.retired_tgtWord (c : Core) : c.retired.tgtWord = c.tgtWord := rfl
@[simp] theorem Core.retired_inflight (c : Core) : c.retired.inflight = c.inflight := rfl
@[simp] theorem Core.retired_heldAcc (c : Core) : c.retired.heldAcc = c.heldAcc := rfl
@[simp] theorem Core.retired_pend (c : Core) : c.retired.pend = c.pend := rfl
@[simp] theorem Core.retired_icache (c : Core) : c.retired.icache = c.icache := rfl
@[simp] theorem Core.retired_tlb (c : Core) : c.retired.tlb = c.tlb := rfl

/-! ### Taking an exception and returning from one -/

@[simp] theorem Core.enter_g (c : Core) (e : BitVec 8) (x y z : Word) : (c.enter e x y z).g = c.g := rfl
@[simp] theorem Core.enter_v (c : Core) (e : BitVec 8) (x y z : Word) : (c.enter e x y z).v = c.v := rfl
@[simp] theorem Core.enter_p (c : Core) (e : BitVec 8) (x y z : Word) : (c.enter e x y z).p = c.p := rfl
@[simp] theorem Core.enter_a (c : Core) (e : BitVec 8) (x y z : Word) : (c.enter e x y z).a = c.a := rfl
@[simp] theorem Core.enter_tb (c : Core) (e : BitVec 8) (x y z : Word) : (c.enter e x y z).tb = c.tb := rfl
@[simp] theorem Core.enter_tbPend (c : Core) (e : BitVec 8) (x y z : Word) : (c.enter e x y z).tbPend = c.tbPend := rfl
@[simp] theorem Core.enter_fmode (c : Core) (e : BitVec 8) (x y z : Word) : (c.enter e x y z).fmode = c.fmode := rfl
@[simp] theorem Core.enter_fstat (c : Core) (e : BitVec 8) (x y z : Word) : (c.enter e x y z).fstat = c.fstat := rfl
@[simp] theorem Core.enter_trapv (c : Core) (e : BitVec 8) (x y z : Word) : (c.enter e x y z).trapv = c.trapv := rfl
@[simp] theorem Core.enter_slotcls (c : Core) (e : BitVec 8) (x y z : Word) : (c.enter e x y z).slotcls = c.slotcls := rfl
@[simp] theorem Core.enter_status (c : Core) (e : BitVec 8) (x y z : Word) : (c.enter e x y z).status = c.status := rfl
@[simp] theorem Core.enter_resume (c : Core) (e : BitVec 8) (x y z : Word) : (c.enter e x y z).resume = c.resume := rfl
@[simp] theorem Core.enter_task (c : Core) (e : BitVec 8) (x y z : Word) : (c.enter e x y z).task = c.task := rfl
@[simp] theorem Core.enter_owner (c : Core) (e : BitVec 8) (x y z : Word) : (c.enter e x y z).owner = c.owner := rfl
@[simp] theorem Core.enter_lastOwner (c : Core) (e : BitVec 8) (x y z : Word) : (c.enter e x y z).lastOwner = c.lastOwner := rfl
@[simp] theorem Core.enter_freezing (c : Core) (e : BitVec 8) (x y z : Word) : (c.enter e x y z).freezing = c.freezing := rfl
@[simp] theorem Core.enter_lastVd (c : Core) (e : BitVec 8) (x y z : Word) : (c.enter e x y z).lastVd = c.lastVd := rfl
@[simp] theorem Core.enter_stepAcc (c : Core) (e : BitVec 8) (x y z : Word) : (c.enter e x y z).stepAcc = c.stepAcc := rfl
@[simp] theorem Core.enter_opWord (c : Core) (e : BitVec 8) (x y z : Word) : (c.enter e x y z).opWord = c.opWord := rfl
@[simp] theorem Core.enter_tgtWord (c : Core) (e : BitVec 8) (x y z : Word) : (c.enter e x y z).tgtWord = c.tgtWord := rfl
@[simp] theorem Core.enter_inflight (c : Core) (e : BitVec 8) (x y z : Word) : (c.enter e x y z).inflight = c.inflight := rfl
@[simp] theorem Core.enter_heldAcc (c : Core) (e : BitVec 8) (x y z : Word) : (c.enter e x y z).heldAcc = c.heldAcc := rfl
@[simp] theorem Core.enter_pend (c : Core) (e : BitVec 8) (x y z : Word) : (c.enter e x y z).pend = c.pend := rfl
@[simp] theorem Core.enter_barAt (c : Core) (e : BitVec 8) (x y z : Word) : (c.enter e x y z).barAt = c.barAt := rfl
@[simp] theorem Core.enter_icache (c : Core) (e : BitVec 8) (x y z : Word) : (c.enter e x y z).icache = c.icache := rfl
@[simp] theorem Core.enter_tlb (c : Core) (e : BitVec 8) (x y z : Word) : (c.enter e x y z).tlb = c.tlb := rfl
@[simp] theorem Core.leave_g (c : Core) : c.leave.g = c.g := rfl
@[simp] theorem Core.leave_v (c : Core) : c.leave.v = c.v := rfl
@[simp] theorem Core.leave_p (c : Core) : c.leave.p = c.p := rfl
@[simp] theorem Core.leave_a (c : Core) : c.leave.a = c.a := rfl
@[simp] theorem Core.leave_tb (c : Core) : c.leave.tb = c.tb := rfl
@[simp] theorem Core.leave_tbPend (c : Core) : c.leave.tbPend = c.tbPend := rfl
@[simp] theorem Core.leave_shadow (c : Core) : c.leave.shadow = c.shadow := rfl
@[simp] theorem Core.leave_fmode (c : Core) : c.leave.fmode = c.fmode := rfl
@[simp] theorem Core.leave_fstat (c : Core) : c.leave.fstat = c.fstat := rfl
@[simp] theorem Core.leave_cause (c : Core) : c.leave.cause = c.cause := rfl
@[simp] theorem Core.leave_epc (c : Core) : c.leave.epc = c.epc := rfl
@[simp] theorem Core.leave_eval (c : Core) : c.leave.eval = c.eval := rfl
@[simp] theorem Core.leave_estep (c : Core) : c.leave.estep = c.estep := rfl
@[simp] theorem Core.leave_trapv (c : Core) : c.leave.trapv = c.trapv := rfl
@[simp] theorem Core.leave_slotcls (c : Core) : c.leave.slotcls = c.slotcls := rfl
@[simp] theorem Core.leave_status (c : Core) : c.leave.status = c.status := rfl
@[simp] theorem Core.leave_resume (c : Core) : c.leave.resume = c.resume := rfl
@[simp] theorem Core.leave_task (c : Core) : c.leave.task = c.task := rfl
@[simp] theorem Core.leave_owner (c : Core) : c.leave.owner = c.owner := rfl
@[simp] theorem Core.leave_lastOwner (c : Core) : c.leave.lastOwner = c.lastOwner := rfl
@[simp] theorem Core.leave_freezing (c : Core) : c.leave.freezing = c.freezing := rfl
@[simp] theorem Core.leave_lastVd (c : Core) : c.leave.lastVd = c.lastVd := rfl
@[simp] theorem Core.leave_repAt (c : Core) : c.leave.repAt = c.repAt := rfl
@[simp] theorem Core.leave_stepAt (c : Core) : c.leave.stepAt = c.stepAt := rfl
@[simp] theorem Core.leave_stepAcc (c : Core) : c.leave.stepAcc = c.stepAcc := rfl
@[simp] theorem Core.leave_opWord (c : Core) : c.leave.opWord = c.opWord := rfl
@[simp] theorem Core.leave_tgtWord (c : Core) : c.leave.tgtWord = c.tgtWord := rfl
@[simp] theorem Core.leave_inflight (c : Core) : c.leave.inflight = c.inflight := rfl
@[simp] theorem Core.leave_heldAcc (c : Core) : c.leave.heldAcc = c.heldAcc := rfl
@[simp] theorem Core.leave_pend (c : Core) : c.leave.pend = c.pend := rfl
@[simp] theorem Core.leave_readings (c : Core) : c.leave.readings = c.readings := rfl
@[simp] theorem Core.leave_barAt (c : Core) : c.leave.barAt = c.barAt := rfl
@[simp] theorem Core.leave_icache (c : Core) : c.leave.icache = c.icache := rfl
@[simp] theorem Core.leave_tlb (c : Core) : c.leave.tlb = c.tlb := rfl

end Sys2Proof.Machine
end

