-- ==== Sys2Proof/Laws/Ops.lean ====
section
/-!
SUPPORT. What the shared operations do, said once: records of cores, registers read after a write, the common course of
every instruction, taking an exception and returning from one.
-/
namespace Sys2Proof.Machine

/-! ### Records of cores -/

theorem lookupTile_insertTile_same (l : List (Nat × Tile)) (t : Nat) (x : Tile) : lookupTile (insertTile l t x) t = x := by
  induction l with
  | nil => simp [insertTile, lookupTile]
  | cons p r ih =>
    obtain ⟨k, y⟩ := p
    simp only [insertTile]
    split
    · simp [lookupTile]
    · split
      · simp [lookupTile]
      · rename_i h
        simp only [lookupTile]
        rw [if_neg (Ne.symm h)]
        exact ih

theorem lookupTile_insertTile_other (l : List (Nat × Tile)) (t u : Nat) (x : Tile) (h : u ≠ t) :
    lookupTile (insertTile l t x) u = lookupTile l u := by
  induction l with
  | nil => simp [insertTile, lookupTile, Ne.symm h]
  | cons p r ih =>
    obtain ⟨k, y⟩ := p
    simp only [insertTile]
    split
    · simp [lookupTile, Ne.symm h]
    · split
      · rename_i hk; subst hk
        simp [lookupTile, Ne.symm h]
      · simp [lookupTile, ih]

theorem State.tileAt_setTile_same (s : State) (t : Nat) (x : Tile) : (s.setTile t x).tileAt t = x := by
  by_cases h : t = s.cur
  · simp [State.tileAt, State.setTile, h]
  · simp [State.tileAt, State.setTile, h, lookupTile_insertTile_same]

theorem State.tileAt_setTile_other (s : State) (t u : Nat) (x : Tile) (h : u ≠ t) :
    (s.setTile t x).tileAt u = s.tileAt u := by
  by_cases ht : t = s.cur
  · subst ht; simp [State.tileAt, State.setTile, h]
  · by_cases hu : u = s.cur
    · simp [State.tileAt, State.setTile, ht, hu]
    · simp [State.tileAt, State.setTile, ht, hu, lookupTile_insertTile_other _ _ _ _ h]

@[simp] theorem State.tileAt_cur (s : State) : s.tileAt s.cur = s.tile := by simp [State.tileAt]
@[simp] theorem State.setCore_tileAt_other (s : State) (c : Core) (u : Nat) (h : u ≠ s.cur) :
    (s.setCore c).tileAt u = s.tileAt u := by simp [State.tileAt, State.setCore, h]

/-! ### Regions -/

theorem State.region_setRegion (s : State) (r q : Nat) (x : Region) (h : r < s.regions.length) :
    (s.setRegion r x).region q = if q = r then some x else s.region q := by
  simp only [State.region, State.setRegion]
  by_cases hq : q = r
  · subst hq; simp [h]
  · simp [hq, Ne.symm hq]

theorem State.region_lt {s : State} {r : Nat} {x : Region} (h : s.region r = some x) : r < s.regions.length := by
  unfold State.region at h
  exact (List.getElem?_eq_some_iff.mp h).1

theorem State.region_updRegion {s : State} {r : Nat} {x : Region} (f : Region → Region) (h : s.region r = some x) (q : Nat) :
    (s.updRegion r f).region q = if q = r then some (f x) else s.region q := by
  simp only [State.updRegion, h]
  exact State.region_setRegion s r q (f x) (State.region_lt h)

/-! ### Registers read after a write (R45) -/

theorem Core.rdG_wrG (c : Core) (r q : GReg) (x : Word) :
    (c.wrG r x).rdG q = if q = r ∧ q ≠ 0 then x else c.rdG q := by
  unfold Core.wrG Core.rdG
  by_cases h : q = r
  · subst h
    by_cases h0 : q = 0
    · simp [h0]
    · simp [h0]
  · by_cases h0 : r = 0
    · simp [h0]
    · have : (r : Nat) ≠ (q : Nat) := fun e => h (Fin.ext e.symm)
      simp [h, h0, this]

theorem Core.rdV_wrV (c : Core) (r q : VReg) (x : Token) : (c.wrV r x).rdV q = if q = r then x else c.rdV q := by
  unfold Core.wrV Core.rdV
  by_cases h : q = r
  · subst h; simp
  · have : (r : Nat) ≠ (q : Nat) := fun e => h (Fin.ext e.symm)
    simp [h, this]

theorem Core.rdP_wrP (c : Core) (r q : PReg) (b : Bool) :
    (c.wrP r b).rdP q = if q = r ∧ q ≠ 0 then b else c.rdP q := by
  unfold Core.wrP Core.rdP
  by_cases h0 : r = 0
  · simp only [h0, if_true]
    by_cases hq : q = 0 <;> simp [hq]
  · simp only [h0, if_false]
    revert h0
    revert r q b
    generalize c.p = p
    intro r q b hr
    have hq : ∀ i : Nat, i < 8 → ((p &&& ~~~(1#8 <<< r.val)) ||| ((BitVec.ofBool b).setWidth 8 <<< r.val)).getLsbD i =
        if i = r.val then b else p.getLsbD i := by
      intro i hi
      by_cases e : i = r.val
      · subst e
        simp [hi]
      · by_cases l : i < r.val
        · simp [hi, e, l]
        · have : i - r.val ≠ 0 := by omega
          simp [hi, e, l, this]
    rw [hq q.val q.isLt]
    by_cases h : q = r
    · subst h; simp [hr]
    · have : (q : Nat) ≠ (r : Nat) := fun e => h (Fin.ext e)
      simp [h, this]

theorem Core.rdA_wrA (c : Core) (r q : AReg) (x : Acc) : (c.wrA r x).rdA q = if q = r then x else c.rdA q := by
  unfold Core.wrA Core.rdA
  by_cases h : q = r
  · subst h; simp
  · have : (r : Nat) ≠ (q : Nat) := fun e => h (Fin.ext e.symm)
    simp [h, this]

@[simp] theorem Core.wrG_zero (c : Core) (x : Word) : c.wrG 0 x = c := by simp [Core.wrG]
@[simp] theorem Core.wrP_zero (c : Core) (b : Bool) : c.wrP 0 b = c := by simp [Core.wrP]
@[simp] theorem Core.rdG_zero (c : Core) : c.rdG 0 = 0 := by simp [Core.rdG]
@[simp] theorem Core.rdP_zero (c : Core) : c.rdP 0 = true := by simp [Core.rdP]
@[simp] theorem Core.rdG_wrV (c : Core) (r : VReg) (x : Token) (q : GReg) : (c.wrV r x).rdG q = c.rdG q := rfl
@[simp] theorem Core.rdP_wrV (c : Core) (r : VReg) (x : Token) (q : PReg) : (c.wrV r x).rdP q = c.rdP q := rfl
@[simp] theorem Core.rdV_wrG (c : Core) (r : GReg) (x : Word) (q : VReg) : (c.wrG r x).rdV q = c.rdV q := by simp [Core.rdV]
@[simp] theorem Core.rdP_wrG (c : Core) (r : GReg) (x : Word) (q : PReg) : (c.wrG r x).rdP q = c.rdP q := by simp [Core.rdP]
@[simp] theorem Core.rdG_wrP (c : Core) (r : PReg) (b : Bool) (q : GReg) : (c.wrP r b).rdG q = c.rdG q := by simp [Core.rdG]
@[simp] theorem Core.rdV_wrP (c : Core) (r : PReg) (b : Bool) (q : VReg) : (c.wrP r b).rdV q = c.rdV q := by simp [Core.rdV]
@[simp] theorem Core.rdG_retire (c : Core) (q : GReg) : c.retire.rdG q = c.rdG q := rfl
@[simp] theorem Core.rdV_retire (c : Core) (q : VReg) : c.retire.rdV q = c.rdV q := rfl
@[simp] theorem Core.rdP_retire (c : Core) (q : PReg) : c.retire.rdP q = c.rdP q := rfl
@[simp] theorem Core.rdG_retired (c : Core) (q : GReg) : c.retired.rdG q = c.rdG q := rfl
@[simp] theorem Core.rdV_retired (c : Core) (q : VReg) : c.retired.rdV q = c.rdV q := rfl
@[simp] theorem Core.rdP_retired (c : Core) (q : PReg) : c.retired.rdP q = c.rdP q := rfl

theorem State.g_def (s : State) (r : GReg) : s.g r = s.core.rdG r := rfl
theorem State.v_def (s : State) (r : VReg) : s.v r = s.core.rdV r := rfl
theorem State.p_def (s : State) (r : PReg) : s.p r = s.core.rdP r := rfl
theorem State.setG_def (s : State) (r : GReg) (x : Word) : s.setG r x = s.setCore (s.core.wrG r x) := rfl
theorem State.setV_def (s : State) (r : VReg) (x : Token) : s.setV r x = s.setCore (s.core.wrV r x) := rfl
theorem State.setP_def (s : State) (r : PReg) (b : Bool) : s.setP r b = s.setCore (s.core.wrP r b) := rfl
theorem State.flag_def (s : State) (f : BitVec 6) : s.flag f = s.setCore { s.core with fstat := s.core.fstat ||| f } := rfl

/-! ### The end of an instruction -/

@[simp] theorem Act.done_retire (s : State) : (Act.retire s).done = s.setCore s.core.retire := rfl
@[simp] theorem Act.done_jump (s : State) (pc : Word) : (Act.jump s pc).done = s.setCore { s.core.retired with pc := pc } := rfl
@[simp] theorem Act.done_wait (s : State) : (Act.wait s).done = s := rfl
@[simp] theorem Act.done_trap (s : State) (e : BitVec 8) (v st : Word) : (Act.trap s e v st).done = s.raise e v s.core.pc st := rfl
@[simp] theorem done_fault (s : State) (e : BitVec 8) (v : Word) : (fault s e v).done = s.raise e v s.core.pc 0 := rfl

theorem Core.retire_pc (c : Core) : c.retire.pc = (loopEnd c.pc c.loops).1 := rfl
theorem Core.retire_loops (c : Core) : c.retire.loops = (loopEnd c.pc c.loops).2 := rfl

/-- Outside a loop end the next pc is eight bytes on and the loop levels stay (R63). -/
theorem loopEnd_none {pc : Word} {l : List LoopLvl} (h : (l.any fun x => x.stop == pc) = false) : loopEnd pc l = (pc + 8, l) := by
  cases l with
  | nil => rfl
  | cons x r =>
    simp only [List.any_cons, Bool.or_eq_false_iff, beq_eq_false_iff_ne] at h
    simp [loopEnd, h.1]

/-! ### The common course of every instruction (R53, R55, R65) -/

/-- Privilege, loop end and guard allow the operation. -/
theorem State.exec_run {s : State} {m : Modes} {ctl : Bool} {c : Guard} {f : State → Act}
    (hm : m.ok s.core.lvl s.core.inH = true) (hl : (ctl && s.core.atLoopEnd) = false) (hg : s.guard c = true) :
    s.exec m ctl c f = (f s).done := by simp [State.exec, hm, hl, hg]

/-- A guard of 0 leaves only the retirement. -/
theorem State.exec_skip {s : State} {m : Modes} {ctl : Bool} {c : Guard} {f : State → Act}
    (hm : m.ok s.core.lvl s.core.inH = true) (hl : (ctl && s.core.atLoopEnd) = false) (hg : s.guard c = false) :
    s.exec m ctl c f = s.setCore s.core.retire := by simp [State.exec, hm, hl, hg]

/-- A level that may not execute the instruction raises PRIVILEGE, whatever the guard. -/
theorem State.exec_privilege {s : State} {m : Modes} {ctl : Bool} {c : Guard} {f : State → Act}
    (hm : m.ok s.core.lvl s.core.inH = false) : s.exec m ctl c f = s.raise cPrivilege s.ir s.core.pc 0 := by
  simp [State.exec, hm]

/-- A control transfer at a loop end raises LOOP_TAIL, whatever the guard. -/
theorem State.exec_loop_tail {s : State} {m : Modes} {c : Guard} {f : State → Act}
    (hm : m.ok s.core.lvl s.core.inH = true) (hl : s.core.atLoopEnd = true) :
    s.exec m true c f = s.raise cLoopTail s.ir s.core.pc 0 := by simp [State.exec, hm, hl]

/-- The four courses of an instruction. -/
theorem State.exec_cases (s : State) (m : Modes) (ctl : Bool) (c : Guard) (f : State → Act) :
    s.exec m ctl c f = s.raise cPrivilege s.ir s.core.pc 0 ∨ s.exec m ctl c f = s.raise cLoopTail s.ir s.core.pc 0 ∨
      s.exec m ctl c f = (f s).done ∨ s.exec m ctl c f = s.setCore s.core.retire := by
  unfold State.exec
  split
  · exact .inl rfl
  · split
    · exact .inr (.inl rfl)
    · split
      · exact .inr (.inr (.inl rfl))
      · exact .inr (.inr (.inr rfl))

/-! ### Taking an exception and returning from one (R257 to R259) -/

/-- A fault goes to the handler when there is one, the core is not in it, and the cause may be taken. -/
theorem State.raise_taken {s : State} {cause : BitVec 8} {eval epc estep : Word} (ht : s.core.trapv ≠ 0)
    (hh : s.core.inH = false) (hc : untakable cause = false) :
    s.raise cause eval epc estep = s.setCore (s.core.enter cause eval epc estep) := by
  unfold State.raise
  rw [if_pos (by simp [hh, hc]; exact ht)]

theorem State.raise_untaken {s : State} {cause : BitVec 8} {eval epc estep : Word}
    (h : s.core.trapv = 0 ∨ s.core.inH = true ∨ untakable cause = true) :
    s.raise cause eval epc estep = s.untaken cause eval epc estep := by
  unfold State.raise
  rcases h with h | h | h <;> simp [h]

/-- A return undoes what entry shadowed. -/
theorem Core.leave_enter (c : Core) (cause : BitVec 8) (eval epc estep : Word) :
    ((c.enter cause eval epc estep).leave.lvl = c.lvl) ∧ ((c.enter cause eval epc estep).leave.loops = c.loops) ∧
    ((c.enter cause eval epc estep).leave.rpPend = c.rpPend) ∧ ((c.enter cause eval epc estep).leave.rpCount = c.rpCount) ∧
    ((c.enter cause eval epc estep).leave.pc = epc) ∧ ((c.enter cause eval epc estep).leave.inH = false) :=
  ⟨rfl, rfl, rfl, rfl, rfl, rfl⟩

/-- A fault that no handler takes writes no memory but status words of functions. -/
theorem State.wr_read_other (s : State) (pa n x a : Nat) (h : a < pa ∨ pa + n ≤ a) :
    Memory.get (s.wr pa n x).mem a = Memory.get s.mem a := Memory.get_write_other _ _ _ _ _ _ h

/-! ### Token instructions (R57, R413) -/

/-- A token instruction retires with its result and its flags, or faults on the first wrong tag. -/
theorem State.token_cases (s : State) (wants : List (VReg × Want)) (d : VReg) (r : Token) (fl : BitVec 6) :
    (∃ e, s.mismatch wants = some e ∧ s.token wants d r fl = fault s cFormatTag e) ∨
    (s.mismatch wants = none ∧ s.token wants d r fl = .retire ((s.setV d r).flag fl)) := by
  unfold State.token
  cases h : s.mismatch wants with
  | none => exact .inr ⟨rfl, rfl⟩
  | some e => exact .inl ⟨e, rfl, rfl⟩

theorem State.mismatch_none {s : State} {l : List (VReg × Want)} (h : ∀ p, p ∈ l → p.2.ok (s.v p.1).fmt = true) :
    s.mismatch l = none := by
  induction l with
  | nil => rfl
  | cons p r ih =>
    obtain ⟨a, w⟩ := p
    rw [State.mismatch, if_pos (h (a, w) (List.mem_cons_self ..))]
    exact ih fun q hq => h q (List.mem_cons_of_mem _ hq)

end Sys2Proof.Machine
end

