-- ==== Sys2Proof/Laws/PerInstr.lean ====
section
/-!
SUPPORT. Decoding the word of an instruction gives the instruction back, one lemma for each constructor. An event has
no word.
-/
namespace Sys2Proof.Laws.RoundTrip
set_option linter.unusedSimpArgs false
set_option Elab.async false

/-- The word of a well-formed instruction decodes to it. -/
def Statement (i : Instr) : Prop := ∀ w, i.wf = true → encode i = some w → decode w = .ok i

theorem add_ne (c : Guard) (w : Bool) (d a b : GReg) (h : (Instr.add c w d a b).wf = true) :
    (0 : BitVec 6) ≠ 0 ∨ c ≠ ⟨0, false⟩ ∨ F0.pack ⟨gCode d, gCode a, gCode b, 0, 0, modW w, 0⟩ ≠ 0 := by
  by_cases hc : c = ⟨0, false⟩
  · right; right
    intro e
    have k := congrArg F0.of e
    rw [F0.of_pack] at k
    have z : F0.of 0 = ⟨0, 0, 0, 0, 0, 0, 0⟩ := by decide
    rw [z] at k
    simp only [F0.mk.injEq] at k
    have hw : w = false := by
      cases w
      · rfl
      · exact absurd k.2.2.2.2.2.1 (by decide)
    have hd := k.1; have ha := k.2.1; have hb := k.2.2.1
    simp only [BitVec.ofNat_eq_ofNat, gCode_zero] at hd ha hb
    subst hc hw hd ha hb
    exact absurd h (by decide)
  · exact .inr (.inl hc)

theorem f0_ne {d a b c : BitVec 6} {fn : BitVec 8} {mod : BitVec 6} {ext : BitVec 16} (h : fn ≠ 0) :
    F0.pack ⟨d, a, b, c, fn, mod, ext⟩ ≠ 0 := by
  intro e
  have := congrArg (fun x => (F0.of x).fn) e
  rw [F0.of_pack] at this
  exact h (by simpa [F0.of] using this)


theorem add (c_ : Guard) (w : Bool) (d : GReg) (a : GReg) (b : GReg) : Statement (.add c_ w d a b) := by
  intro w hw h
  cases h
  rw [decode_word (add_ne c_ w d a b hw)]
  revert hw
  show _ → decAlu _ (F0.of (F0.pack _)) = _
  rw [F0.of_pack]
  simp (disch := omega) only [decAlu, extract_high, extract_low, extract_all, low_setWidth,
      high_setWidth, toNat_setWidth', Nat.reduceSub, Nat.sub_self]
  cases w <;>
      simp (disch := omega) [Instr.wf, enc, encOf, opr, opr2, opr3, modW, modWi, lowBit, bit, low_setWidth,
        high_setWidth, toNat_setWidth', extract_high, extract_low, extract_all]
theorem addImm (c_ : Guard) (w : Bool) (d : GReg) (a : GReg) (imm : BitVec 32) :
    Statement (.addImm c_ w d a imm) := by
  intro w hw h
  cases h
  rw [decode_word (.inl (by decide))]
  revert hw
  show _ → decAlui _ (F1.of (F1.pack _)) = _
  rw [F1.of_pack]
  simp (disch := omega) only [decAlui, extract_high, extract_low, extract_all, low_setWidth,
      high_setWidth, toNat_setWidth', Nat.reduceSub, Nat.sub_self]
  cases w <;>
      simp (disch := omega) [Instr.wf, enc, encOf, opr, opr2, opr3, modW, modWi, lowBit, bit, low_setWidth,
        high_setWidth, toNat_setWidth', extract_high, extract_low, extract_all]
theorem nop : Statement .nop := by
  intro w _ h; cases h; rfl
theorem sub (c_ : Guard) (w : Bool) (d : GReg) (a : GReg) (b : GReg) : Statement (.sub c_ w d a b) := by
  intro w hw h
  cases h
  rw [decode_word (.inr (.inr (f0_ne (by decide))))]
  revert hw
  show _ → decAlu _ (F0.of (F0.pack _)) = _
  rw [F0.of_pack]
  simp (disch := omega) only [decAlu, extract_high, extract_low, extract_all, low_setWidth,
      high_setWidth, toNat_setWidth', Nat.reduceSub, Nat.sub_self]
  cases w <;>
      simp (disch := omega) [Instr.wf, enc, encOf, opr, opr2, opr3, modW, modWi, lowBit, bit, low_setWidth,
        high_setWidth, toNat_setWidth', extract_high, extract_low, extract_all]
theorem mul (c_ : Guard) (w : Bool) (d : GReg) (a : GReg) (b : GReg) : Statement (.mul c_ w d a b) := by
  intro w hw h
  cases h
  rw [decode_word (.inr (.inr (f0_ne (by decide))))]
  revert hw
  show _ → decAlu _ (F0.of (F0.pack _)) = _
  rw [F0.of_pack]
  simp (disch := omega) only [decAlu, extract_high, extract_low, extract_all, low_setWidth,
      high_setWidth, toNat_setWidth', Nat.reduceSub, Nat.sub_self]
  cases w <;>
      simp (disch := omega) [Instr.wf, enc, encOf, opr, opr2, opr3, modW, modWi, lowBit, bit, low_setWidth,
        high_setWidth, toNat_setWidth', extract_high, extract_low, extract_all]
theorem mulh (c_ : Guard) (u : Bool) (d : GReg) (a : GReg) (b : GReg) : Statement (.mulh c_ u d a b) := by
  intro w hw h
  cases h
  rw [decode_word (.inr (.inr (f0_ne (by decide))))]
  revert hw
  show _ → decAlu _ (F0.of (F0.pack _)) = _
  rw [F0.of_pack]
  simp (disch := omega) only [decAlu, extract_high, extract_low, extract_all, low_setWidth,
      high_setWidth, toNat_setWidth', Nat.reduceSub, Nat.sub_self]
  cases u <;>
      simp (disch := omega) [Instr.wf, enc, encOf, opr, opr2, opr3, modW, modWi, lowBit, bit, low_setWidth,
        high_setWidth, toNat_setWidth', extract_high, extract_low, extract_all]
theorem div (c_ : Guard) (u : Bool) (d : GReg) (a : GReg) (b : GReg) : Statement (.div c_ u d a b) := by
  intro w hw h
  cases h
  rw [decode_word (.inr (.inr (f0_ne (by decide))))]
  revert hw
  show _ → decAlu _ (F0.of (F0.pack _)) = _
  rw [F0.of_pack]
  simp (disch := omega) only [decAlu, extract_high, extract_low, extract_all, low_setWidth,
      high_setWidth, toNat_setWidth', Nat.reduceSub, Nat.sub_self]
  cases u <;>
      simp (disch := omega) [Instr.wf, enc, encOf, opr, opr2, opr3, modW, modWi, lowBit, bit, low_setWidth,
        high_setWidth, toNat_setWidth', extract_high, extract_low, extract_all]
theorem rem (c_ : Guard) (u : Bool) (d : GReg) (a : GReg) (b : GReg) : Statement (.rem c_ u d a b) := by
  intro w hw h
  cases h
  rw [decode_word (.inr (.inr (f0_ne (by decide))))]
  revert hw
  show _ → decAlu _ (F0.of (F0.pack _)) = _
  rw [F0.of_pack]
  simp (disch := omega) only [decAlu, extract_high, extract_low, extract_all, low_setWidth,
      high_setWidth, toNat_setWidth', Nat.reduceSub, Nat.sub_self]
  cases u <;>
      simp (disch := omega) [Instr.wf, enc, encOf, opr, opr2, opr3, modW, modWi, lowBit, bit, low_setWidth,
        high_setWidth, toNat_setWidth', extract_high, extract_low, extract_all]
theorem and (c_ : Guard) (d : GReg) (a : GReg) (b : GReg) : Statement (.and c_ d a b) := by
  intro w hw h
  cases h
  rw [decode_word (.inr (.inr (f0_ne (by decide))))]
  revert hw
  show _ → decAlu _ (F0.of (F0.pack _)) = _
  rw [F0.of_pack]
  simp (disch := omega) only [decAlu, extract_high, extract_low, extract_all, low_setWidth,
      high_setWidth, toNat_setWidth', Nat.reduceSub, Nat.sub_self]
  simp (disch := omega) [Instr.wf, enc, encOf, opr, opr2, opr3, modW, modWi, lowBit, bit, low_setWidth,
        high_setWidth, toNat_setWidth', extract_high, extract_low, extract_all]
theorem andImm (c_ : Guard) (d : GReg) (a : GReg) (imm : BitVec 32) : Statement (.andImm c_ d a imm) := by
  intro w hw h
  cases h
  rw [decode_word (.inl (by decide))]
  revert hw
  show _ → decAlui _ (F1.of (F1.pack _)) = _
  rw [F1.of_pack]
  simp (disch := omega) only [decAlui, extract_high, extract_low, extract_all, low_setWidth,
      high_setWidth, toNat_setWidth', Nat.reduceSub, Nat.sub_self]
  simp (disch := omega) [Instr.wf, enc, encOf, opr, opr2, opr3, modW, modWi, lowBit, bit, low_setWidth,
        high_setWidth, toNat_setWidth', extract_high, extract_low, extract_all]
theorem andn (c_ : Guard) (d : GReg) (a : GReg) (b : GReg) : Statement (.andn c_ d a b) := by
  intro w hw h
  cases h
  rw [decode_word (.inr (.inr (f0_ne (by decide))))]
  revert hw
  show _ → decAlu _ (F0.of (F0.pack _)) = _
  rw [F0.of_pack]
  simp (disch := omega) only [decAlu, extract_high, extract_low, extract_all, low_setWidth,
      high_setWidth, toNat_setWidth', Nat.reduceSub, Nat.sub_self]
  simp (disch := omega) [Instr.wf, enc, encOf, opr, opr2, opr3, modW, modWi, lowBit, bit, low_setWidth,
        high_setWidth, toNat_setWidth', extract_high, extract_low, extract_all]
theorem or (c_ : Guard) (d : GReg) (a : GReg) (b : GReg) : Statement (.or c_ d a b) := by
  intro w hw h
  cases h
  rw [decode_word (.inr (.inr (f0_ne (by decide))))]
  revert hw
  show _ → decAlu _ (F0.of (F0.pack _)) = _
  rw [F0.of_pack]
  simp (disch := omega) only [decAlu, extract_high, extract_low, extract_all, low_setWidth,
      high_setWidth, toNat_setWidth', Nat.reduceSub, Nat.sub_self]
  simp (disch := omega) [Instr.wf, enc, encOf, opr, opr2, opr3, modW, modWi, lowBit, bit, low_setWidth,
        high_setWidth, toNat_setWidth', extract_high, extract_low, extract_all]
theorem orImm (c_ : Guard) (d : GReg) (a : GReg) (imm : BitVec 32) : Statement (.orImm c_ d a imm) := by
  intro w hw h
  cases h
  rw [decode_word (.inl (by decide))]
  revert hw
  show _ → decAlui _ (F1.of (F1.pack _)) = _
  rw [F1.of_pack]
  simp (disch := omega) only [decAlui, extract_high, extract_low, extract_all, low_setWidth,
      high_setWidth, toNat_setWidth', Nat.reduceSub, Nat.sub_self]
  simp (disch := omega) [Instr.wf, enc, encOf, opr, opr2, opr3, modW, modWi, lowBit, bit, low_setWidth,
        high_setWidth, toNat_setWidth', extract_high, extract_low, extract_all]
theorem xor (c_ : Guard) (d : GReg) (a : GReg) (b : GReg) : Statement (.xor c_ d a b) := by
  intro w hw h
  cases h
  rw [decode_word (.inr (.inr (f0_ne (by decide))))]
  revert hw
  show _ → decAlu _ (F0.of (F0.pack _)) = _
  rw [F0.of_pack]
  simp (disch := omega) only [decAlu, extract_high, extract_low, extract_all, low_setWidth,
      high_setWidth, toNat_setWidth', Nat.reduceSub, Nat.sub_self]
  simp (disch := omega) [Instr.wf, enc, encOf, opr, opr2, opr3, modW, modWi, lowBit, bit, low_setWidth,
        high_setWidth, toNat_setWidth', extract_high, extract_low, extract_all]
theorem xorImm (c_ : Guard) (d : GReg) (a : GReg) (imm : BitVec 32) : Statement (.xorImm c_ d a imm) := by
  intro w hw h
  cases h
  rw [decode_word (.inl (by decide))]
  revert hw
  show _ → decAlui _ (F1.of (F1.pack _)) = _
  rw [F1.of_pack]
  simp (disch := omega) only [decAlui, extract_high, extract_low, extract_all, low_setWidth,
      high_setWidth, toNat_setWidth', Nat.reduceSub, Nat.sub_self]
  simp (disch := omega) [Instr.wf, enc, encOf, opr, opr2, opr3, modW, modWi, lowBit, bit, low_setWidth,
        high_setWidth, toNat_setWidth', extract_high, extract_low, extract_all]
theorem shl (c_ : Guard) (w : Bool) (d : GReg) (a : GReg) (b : GReg) : Statement (.shl c_ w d a b) := by
  intro w hw h
  cases h
  rw [decode_word (.inr (.inr (f0_ne (by decide))))]
  revert hw
  show _ → decAlu _ (F0.of (F0.pack _)) = _
  rw [F0.of_pack]
  simp (disch := omega) only [decAlu, extract_high, extract_low, extract_all, low_setWidth,
      high_setWidth, toNat_setWidth', Nat.reduceSub, Nat.sub_self]
  cases w <;>
      simp (disch := omega) [Instr.wf, enc, encOf, opr, opr2, opr3, modW, modWi, lowBit, bit, low_setWidth,
        high_setWidth, toNat_setWidth', extract_high, extract_low, extract_all]
theorem shlImm (c_ : Guard) (w : Bool) (d : GReg) (a : GReg) (n : BitVec 6) : Statement (.shlImm c_ w d a n) := by
  intro w hw h
  cases h
  rw [decode_word (.inl (by decide))]
  revert hw
  show _ → decAlui _ (F1.of (F1.pack _)) = _
  rw [F1.of_pack]
  simp (disch := omega) only [decAlui, extract_high, extract_low, extract_all, low_setWidth,
      high_setWidth, toNat_setWidth', Nat.reduceSub, Nat.sub_self]
  cases w <;>
      simp (disch := omega) [Instr.wf, enc, encOf, opr, opr2, opr3, modW, modWi, lowBit, bit, low_setWidth,
        high_setWidth, toNat_setWidth', extract_high, extract_low, extract_all]
theorem shr (c_ : Guard) (w : Bool) (d : GReg) (a : GReg) (b : GReg) : Statement (.shr c_ w d a b) := by
  intro w hw h
  cases h
  rw [decode_word (.inr (.inr (f0_ne (by decide))))]
  revert hw
  show _ → decAlu _ (F0.of (F0.pack _)) = _
  rw [F0.of_pack]
  simp (disch := omega) only [decAlu, extract_high, extract_low, extract_all, low_setWidth,
      high_setWidth, toNat_setWidth', Nat.reduceSub, Nat.sub_self]
  cases w <;>
      simp (disch := omega) [Instr.wf, enc, encOf, opr, opr2, opr3, modW, modWi, lowBit, bit, low_setWidth,
        high_setWidth, toNat_setWidth', extract_high, extract_low, extract_all]
theorem shrImm (c_ : Guard) (w : Bool) (d : GReg) (a : GReg) (n : BitVec 6) : Statement (.shrImm c_ w d a n) := by
  intro w hw h
  cases h
  rw [decode_word (.inl (by decide))]
  revert hw
  show _ → decAlui _ (F1.of (F1.pack _)) = _
  rw [F1.of_pack]
  simp (disch := omega) only [decAlui, extract_high, extract_low, extract_all, low_setWidth,
      high_setWidth, toNat_setWidth', Nat.reduceSub, Nat.sub_self]
  cases w <;>
      simp (disch := omega) [Instr.wf, enc, encOf, opr, opr2, opr3, modW, modWi, lowBit, bit, low_setWidth,
        high_setWidth, toNat_setWidth', extract_high, extract_low, extract_all]
theorem sar (c_ : Guard) (w : Bool) (d : GReg) (a : GReg) (b : GReg) : Statement (.sar c_ w d a b) := by
  intro w hw h
  cases h
  rw [decode_word (.inr (.inr (f0_ne (by decide))))]
  revert hw
  show _ → decAlu _ (F0.of (F0.pack _)) = _
  rw [F0.of_pack]
  simp (disch := omega) only [decAlu, extract_high, extract_low, extract_all, low_setWidth,
      high_setWidth, toNat_setWidth', Nat.reduceSub, Nat.sub_self]
  cases w <;>
      simp (disch := omega) [Instr.wf, enc, encOf, opr, opr2, opr3, modW, modWi, lowBit, bit, low_setWidth,
        high_setWidth, toNat_setWidth', extract_high, extract_low, extract_all]
theorem sarImm (c_ : Guard) (w : Bool) (d : GReg) (a : GReg) (n : BitVec 6) : Statement (.sarImm c_ w d a n) := by
  intro w hw h
  cases h
  rw [decode_word (.inl (by decide))]
  revert hw
  show _ → decAlui _ (F1.of (F1.pack _)) = _
  rw [F1.of_pack]
  simp (disch := omega) only [decAlui, extract_high, extract_low, extract_all, low_setWidth,
      high_setWidth, toNat_setWidth', Nat.reduceSub, Nat.sub_self]
  cases w <;>
      simp (disch := omega) [Instr.wf, enc, encOf, opr, opr2, opr3, modW, modWi, lowBit, bit, low_setWidth,
        high_setWidth, toNat_setWidth', extract_high, extract_low, extract_all]
theorem min (c_ : Guard) (u : Bool) (d : GReg) (a : GReg) (b : GReg) : Statement (.min c_ u d a b) := by
  intro w hw h
  cases h
  rw [decode_word (.inr (.inr (f0_ne (by decide))))]
  revert hw
  show _ → decAlu _ (F0.of (F0.pack _)) = _
  rw [F0.of_pack]
  simp (disch := omega) only [decAlu, extract_high, extract_low, extract_all, low_setWidth,
      high_setWidth, toNat_setWidth', Nat.reduceSub, Nat.sub_self]
  cases u <;>
      simp (disch := omega) [Instr.wf, enc, encOf, opr, opr2, opr3, modW, modWi, lowBit, bit, low_setWidth,
        high_setWidth, toNat_setWidth', extract_high, extract_low, extract_all]
theorem minImm (c_ : Guard) (u : Bool) (d : GReg) (a : GReg) (imm : BitVec 32) :
    Statement (.minImm c_ u d a imm) := by
  intro w hw h
  cases h
  rw [decode_word (.inl (by decide))]
  revert hw
  show _ → decAlui _ (F1.of (F1.pack _)) = _
  rw [F1.of_pack]
  simp (disch := omega) only [decAlui, extract_high, extract_low, extract_all, low_setWidth,
      high_setWidth, toNat_setWidth', Nat.reduceSub, Nat.sub_self]
  cases u <;>
      simp (disch := omega) [Instr.wf, enc, encOf, opr, opr2, opr3, modW, modWi, lowBit, bit, low_setWidth,
        high_setWidth, toNat_setWidth', extract_high, extract_low, extract_all]
theorem max (c_ : Guard) (u : Bool) (d : GReg) (a : GReg) (b : GReg) : Statement (.max c_ u d a b) := by
  intro w hw h
  cases h
  rw [decode_word (.inr (.inr (f0_ne (by decide))))]
  revert hw
  show _ → decAlu _ (F0.of (F0.pack _)) = _
  rw [F0.of_pack]
  simp (disch := omega) only [decAlu, extract_high, extract_low, extract_all, low_setWidth,
      high_setWidth, toNat_setWidth', Nat.reduceSub, Nat.sub_self]
  cases u <;>
      simp (disch := omega) [Instr.wf, enc, encOf, opr, opr2, opr3, modW, modWi, lowBit, bit, low_setWidth,
        high_setWidth, toNat_setWidth', extract_high, extract_low, extract_all]
theorem maxImm (c_ : Guard) (u : Bool) (d : GReg) (a : GReg) (imm : BitVec 32) :
    Statement (.maxImm c_ u d a imm) := by
  intro w hw h
  cases h
  rw [decode_word (.inl (by decide))]
  revert hw
  show _ → decAlui _ (F1.of (F1.pack _)) = _
  rw [F1.of_pack]
  simp (disch := omega) only [decAlui, extract_high, extract_low, extract_all, low_setWidth,
      high_setWidth, toNat_setWidth', Nat.reduceSub, Nat.sub_self]
  cases u <;>
      simp (disch := omega) [Instr.wf, enc, encOf, opr, opr2, opr3, modW, modWi, lowBit, bit, low_setWidth,
        high_setWidth, toNat_setWidth', extract_high, extract_low, extract_all]
theorem cmp (c_ : Guard) (k : Cond) (d : GP) (a : GReg) (b : GReg) : Statement (.cmp c_ k d a b) := by
  intro w hw h
  cases h
  rw [decode_word (.inr (.inr (f0_ne (by decide))))]
  revert hw
  show _ → decAlu _ (F0.of (F0.pack _)) = _
  rw [F0.of_pack]
  simp (disch := omega) only [decAlu, extract_high, extract_low, extract_all, low_setWidth,
      high_setWidth, toNat_setWidth', Nat.reduceSub, Nat.sub_self]
  simp (disch := omega) [Instr.wf, enc, encOf, opr, opr2, opr3, modW, modWi, lowBit, bit, low_setWidth,
        high_setWidth, toNat_setWidth', extract_high, extract_low, extract_all]
theorem cmpImm (c_ : Guard) (k : Cond) (d : GP) (a : GReg) (imm : BitVec 32) : Statement (.cmpImm c_ k d a imm) := by
  intro w hw h
  cases h
  rw [decode_word (.inl (by decide))]
  revert hw
  show _ → decAlui _ (F1.of (F1.pack _)) = _
  rw [F1.of_pack]
  simp (disch := omega) only [decAlui, extract_high, extract_low, extract_all, low_setWidth,
      high_setWidth, toNat_setWidth', Nat.reduceSub, Nat.sub_self]
  simp (disch := omega) [Instr.wf, enc, encOf, opr, opr2, opr3, modW, modWi, lowBit, bit, low_setWidth,
        high_setWidth, toNat_setWidth', extract_high, extract_low, extract_all]
theorem sel (c_ : Guard) (d : GReg) (a : GReg) (b : GReg) (p : PReg) : Statement (.sel c_ d a b p) := by
  intro w hw h
  cases h
  rw [decode_word (.inr (.inr (f0_ne (by decide))))]
  revert hw
  show _ → decAlu _ (F0.of (F0.pack _)) = _
  rw [F0.of_pack]
  simp (disch := omega) only [decAlu, extract_high, extract_low, extract_all, low_setWidth,
      high_setWidth, toNat_setWidth', Nat.reduceSub, Nat.sub_self]
  simp (disch := omega) [Instr.wf, enc, encOf, opr, opr2, opr3, modW, modWi, lowBit, bit, low_setWidth,
        high_setWidth, toNat_setWidth', extract_high, extract_low, extract_all]
theorem clz (c_ : Guard) (d : GReg) (a : GReg) : Statement (.clz c_ d a) := by
  intro w hw h
  cases h
  rw [decode_word (.inr (.inr (f0_ne (by decide))))]
  revert hw
  show _ → decAlu _ (F0.of (F0.pack _)) = _
  rw [F0.of_pack]
  simp (disch := omega) only [decAlu, extract_high, extract_low, extract_all, low_setWidth,
      high_setWidth, toNat_setWidth', Nat.reduceSub, Nat.sub_self]
  simp (disch := omega) [Instr.wf, enc, encOf, opr, opr2, opr3, modW, modWi, lowBit, bit, low_setWidth,
        high_setWidth, toNat_setWidth', extract_high, extract_low, extract_all]
theorem popc (c_ : Guard) (d : GReg) (a : GReg) : Statement (.popc c_ d a) := by
  intro w hw h
  cases h
  rw [decode_word (.inr (.inr (f0_ne (by decide))))]
  revert hw
  show _ → decAlu _ (F0.of (F0.pack _)) = _
  rw [F0.of_pack]
  simp (disch := omega) only [decAlu, extract_high, extract_low, extract_all, low_setWidth,
      high_setWidth, toNat_setWidth', Nat.reduceSub, Nat.sub_self]
  simp (disch := omega) [Instr.wf, enc, encOf, opr, opr2, opr3, modW, modWi, lowBit, bit, low_setWidth,
        high_setWidth, toNat_setWidth', extract_high, extract_low, extract_all]
theorem bext (c_ : Guard) (sx : Bool) (d : GReg) (a : GReg) (lsb : BitVec 6) (wm1 : BitVec 6) :
    Statement (.bext c_ sx d a lsb wm1) := by
  intro w hw h
  cases h
  rw [decode_word (.inr (.inr (f0_ne (by decide))))]
  revert hw
  show _ → decAlu _ (F0.of (F0.pack _)) = _
  rw [F0.of_pack]
  simp (disch := omega) only [decAlu, extract_high, extract_low, extract_all, low_setWidth,
      high_setWidth, toNat_setWidth', Nat.reduceSub, Nat.sub_self]
  cases sx <;>
      simp (disch := omega) [Instr.wf, enc, encOf, opr, opr2, opr3, modW, modWi, lowBit, bit, low_setWidth,
        high_setWidth, toNat_setWidth', extract_high, extract_low, extract_all]
theorem bins (c_ : Guard) (d : GReg) (a : GReg) (lsb : BitVec 6) (wm1 : BitVec 6) :
    Statement (.bins c_ d a lsb wm1) := by
  intro w hw h
  cases h
  rw [decode_word (.inr (.inr (f0_ne (by decide))))]
  revert hw
  show _ → decAlu _ (F0.of (F0.pack _)) = _
  rw [F0.of_pack]
  simp (disch := omega) only [decAlu, extract_high, extract_low, extract_all, low_setWidth,
      high_setWidth, toNat_setWidth', Nat.reduceSub, Nat.sub_self]
  simp (disch := omega) [Instr.wf, enc, encOf, opr, opr2, opr3, modW, modWi, lowBit, bit, low_setWidth,
        high_setWidth, toNat_setWidth', extract_high, extract_low, extract_all]
theorem plog (c_ : Guard) (op : PlogOp) (d : PReg) (a : PReg) (b : PReg) : Statement (.plog c_ op d a b) := by
  intro w hw h
  cases h
  rw [decode_word (.inr (.inr (f0_ne (by decide))))]
  revert hw
  show _ → decAlu _ (F0.of (F0.pack _)) = _
  rw [F0.of_pack]
  simp (disch := omega) only [decAlu, extract_high, extract_low, extract_all, low_setWidth,
      high_setWidth, toNat_setWidth', Nat.reduceSub, Nat.sub_self]
  simp (disch := omega) [Instr.wf, enc, encOf, opr, opr2, opr3, modW, modWi, lowBit, bit, low_setWidth,
        high_setWidth, toNat_setWidth', extract_high, extract_low, extract_all]
theorem movi (c_ : Guard) (d : GReg) (imm : BitVec 32) : Statement (.movi c_ d imm) := by
  intro w hw h
  cases h
  rw [decode_word (.inl (by decide))]
  revert hw
  show _ → decAlui _ (F1.of (F1.pack _)) = _
  rw [F1.of_pack]
  simp (disch := omega) only [decAlui, extract_high, extract_low, extract_all, low_setWidth,
      high_setWidth, toNat_setWidth', Nat.reduceSub, Nat.sub_self]
  simp (disch := omega) [Instr.wf, enc, encOf, opr, opr2, opr3, modW, modWi, lowBit, bit, low_setWidth,
        high_setWidth, toNat_setWidth', extract_high, extract_low, extract_all]
theorem movhi (c_ : Guard) (d : GReg) (imm : BitVec 32) : Statement (.movhi c_ d imm) := by
  intro w hw h
  cases h
  rw [decode_word (.inl (by decide))]
  revert hw
  show _ → decAlui _ (F1.of (F1.pack _)) = _
  rw [F1.of_pack]
  simp (disch := omega) only [decAlui, extract_high, extract_low, extract_all, low_setWidth,
      high_setWidth, toNat_setWidth', Nat.reduceSub, Nat.sub_self]
  simp (disch := omega) [Instr.wf, enc, encOf, opr, opr2, opr3, modW, modWi, lowBit, bit, low_setWidth,
        high_setWidth, toNat_setWidth', extract_high, extract_low, extract_all]
theorem br (c_ : Guard) (hint : Bool) (disp : BitVec 32) : Statement (.br c_ hint disp) := by
  intro w hw h
  cases h
  rw [decode_word (.inl (by decide))]
  revert hw
  show _ → decBr _ (F3.of (F3.pack _)) = _
  rw [F3.of_pack]
  simp (disch := omega) only [decBr, extract_high, extract_low, extract_all, low_setWidth,
      high_setWidth, toNat_setWidth', Nat.reduceSub, Nat.sub_self]
  cases hint <;>
      simp (disch := omega) [Instr.wf, enc, encOf, opr, opr2, opr3, modW, modWi, lowBit, bit, low_setWidth,
        high_setWidth, toNat_setWidth', extract_high, extract_low, extract_all]
theorem cbr (c_ : Guard) (k : Cond) (hint : Bool) (a : GReg) (b : GReg) (disp : BitVec 32) :
    Statement (.cbr c_ k hint a b disp) := by
  intro w hw h
  cases h
  rw [decode_word (.inl (by decide))]
  revert hw
  show _ → decBr _ (F3.of (F3.pack _)) = _
  rw [F3.of_pack]
  simp (disch := omega) only [decBr, extract_high, extract_low, extract_all, low_setWidth,
      high_setWidth, toNat_setWidth', Nat.reduceSub, Nat.sub_self]
  cases hint <;>
      simp (disch := omega) [Instr.wf, enc, encOf, opr, opr2, opr3, modW, modWi, lowBit, bit, low_setWidth,
        high_setWidth, toNat_setWidth', extract_high, extract_low, extract_all]
theorem call (c_ : Guard) (hint : Bool) (a : GReg) (disp : BitVec 32) : Statement (.call c_ hint a disp) := by
  intro w hw h
  cases h
  rw [decode_word (.inl (by decide))]
  revert hw
  show _ → decBr _ (F3.of (F3.pack _)) = _
  rw [F3.of_pack]
  simp (disch := omega) only [decBr, extract_high, extract_low, extract_all, low_setWidth,
      high_setWidth, toNat_setWidth', Nat.reduceSub, Nat.sub_self]
  cases hint <;>
      simp (disch := omega) [Instr.wf, enc, encOf, opr, opr2, opr3, modW, modWi, lowBit, bit, low_setWidth,
        high_setWidth, toNat_setWidth', extract_high, extract_low, extract_all]
theorem jmp (c_ : Guard) (hint : Bool) (a : GReg) (disp : BitVec 32) : Statement (.jmp c_ hint a disp) := by
  intro w hw h
  cases h
  rw [decode_word (.inl (by decide))]
  revert hw
  show _ → decBr _ (F3.of (F3.pack _)) = _
  rw [F3.of_pack]
  simp (disch := omega) only [decBr, extract_high, extract_low, extract_all, low_setWidth,
      high_setWidth, toNat_setWidth', Nat.reduceSub, Nat.sub_self]
  cases hint <;>
      simp (disch := omega) [Instr.wf, enc, encOf, opr, opr2, opr3, modW, modWi, lowBit, bit, low_setWidth,
        high_setWidth, toNat_setWidth', extract_high, extract_low, extract_all]
theorem ret (c_ : Guard) (hint : Bool) (a : GReg) : Statement (.ret c_ hint a) := by
  intro w hw h
  cases h
  rw [decode_word (.inl (by decide))]
  revert hw
  show _ → decBr _ (F3.of (F3.pack _)) = _
  rw [F3.of_pack]
  simp (disch := omega) only [decBr, extract_high, extract_low, extract_all, low_setWidth,
      high_setWidth, toNat_setWidth', Nat.reduceSub, Nat.sub_self]
  cases hint <;>
      simp (disch := omega) [Instr.wf, enc, encOf, opr, opr2, opr3, modW, modWi, lowBit, bit, low_setWidth,
        high_setWidth, toNat_setWidth', extract_high, extract_low, extract_all]
theorem loop (c_ : Guard) (cnt : GReg) (count : BitVec 16) (len : BitVec 16) :
    Statement (.loop c_ cnt count len) := by
  intro w hw h
  cases h
  rw [decode_word (.inl (by decide))]
  revert hw
  show _ → decLoop _ (F4L.pack _) = _
  simp (disch := omega) only [decLoop, F4L.of_pack, F4L.kind, F4R.of_pack, F4R.kind, extract_high, extract_low, extract_all, low_setWidth,
      high_setWidth, toNat_setWidth', Nat.reduceSub, Nat.sub_self]
  simp (disch := omega) [Instr.wf, enc, encOf, opr, opr2, opr3, modW, modWi, lowBit, bit, low_setWidth,
        high_setWidth, toNat_setWidth', extract_high, extract_low, extract_all] <;>
      intros <;> simp_all [rdotActOf_code, wtOf_code, ddotAOf_code, ddotBOf_code]
theorem rep (c_ : Guard) (n : BitVec 6) (sd : BitVec 4) (sa : BitVec 4) (sb : BitVec 4) (sc : BitVec 4) :
    Statement (.rep c_ n sd sa sb sc) := by
  intro w hw h
  cases h
  rw [decode_word (.inl (by decide))]
  revert hw
  show _ → decLoop _ (F4R.pack _) = _
  simp (disch := omega) only [decLoop, F4L.of_pack, F4L.kind, F4R.of_pack, F4R.kind, extract_high, extract_low, extract_all, low_setWidth,
      high_setWidth, toNat_setWidth', Nat.reduceSub, Nat.sub_self]
  simp (disch := omega) [Instr.wf, enc, encOf, opr, opr2, opr3, modW, modWi, lowBit, bit, low_setWidth,
        high_setWidth, toNat_setWidth', extract_high, extract_low, extract_all]
theorem ld (c_ : Guard) (sz : Sz) (o : Ord) (sp : Scope) (t : GReg) (base : GReg) (idx : GReg) (off : BitVec 22) :
    Statement (.ld c_ sz o sp t base idx off) := by
  intro w hw h
  cases h
  rw [decode_word (.inl (by decide))]
  revert hw
  show _ → decLd _ (F2.of (F2.pack _)) = _
  rw [F2.of_pack]
  simp (disch := omega) only [decLd, ordOf, extract_high, extract_low, extract_all, low_setWidth,
      high_setWidth, toNat_setWidth', Nat.reduceSub, Nat.sub_self]
  simp (disch := omega) [Instr.wf, enc, encOf, opr, opr2, opr3, modW, modWi, lowBit, bit, low_setWidth,
        high_setWidth, toNat_setWidth', extract_high, extract_low, extract_all] <;>
      intros <;> simp_all [rdotActOf_code, wtOf_code, ddotAOf_code, ddotBOf_code]
theorem st (c_ : Guard) (sz : Sz) (o : Ord) (sp : Scope) (t : GReg) (base : GReg) (idx : GReg) (off : BitVec 22) :
    Statement (.st c_ sz o sp t base idx off) := by
  intro w hw h
  cases h
  rw [decode_word (.inl (by decide))]
  revert hw
  show _ → decSt _ (F2.of (F2.pack _)) = _
  rw [F2.of_pack]
  simp (disch := omega) only [decSt, ordOf, extract_high, extract_low, extract_all, low_setWidth,
      high_setWidth, toNat_setWidth', Nat.reduceSub, Nat.sub_self]
  simp (disch := omega) [Instr.wf, enc, encOf, opr, opr2, opr3, modW, modWi, lowBit, bit, low_setWidth,
        high_setWidth, toNat_setWidth', extract_high, extract_low, extract_all] <;>
      intros <;> simp_all [rdotActOf_code, wtOf_code, ddotAOf_code, ddotBOf_code]
theorem aadd (c_ : Guard) (sz : Sz) (o : Ord) (sp : Scope) (t : GReg) (base : GReg) (i : GReg) (off : BitVec 22) :
    Statement (.aadd c_ sz o sp t base i off) := by
  intro w hw h
  cases h
  rw [decode_word (.inl (by decide))]
  revert hw
  show _ → decAtom _ (F2.of (F2.pack _)) = _
  rw [F2.of_pack]
  simp (disch := omega) only [decAtom, ordOf, extract_high, extract_low, extract_all, low_setWidth,
      high_setWidth, toNat_setWidth', Nat.reduceSub, Nat.sub_self]
  simp (disch := omega) [Instr.wf, enc, encOf, opr, opr2, opr3, modW, modWi, lowBit, bit, low_setWidth,
        high_setWidth, toNat_setWidth', extract_high, extract_low, extract_all] <;>
      intros <;> simp_all [rdotActOf_code, wtOf_code, ddotAOf_code, ddotBOf_code]
theorem aand (c_ : Guard) (sz : Sz) (o : Ord) (sp : Scope) (t : GReg) (base : GReg) (i : GReg) (off : BitVec 22) :
    Statement (.aand c_ sz o sp t base i off) := by
  intro w hw h
  cases h
  rw [decode_word (.inl (by decide))]
  revert hw
  show _ → decAtom _ (F2.of (F2.pack _)) = _
  rw [F2.of_pack]
  simp (disch := omega) only [decAtom, ordOf, extract_high, extract_low, extract_all, low_setWidth,
      high_setWidth, toNat_setWidth', Nat.reduceSub, Nat.sub_self]
  simp (disch := omega) [Instr.wf, enc, encOf, opr, opr2, opr3, modW, modWi, lowBit, bit, low_setWidth,
        high_setWidth, toNat_setWidth', extract_high, extract_low, extract_all] <;>
      intros <;> simp_all [rdotActOf_code, wtOf_code, ddotAOf_code, ddotBOf_code]
theorem aor (c_ : Guard) (sz : Sz) (o : Ord) (sp : Scope) (t : GReg) (base : GReg) (i : GReg) (off : BitVec 22) :
    Statement (.aor c_ sz o sp t base i off) := by
  intro w hw h
  cases h
  rw [decode_word (.inl (by decide))]
  revert hw
  show _ → decAtom _ (F2.of (F2.pack _)) = _
  rw [F2.of_pack]
  simp (disch := omega) only [decAtom, ordOf, extract_high, extract_low, extract_all, low_setWidth,
      high_setWidth, toNat_setWidth', Nat.reduceSub, Nat.sub_self]
  simp (disch := omega) [Instr.wf, enc, encOf, opr, opr2, opr3, modW, modWi, lowBit, bit, low_setWidth,
        high_setWidth, toNat_setWidth', extract_high, extract_low, extract_all] <;>
      intros <;> simp_all [rdotActOf_code, wtOf_code, ddotAOf_code, ddotBOf_code]
theorem axor (c_ : Guard) (sz : Sz) (o : Ord) (sp : Scope) (t : GReg) (base : GReg) (i : GReg) (off : BitVec 22) :
    Statement (.axor c_ sz o sp t base i off) := by
  intro w hw h
  cases h
  rw [decode_word (.inl (by decide))]
  revert hw
  show _ → decAtom _ (F2.of (F2.pack _)) = _
  rw [F2.of_pack]
  simp (disch := omega) only [decAtom, ordOf, extract_high, extract_low, extract_all, low_setWidth,
      high_setWidth, toNat_setWidth', Nat.reduceSub, Nat.sub_self]
  simp (disch := omega) [Instr.wf, enc, encOf, opr, opr2, opr3, modW, modWi, lowBit, bit, low_setWidth,
        high_setWidth, toNat_setWidth', extract_high, extract_low, extract_all] <;>
      intros <;> simp_all [rdotActOf_code, wtOf_code, ddotAOf_code, ddotBOf_code]
theorem amin (c_ : Guard) (sz : Sz) (o : Ord) (sp : Scope) (t : GReg) (base : GReg) (i : GReg) (off : BitVec 22) :
    Statement (.amin c_ sz o sp t base i off) := by
  intro w hw h
  cases h
  rw [decode_word (.inl (by decide))]
  revert hw
  show _ → decAtom _ (F2.of (F2.pack _)) = _
  rw [F2.of_pack]
  simp (disch := omega) only [decAtom, ordOf, extract_high, extract_low, extract_all, low_setWidth,
      high_setWidth, toNat_setWidth', Nat.reduceSub, Nat.sub_self]
  simp (disch := omega) [Instr.wf, enc, encOf, opr, opr2, opr3, modW, modWi, lowBit, bit, low_setWidth,
        high_setWidth, toNat_setWidth', extract_high, extract_low, extract_all] <;>
      intros <;> simp_all [rdotActOf_code, wtOf_code, ddotAOf_code, ddotBOf_code]
theorem amax (c_ : Guard) (sz : Sz) (o : Ord) (sp : Scope) (t : GReg) (base : GReg) (i : GReg) (off : BitVec 22) :
    Statement (.amax c_ sz o sp t base i off) := by
  intro w hw h
  cases h
  rw [decode_word (.inl (by decide))]
  revert hw
  show _ → decAtom _ (F2.of (F2.pack _)) = _
  rw [F2.of_pack]
  simp (disch := omega) only [decAtom, ordOf, extract_high, extract_low, extract_all, low_setWidth,
      high_setWidth, toNat_setWidth', Nat.reduceSub, Nat.sub_self]
  simp (disch := omega) [Instr.wf, enc, encOf, opr, opr2, opr3, modW, modWi, lowBit, bit, low_setWidth,
        high_setWidth, toNat_setWidth', extract_high, extract_low, extract_all] <;>
      intros <;> simp_all [rdotActOf_code, wtOf_code, ddotAOf_code, ddotBOf_code]
theorem aswap (c_ : Guard) (sz : Sz) (o : Ord) (sp : Scope) (t : GReg) (base : GReg) (i : GReg) (off : BitVec 22) :
    Statement (.aswap c_ sz o sp t base i off) := by
  intro w hw h
  cases h
  rw [decode_word (.inl (by decide))]
  revert hw
  show _ → decAtom _ (F2.of (F2.pack _)) = _
  rw [F2.of_pack]
  simp (disch := omega) only [decAtom, ordOf, extract_high, extract_low, extract_all, low_setWidth,
      high_setWidth, toNat_setWidth', Nat.reduceSub, Nat.sub_self]
  simp (disch := omega) [Instr.wf, enc, encOf, opr, opr2, opr3, modW, modWi, lowBit, bit, low_setWidth,
        high_setWidth, toNat_setWidth', extract_high, extract_low, extract_all] <;>
      intros <;> simp_all [rdotActOf_code, wtOf_code, ddotAOf_code, ddotBOf_code]
theorem acas (c_ : Guard) (sz : Sz) (o : Ord) (sp : Scope) (t : GReg) (base : GReg) (i : GReg) (off : BitVec 22) :
    Statement (.acas c_ sz o sp t base i off) := by
  intro w hw h
  cases h
  rw [decode_word (.inl (by decide))]
  revert hw
  show _ → decAtom _ (F2.of (F2.pack _)) = _
  rw [F2.of_pack]
  simp (disch := omega) only [decAtom, ordOf, extract_high, extract_low, extract_all, low_setWidth,
      high_setWidth, toNat_setWidth', Nat.reduceSub, Nat.sub_self]
  simp (disch := omega) [Instr.wf, enc, encOf, opr, opr2, opr3, modW, modWi, lowBit, bit, low_setWidth,
        high_setWidth, toNat_setWidth', extract_high, extract_low, extract_all] <;>
      intros <;> simp_all [rdotActOf_code, wtOf_code, ddotAOf_code, ddotBOf_code]
theorem afmax (c_ : Guard) (sz : Sz) (o : Ord) (sp : Scope) (t : GReg) (base : GReg) (i : GReg) (off : BitVec 22) :
    Statement (.afmax c_ sz o sp t base i off) := by
  intro w hw h
  cases h
  rw [decode_word (.inl (by decide))]
  revert hw
  show _ → decAtom _ (F2.of (F2.pack _)) = _
  rw [F2.of_pack]
  simp (disch := omega) only [decAtom, ordOf, extract_high, extract_low, extract_all, low_setWidth,
      high_setWidth, toNat_setWidth', Nat.reduceSub, Nat.sub_self]
  simp (disch := omega) [Instr.wf, enc, encOf, opr, opr2, opr3, modW, modWi, lowBit, bit, low_setWidth,
        high_setWidth, toNat_setWidth', extract_high, extract_low, extract_all] <;>
      intros <;> simp_all [rdotActOf_code, wtOf_code, ddotAOf_code, ddotBOf_code]
theorem afadd (c_ : Guard) (sz : Sz) (o : Ord) (sp : Scope) (t : GReg) (base : GReg) (i : GReg) (off : BitVec 22) :
    Statement (.afadd c_ sz o sp t base i off) := by
  intro w hw h
  cases h
  rw [decode_word (.inl (by decide))]
  revert hw
  show _ → decAtom _ (F2.of (F2.pack _)) = _
  rw [F2.of_pack]
  simp (disch := omega) only [decAtom, ordOf, extract_high, extract_low, extract_all, low_setWidth,
      high_setWidth, toNat_setWidth', Nat.reduceSub, Nat.sub_self]
  simp (disch := omega) [Instr.wf, enc, encOf, opr, opr2, opr3, modW, modWi, lowBit, bit, low_setWidth,
        high_setWidth, toNat_setWidth', extract_high, extract_low, extract_all] <;>
      intros <;> simp_all [rdotActOf_code, wtOf_code, ddotAOf_code, ddotBOf_code]
theorem fenceFull (c_ : Guard) (sp : Scope) : Statement (.fenceFull c_ sp) := by
  intro w hw h
  cases h
  rw [decode_word (.inl (by decide))]
  revert hw
  show _ → decSync _ (F6.of (F6.pack _)) = _
  rw [F6.of_pack]
  simp (disch := omega) only [decSync, extract_high, extract_low, extract_all, low_setWidth,
      high_setWidth, toNat_setWidth', Nat.reduceSub, Nat.sub_self]
  simp (disch := omega) [Instr.wf, enc, encOf, opr, opr2, opr3, modW, modWi, lowBit, bit, low_setWidth,
        high_setWidth, toNat_setWidth', extract_high, extract_low, extract_all]
theorem fenceRel (c_ : Guard) (sp : Scope) : Statement (.fenceRel c_ sp) := by
  intro w hw h
  cases h
  rw [decode_word (.inl (by decide))]
  revert hw
  show _ → decSync _ (F6.of (F6.pack _)) = _
  rw [F6.of_pack]
  simp (disch := omega) only [decSync, extract_high, extract_low, extract_all, low_setWidth,
      high_setWidth, toNat_setWidth', Nat.reduceSub, Nat.sub_self]
  simp (disch := omega) [Instr.wf, enc, encOf, opr, opr2, opr3, modW, modWi, lowBit, bit, low_setWidth,
        high_setWidth, toNat_setWidth', extract_high, extract_low, extract_all]
theorem fenceAcq (c_ : Guard) (sp : Scope) : Statement (.fenceAcq c_ sp) := by
  intro w hw h
  cases h
  rw [decode_word (.inl (by decide))]
  revert hw
  show _ → decSync _ (F6.of (F6.pack _)) = _
  rw [F6.of_pack]
  simp (disch := omega) only [decSync, extract_high, extract_low, extract_all, low_setWidth,
      high_setWidth, toNat_setWidth', Nat.reduceSub, Nat.sub_self]
  simp (disch := omega) [Instr.wf, enc, encOf, opr, opr2, opr3, modW, modWi, lowBit, bit, low_setWidth,
        high_setWidth, toNat_setWidth', extract_high, extract_low, extract_all]
theorem fenceFetch (c_ : Guard) (sp : Scope) : Statement (.fenceFetch c_ sp) := by
  intro w hw h
  cases h
  rw [decode_word (.inl (by decide))]
  revert hw
  show _ → decSync _ (F6.of (F6.pack _)) = _
  rw [F6.of_pack]
  simp (disch := omega) only [decSync, extract_high, extract_low, extract_all, low_setWidth,
      high_setWidth, toNat_setWidth', Nat.reduceSub, Nat.sub_self]
  simp (disch := omega) [Instr.wf, enc, encOf, opr, opr2, opr3, modW, modWi, lowBit, bit, low_setWidth,
        high_setWidth, toNat_setWidth', extract_high, extract_low, extract_all]
theorem waita (c_ : Guard) (k : WCond) (dword : Bool) (d : GReg) (a : GReg) : Statement (.waita c_ k dword d a) := by
  intro w hw h
  cases h
  rw [decode_word (.inl (by decide))]
  revert hw
  show _ → decSync _ (F6.of (F6.pack _)) = _
  rw [F6.of_pack]
  simp (disch := omega) only [decSync, extract_high, extract_low, extract_all, low_setWidth,
      high_setWidth, toNat_setWidth', Nat.reduceSub, Nat.sub_self]
  cases dword <;>
      simp (disch := omega) [Instr.wf, enc, encOf, opr, opr2, opr3, modW, modWi, lowBit, bit, low_setWidth,
        high_setWidth, toNat_setWidth', extract_high, extract_low, extract_all]
theorem waitaWake (t : Nat) : Statement (.waitaWake t) := by
  intro w _ h; cases h
theorem bar (c_ : Guard) (n : BitVec 4) : Statement (.bar c_ n) := by
  intro w hw h
  cases h
  rw [decode_word (.inl (by decide))]
  revert hw
  show _ → decSync _ (F6.of (F6.pack _)) = _
  rw [F6.of_pack]
  simp (disch := omega) only [decSync, extract_high, extract_low, extract_all, low_setWidth,
      high_setWidth, toNat_setWidth', Nat.reduceSub, Nat.sub_self]
  simp (disch := omega) [Instr.wf, enc, encOf, opr, opr2, opr3, modW, modWi, lowBit, bit, low_setWidth,
        high_setWidth, toNat_setWidth', extract_high, extract_low, extract_all]
theorem barEpisodeClose (t : Nat) (n : BitVec 4) : Statement (.barEpisodeClose t n) := by
  intro w _ h; cases h
theorem vadd (c_ : Guard) (f : Fmt) (rm : Rm) (d : VReg) (a : VReg) (b : VReg) :
    Statement (.vadd c_ f rm d a b) := by
  intro w hw h
  cases h
  rw [decode_word (.inl (by decide))]
  revert hw
  show _ → decValu _ (F0.of (F0.pack _)) = _
  rw [F0.of_pack]
  simp (disch := omega) only [decValu, extract_high, extract_low, extract_all, low_setWidth,
      high_setWidth, toNat_setWidth', Nat.reduceSub, Nat.sub_self]
  simp (disch := omega) [Instr.wf, enc, encOf, opr, opr2, opr3, modW, modWi, lowBit, bit, low_setWidth,
        high_setWidth, toNat_setWidth', extract_high, extract_low, extract_all] <;>
      intros <;> simp_all [rdotActOf_code, wtOf_code, ddotAOf_code, ddotBOf_code]
theorem vsub (c_ : Guard) (f : Fmt) (rm : Rm) (d : VReg) (a : VReg) (b : VReg) :
    Statement (.vsub c_ f rm d a b) := by
  intro w hw h
  cases h
  rw [decode_word (.inl (by decide))]
  revert hw
  show _ → decValu _ (F0.of (F0.pack _)) = _
  rw [F0.of_pack]
  simp (disch := omega) only [decValu, extract_high, extract_low, extract_all, low_setWidth,
      high_setWidth, toNat_setWidth', Nat.reduceSub, Nat.sub_self]
  simp (disch := omega) [Instr.wf, enc, encOf, opr, opr2, opr3, modW, modWi, lowBit, bit, low_setWidth,
        high_setWidth, toNat_setWidth', extract_high, extract_low, extract_all] <;>
      intros <;> simp_all [rdotActOf_code, wtOf_code, ddotAOf_code, ddotBOf_code]
theorem vmul (c_ : Guard) (f : Fmt) (rm : Rm) (d : VReg) (a : VReg) (b : VReg) :
    Statement (.vmul c_ f rm d a b) := by
  intro w hw h
  cases h
  rw [decode_word (.inl (by decide))]
  revert hw
  show _ → decValu _ (F0.of (F0.pack _)) = _
  rw [F0.of_pack]
  simp (disch := omega) only [decValu, extract_high, extract_low, extract_all, low_setWidth,
      high_setWidth, toNat_setWidth', Nat.reduceSub, Nat.sub_self]
  simp (disch := omega) [Instr.wf, enc, encOf, opr, opr2, opr3, modW, modWi, lowBit, bit, low_setWidth,
        high_setWidth, toNat_setWidth', extract_high, extract_low, extract_all] <;>
      intros <;> simp_all [rdotActOf_code, wtOf_code, ddotAOf_code, ddotBOf_code]
theorem vfma (c_ : Guard) (f : Fmt) (rm : Rm) (d : VReg) (a : VReg) (b : VReg) (e : VReg) :
    Statement (.vfma c_ f rm d a b e) := by
  intro w hw h
  cases h
  rw [decode_word (.inl (by decide))]
  revert hw
  show _ → decValu _ (F0.of (F0.pack _)) = _
  rw [F0.of_pack]
  simp (disch := omega) only [decValu, extract_high, extract_low, extract_all, low_setWidth,
      high_setWidth, toNat_setWidth', Nat.reduceSub, Nat.sub_self]
  simp (disch := omega) [Instr.wf, enc, encOf, opr, opr2, opr3, modW, modWi, lowBit, bit, low_setWidth,
        high_setWidth, toNat_setWidth', extract_high, extract_low, extract_all] <;>
      intros <;> simp_all [rdotActOf_code, wtOf_code, ddotAOf_code, ddotBOf_code]
theorem vmax (c_ : Guard) (f : Fmt) (d : VReg) (a : VReg) (b : VReg) : Statement (.vmax c_ f d a b) := by
  intro w hw h
  cases h
  rw [decode_word (.inl (by decide))]
  revert hw
  show _ → decValu _ (F0.of (F0.pack _)) = _
  rw [F0.of_pack]
  simp (disch := omega) only [decValu, extract_high, extract_low, extract_all, low_setWidth,
      high_setWidth, toNat_setWidth', Nat.reduceSub, Nat.sub_self]
  simp (disch := omega) [Instr.wf, enc, encOf, opr, opr2, opr3, modW, modWi, lowBit, bit, low_setWidth,
        high_setWidth, toNat_setWidth', extract_high, extract_low, extract_all]
theorem vmin (c_ : Guard) (f : Fmt) (d : VReg) (a : VReg) (b : VReg) : Statement (.vmin c_ f d a b) := by
  intro w hw h
  cases h
  rw [decode_word (.inl (by decide))]
  revert hw
  show _ → decValu _ (F0.of (F0.pack _)) = _
  rw [F0.of_pack]
  simp (disch := omega) only [decValu, extract_high, extract_low, extract_all, low_setWidth,
      high_setWidth, toNat_setWidth', Nat.reduceSub, Nat.sub_self]
  simp (disch := omega) [Instr.wf, enc, encOf, opr, opr2, opr3, modW, modWi, lowBit, bit, low_setWidth,
        high_setWidth, toNat_setWidth', extract_high, extract_low, extract_all]
theorem vabs (c_ : Guard) (f : Fmt) (d : VReg) (a : VReg) : Statement (.vabs c_ f d a) := by
  intro w hw h
  cases h
  rw [decode_word (.inl (by decide))]
  revert hw
  show _ → decValu _ (F0.of (F0.pack _)) = _
  rw [F0.of_pack]
  simp (disch := omega) only [decValu, extract_high, extract_low, extract_all, low_setWidth,
      high_setWidth, toNat_setWidth', Nat.reduceSub, Nat.sub_self]
  simp (disch := omega) [Instr.wf, enc, encOf, opr, opr2, opr3, modW, modWi, lowBit, bit, low_setWidth,
        high_setWidth, toNat_setWidth', extract_high, extract_low, extract_all]
theorem vneg (c_ : Guard) (f : Fmt) (d : VReg) (a : VReg) : Statement (.vneg c_ f d a) := by
  intro w hw h
  cases h
  rw [decode_word (.inl (by decide))]
  revert hw
  show _ → decValu _ (F0.of (F0.pack _)) = _
  rw [F0.of_pack]
  simp (disch := omega) only [decValu, extract_high, extract_low, extract_all, low_setWidth,
      high_setWidth, toNat_setWidth', Nat.reduceSub, Nat.sub_self]
  simp (disch := omega) [Instr.wf, enc, encOf, opr, opr2, opr3, modW, modWi, lowBit, bit, low_setWidth,
        high_setWidth, toNat_setWidth', extract_high, extract_low, extract_all]
theorem vand (c_ : Guard) (f : Fmt) (d : VReg) (a : VReg) (b : VReg) : Statement (.vand c_ f d a b) := by
  intro w hw h
  cases h
  rw [decode_word (.inl (by decide))]
  revert hw
  show _ → decValu _ (F0.of (F0.pack _)) = _
  rw [F0.of_pack]
  simp (disch := omega) only [decValu, extract_high, extract_low, extract_all, low_setWidth,
      high_setWidth, toNat_setWidth', Nat.reduceSub, Nat.sub_self]
  simp (disch := omega) [Instr.wf, enc, encOf, opr, opr2, opr3, modW, modWi, lowBit, bit, low_setWidth,
        high_setWidth, toNat_setWidth', extract_high, extract_low, extract_all]
theorem vor (c_ : Guard) (f : Fmt) (d : VReg) (a : VReg) (b : VReg) : Statement (.vor c_ f d a b) := by
  intro w hw h
  cases h
  rw [decode_word (.inl (by decide))]
  revert hw
  show _ → decValu _ (F0.of (F0.pack _)) = _
  rw [F0.of_pack]
  simp (disch := omega) only [decValu, extract_high, extract_low, extract_all, low_setWidth,
      high_setWidth, toNat_setWidth', Nat.reduceSub, Nat.sub_self]
  simp (disch := omega) [Instr.wf, enc, encOf, opr, opr2, opr3, modW, modWi, lowBit, bit, low_setWidth,
        high_setWidth, toNat_setWidth', extract_high, extract_low, extract_all]
theorem vxor (c_ : Guard) (f : Fmt) (d : VReg) (a : VReg) (b : VReg) : Statement (.vxor c_ f d a b) := by
  intro w hw h
  cases h
  rw [decode_word (.inl (by decide))]
  revert hw
  show _ → decValu _ (F0.of (F0.pack _)) = _
  rw [F0.of_pack]
  simp (disch := omega) only [decValu, extract_high, extract_low, extract_all, low_setWidth,
      high_setWidth, toNat_setWidth', Nat.reduceSub, Nat.sub_self]
  simp (disch := omega) [Instr.wf, enc, encOf, opr, opr2, opr3, modW, modWi, lowBit, bit, low_setWidth,
        high_setWidth, toNat_setWidth', extract_high, extract_low, extract_all]
theorem vcmp (c_ : Guard) (f : Fmt) (k : VCond) (d : VReg) (a : VReg) (b : VReg) :
    Statement (.vcmp c_ f k d a b) := by
  intro w hw h
  cases h
  rw [decode_word (.inl (by decide))]
  revert hw
  show _ → decValu _ (F0.of (F0.pack _)) = _
  rw [F0.of_pack]
  simp (disch := omega) only [decValu, extract_high, extract_low, extract_all, low_setWidth,
      high_setWidth, toNat_setWidth', Nat.reduceSub, Nat.sub_self]
  simp (disch := omega) [Instr.wf, enc, encOf, opr, opr2, opr3, modW, modWi, lowBit, bit, low_setWidth,
        high_setWidth, toNat_setWidth', extract_high, extract_low, extract_all]
theorem vsel (c_ : Guard) (f : Fmt) (d : VReg) (a : VReg) (b : VReg) (m : VReg) :
    Statement (.vsel c_ f d a b m) := by
  intro w hw h
  cases h
  rw [decode_word (.inl (by decide))]
  revert hw
  show _ → decValu _ (F0.of (F0.pack _)) = _
  rw [F0.of_pack]
  simp (disch := omega) only [decValu, extract_high, extract_low, extract_all, low_setWidth,
      high_setWidth, toNat_setWidth', Nat.reduceSub, Nat.sub_self]
  simp (disch := omega) [Instr.wf, enc, encOf, opr, opr2, opr3, modW, modWi, lowBit, bit, low_setWidth,
        high_setWidth, toNat_setWidth', extract_high, extract_low, extract_all]
theorem vmov (c_ : Guard) (d : VReg) (a : VReg) : Statement (.vmov c_ d a) := by
  intro w hw h
  cases h
  rw [decode_word (.inl (by decide))]
  revert hw
  show _ → decValu _ (F0.of (F0.pack _)) = _
  rw [F0.of_pack]
  simp (disch := omega) only [decValu, extract_high, extract_low, extract_all, low_setWidth,
      high_setWidth, toNat_setWidth', Nat.reduceSub, Nat.sub_self]
  simp (disch := omega) [Instr.wf, enc, encOf, opr, opr2, opr3, modW, modWi, lowBit, bit, low_setWidth,
        high_setWidth, toNat_setWidth', extract_high, extract_low, extract_all]
theorem vbcast (c_ : Guard) (f : Fmt) (d : VReg) (a : GReg) : Statement (.vbcast c_ f d a) := by
  intro w hw h
  cases h
  rw [decode_word (.inl (by decide))]
  revert hw
  show _ → decValu _ (F0.of (F0.pack _)) = _
  rw [F0.of_pack]
  simp (disch := omega) only [decValu, extract_high, extract_low, extract_all, low_setWidth,
      high_setWidth, toNat_setWidth', Nat.reduceSub, Nat.sub_self]
  simp (disch := omega) [Instr.wf, enc, encOf, opr, opr2, opr3, modW, modWi, lowBit, bit, low_setWidth,
        high_setWidth, toNat_setWidth', extract_high, extract_low, extract_all]
theorem vext (c_ : Guard) (d : GReg) (a : VReg) (lane : BitVec 4) : Statement (.vext c_ d a lane) := by
  intro w hw h
  cases h
  rw [decode_word (.inl (by decide))]
  revert hw
  show _ → decValu _ (F0.of (F0.pack _)) = _
  rw [F0.of_pack]
  simp (disch := omega) only [decValu, extract_high, extract_low, extract_all, low_setWidth,
      high_setWidth, toNat_setWidth', Nat.reduceSub, Nat.sub_self]
  simp (disch := omega) [Instr.wf, enc, encOf, opr, opr2, opr3, modW, modWi, lowBit, bit, low_setWidth,
        high_setWidth, toNat_setWidth', extract_high, extract_low, extract_all]
theorem vmask (c_ : Guard) (f : Fmt) (d : VReg) (a : VReg) (b : GReg) : Statement (.vmask c_ f d a b) := by
  intro w hw h
  cases h
  rw [decode_word (.inl (by decide))]
  revert hw
  show _ → decValu _ (F0.of (F0.pack _)) = _
  rw [F0.of_pack]
  simp (disch := omega) only [decValu, extract_high, extract_low, extract_all, low_setWidth,
      high_setWidth, toNat_setWidth', Nat.reduceSub, Nat.sub_self]
  simp (disch := omega) [Instr.wf, enc, encOf, opr, opr2, opr3, modW, modWi, lowBit, bit, low_setWidth,
        high_setWidth, toNat_setWidth', extract_high, extract_low, extract_all]
theorem vexp2 (c_ : Guard) (f : Fmt) (d : VReg) (a : VReg) : Statement (.vexp2 c_ f d a) := by
  intro w hw h
  cases h
  rw [decode_word (.inl (by decide))]
  revert hw
  show _ → decVsfu _ (F0.of (F0.pack _)) = _
  rw [F0.of_pack]
  simp (disch := omega) only [decVsfu, extract_high, extract_low, extract_all, low_setWidth,
      high_setWidth, toNat_setWidth', Nat.reduceSub, Nat.sub_self]
  simp (disch := omega) [Instr.wf, enc, encOf, opr, opr2, opr3, modW, modWi, lowBit, bit, low_setWidth,
        high_setWidth, toNat_setWidth', extract_high, extract_low, extract_all]
theorem vlog2 (c_ : Guard) (f : Fmt) (d : VReg) (a : VReg) : Statement (.vlog2 c_ f d a) := by
  intro w hw h
  cases h
  rw [decode_word (.inl (by decide))]
  revert hw
  show _ → decVsfu _ (F0.of (F0.pack _)) = _
  rw [F0.of_pack]
  simp (disch := omega) only [decVsfu, extract_high, extract_low, extract_all, low_setWidth,
      high_setWidth, toNat_setWidth', Nat.reduceSub, Nat.sub_self]
  simp (disch := omega) [Instr.wf, enc, encOf, opr, opr2, opr3, modW, modWi, lowBit, bit, low_setWidth,
        high_setWidth, toNat_setWidth', extract_high, extract_low, extract_all]
theorem vrcp (c_ : Guard) (f : Fmt) (d : VReg) (a : VReg) : Statement (.vrcp c_ f d a) := by
  intro w hw h
  cases h
  rw [decode_word (.inl (by decide))]
  revert hw
  show _ → decVsfu _ (F0.of (F0.pack _)) = _
  rw [F0.of_pack]
  simp (disch := omega) only [decVsfu, extract_high, extract_low, extract_all, low_setWidth,
      high_setWidth, toNat_setWidth', Nat.reduceSub, Nat.sub_self]
  simp (disch := omega) [Instr.wf, enc, encOf, opr, opr2, opr3, modW, modWi, lowBit, bit, low_setWidth,
        high_setWidth, toNat_setWidth', extract_high, extract_low, extract_all]
theorem vrsq (c_ : Guard) (f : Fmt) (d : VReg) (a : VReg) : Statement (.vrsq c_ f d a) := by
  intro w hw h
  cases h
  rw [decode_word (.inl (by decide))]
  revert hw
  show _ → decVsfu _ (F0.of (F0.pack _)) = _
  rw [F0.of_pack]
  simp (disch := omega) only [decVsfu, extract_high, extract_low, extract_all, low_setWidth,
      high_setWidth, toNat_setWidth', Nat.reduceSub, Nat.sub_self]
  simp (disch := omega) [Instr.wf, enc, encOf, opr, opr2, opr3, modW, modWi, lowBit, bit, low_setWidth,
        high_setWidth, toNat_setWidth', extract_high, extract_low, extract_all]
theorem vcvt (c_ : Guard) (f : Fmt) (sat : Bool) (as : Bool) (rm : Rm) (d : VReg) (a : VReg) :
    Statement (.vcvt c_ f sat as rm d a) := by
  intro w hw h
  cases h
  rw [decode_word (.inl (by decide))]
  revert hw
  show _ → decVcvt _ (F0.of (F0.pack _)) = _
  rw [F0.of_pack]
  simp (disch := omega) only [decVcvt, extract_high, extract_low, extract_all, low_setWidth,
      high_setWidth, toNat_setWidth', Nat.reduceSub, Nat.sub_self]
  cases sat <;> cases as <;>
      simp (disch := omega) [Instr.wf, enc, encOf, opr, opr2, opr3, modW, modWi, lowBit, bit, low_setWidth,
        high_setWidth, toNat_setWidth', extract_high, extract_low, extract_all]
theorem vqnt (c_ : Guard) (f : Fmt) (rm : Rm) (d : VReg) (a : VReg) (b : VReg) :
    Statement (.vqnt c_ f rm d a b) := by
  intro w hw h
  cases h
  rw [decode_word (.inl (by decide))]
  revert hw
  show _ → decVcvt _ (F0.of (F0.pack _)) = _
  rw [F0.of_pack]
  simp (disch := omega) only [decVcvt, extract_high, extract_low, extract_all, low_setWidth,
      high_setWidth, toNat_setWidth', Nat.reduceSub, Nat.sub_self]
  simp (disch := omega) [Instr.wf, enc, encOf, opr, opr2, opr3, modW, modWi, lowBit, bit, low_setWidth,
        high_setWidth, toNat_setWidth', extract_high, extract_low, extract_all]
theorem vdq (c_ : Guard) (f : Fmt) (sat : Bool) (rm : Rm) (d : VReg) (a : VReg) (b : VReg) :
    Statement (.vdq c_ f sat rm d a b) := by
  intro w hw h
  cases h
  rw [decode_word (.inl (by decide))]
  revert hw
  show _ → decVcvt _ (F0.of (F0.pack _)) = _
  rw [F0.of_pack]
  simp (disch := omega) only [decVcvt, extract_high, extract_low, extract_all, low_setWidth,
      high_setWidth, toNat_setWidth', Nat.reduceSub, Nat.sub_self]
  cases sat <;>
      simp (disch := omega) [Instr.wf, enc, encOf, opr, opr2, opr3, modW, modWi, lowBit, bit, low_setWidth,
        high_setWidth, toNat_setWidth', extract_high, extract_low, extract_all]
theorem vscl (c_ : Guard) (f : Fmt) (fp32 : Bool) (d : VReg) (a : VReg) : Statement (.vscl c_ f fp32 d a) := by
  intro w hw h
  cases h
  rw [decode_word (.inl (by decide))]
  revert hw
  show _ → decVcvt _ (F0.of (F0.pack _)) = _
  rw [F0.of_pack]
  simp (disch := omega) only [decVcvt, extract_high, extract_low, extract_all, low_setWidth,
      high_setWidth, toNat_setWidth', Nat.reduceSub, Nat.sub_self]
  cases fp32 <;>
      simp (disch := omega) [Instr.wf, enc, encOf, opr, opr2, opr3, modW, modWi, lowBit, bit, low_setWidth,
        high_setWidth, toNat_setWidth', extract_high, extract_low, extract_all]
theorem vld (c_ : Guard) (f : Fmt) (o : Ord) (sp : Scope) (t : VReg) (base : GReg) (idx : GReg) (off : BitVec 22) :
    Statement (.vld c_ f o sp t base idx off) := by
  intro w hw h
  cases h
  rw [decode_word (.inl (by decide))]
  revert hw
  show _ → decVmem _ (F2.of (F2.pack _)) = _
  rw [F2.of_pack]
  simp (disch := omega) only [decVmem, ordOf, extract_high, extract_low, extract_all, low_setWidth,
      high_setWidth, toNat_setWidth', Nat.reduceSub, Nat.sub_self]
  simp (disch := omega) [Instr.wf, enc, encOf, opr, opr2, opr3, modW, modWi, lowBit, bit, low_setWidth,
        high_setWidth, toNat_setWidth', extract_high, extract_low, extract_all] <;>
      intros <;> simp_all [rdotActOf_code, wtOf_code, ddotAOf_code, ddotBOf_code]
theorem vst (c_ : Guard) (f : Fmt) (o : Ord) (sp : Scope) (t : VReg) (base : GReg) (idx : GReg) (off : BitVec 22) :
    Statement (.vst c_ f o sp t base idx off) := by
  intro w hw h
  cases h
  rw [decode_word (.inl (by decide))]
  revert hw
  show _ → decVmem _ (F2.of (F2.pack _)) = _
  rw [F2.of_pack]
  simp (disch := omega) only [decVmem, ordOf, extract_high, extract_low, extract_all, low_setWidth,
      high_setWidth, toNat_setWidth', Nat.reduceSub, Nat.sub_self]
  simp (disch := omega) [Instr.wf, enc, encOf, opr, opr2, opr3, modW, modWi, lowBit, bit, low_setWidth,
        high_setWidth, toNat_setWidth', extract_high, extract_low, extract_all] <;>
      intros <;> simp_all [rdotActOf_code, wtOf_code, ddotAOf_code, ddotBOf_code]
theorem vldx (c_ : Guard) (f : Fmt) (o : Ord) (sp : Scope) (t : VReg) (base : GReg) (idx : VReg) (off : BitVec 22) :
    Statement (.vldx c_ f o sp t base idx off) := by
  intro w hw h
  cases h
  rw [decode_word (.inl (by decide))]
  revert hw
  show _ → decVmem _ (F2.of (F2.pack _)) = _
  rw [F2.of_pack]
  simp (disch := omega) only [decVmem, ordOf, extract_high, extract_low, extract_all, low_setWidth,
      high_setWidth, toNat_setWidth', Nat.reduceSub, Nat.sub_self]
  simp (disch := omega) [Instr.wf, enc, encOf, opr, opr2, opr3, modW, modWi, lowBit, bit, low_setWidth,
        high_setWidth, toNat_setWidth', extract_high, extract_low, extract_all] <;>
      intros <;> simp_all [rdotActOf_code, wtOf_code, ddotAOf_code, ddotBOf_code]
theorem vstx (c_ : Guard) (f : Fmt) (o : Ord) (sp : Scope) (t : VReg) (base : GReg) (idx : VReg) (off : BitVec 22) :
    Statement (.vstx c_ f o sp t base idx off) := by
  intro w hw h
  cases h
  rw [decode_word (.inl (by decide))]
  revert hw
  show _ → decVmem _ (F2.of (F2.pack _)) = _
  rw [F2.of_pack]
  simp (disch := omega) only [decVmem, ordOf, extract_high, extract_low, extract_all, low_setWidth,
      high_setWidth, toNat_setWidth', Nat.reduceSub, Nat.sub_self]
  simp (disch := omega) [Instr.wf, enc, encOf, opr, opr2, opr3, modW, modWi, lowBit, bit, low_setWidth,
        high_setWidth, toNat_setWidth', extract_high, extract_low, extract_all] <;>
      intros <;> simp_all [rdotActOf_code, wtOf_code, ddotAOf_code, ddotBOf_code]
theorem vldz (c_ : Guard) (f : Fmt) (o : Ord) (sp : Scope) (t : VReg) (base : GReg) (idx : GReg) (off : BitVec 22) :
    Statement (.vldz c_ f o sp t base idx off) := by
  intro w hw h
  cases h
  rw [decode_word (.inl (by decide))]
  revert hw
  show _ → decVmem _ (F2.of (F2.pack _)) = _
  rw [F2.of_pack]
  simp (disch := omega) only [decVmem, ordOf, extract_high, extract_low, extract_all, low_setWidth,
      high_setWidth, toNat_setWidth', Nat.reduceSub, Nat.sub_self]
  simp (disch := omega) [Instr.wf, enc, encOf, opr, opr2, opr3, modW, modWi, lowBit, bit, low_setWidth,
        high_setWidth, toNat_setWidth', extract_high, extract_low, extract_all] <;>
      intros <;> simp_all [rdotActOf_code, wtOf_code, ddotAOf_code, ddotBOf_code]
theorem vstz (c_ : Guard) (f : Fmt) (o : Ord) (sp : Scope) (t : VReg) (base : GReg) (idx : GReg) (off : BitVec 22) :
    Statement (.vstz c_ f o sp t base idx off) := by
  intro w hw h
  cases h
  rw [decode_word (.inl (by decide))]
  revert hw
  show _ → decVmem _ (F2.of (F2.pack _)) = _
  rw [F2.of_pack]
  simp (disch := omega) only [decVmem, ordOf, extract_high, extract_low, extract_all, low_setWidth,
      high_setWidth, toNat_setWidth', Nat.reduceSub, Nat.sub_self]
  simp (disch := omega) [Instr.wf, enc, encOf, opr, opr2, opr3, modW, modWi, lowBit, bit, low_setWidth,
        high_setWidth, toNat_setWidth', extract_high, extract_low, extract_all] <;>
      intros <;> simp_all [rdotActOf_code, wtOf_code, ddotAOf_code, ddotBOf_code]
theorem vperm (c_ : Guard) (d : VReg) (a : VReg) (b : VReg) : Statement (.vperm c_ d a b) := by
  intro w hw h
  cases h
  rw [decode_word (.inl (by decide))]
  revert hw
  show _ → decVlane _ (F0.of (F0.pack _)) = _
  rw [F0.of_pack]
  simp (disch := omega) only [decVlane, extract_high, extract_low, extract_all, low_setWidth,
      high_setWidth, toNat_setWidth', Nat.reduceSub, Nat.sub_self]
  simp (disch := omega) [Instr.wf, enc, encOf, opr, opr2, opr3, modW, modWi, lowBit, bit, low_setWidth,
        high_setWidth, toNat_setWidth', extract_high, extract_low, extract_all]
theorem vscan (c_ : Guard) (f : Fmt) (op : RedOp) (excl : Bool) (rm : Rm) (d : VReg) (a : VReg) :
    Statement (.vscan c_ f op excl rm d a) := by
  intro w hw h
  cases h
  rw [decode_word (.inl (by decide))]
  revert hw
  show _ → decVlane _ (F0.of (F0.pack _)) = _
  rw [F0.of_pack]
  simp (disch := omega) only [decVlane, extract_high, extract_low, extract_all, low_setWidth,
      high_setWidth, toNat_setWidth', Nat.reduceSub, Nat.sub_self]
  cases excl <;>
      simp (disch := omega) [Instr.wf, enc, encOf, opr, opr2, opr3, modW, modWi, lowBit, bit, low_setWidth,
        high_setWidth, toNat_setWidth', extract_high, extract_low, extract_all] <;>
      intros <;> simp_all [rdotActOf_code, wtOf_code, ddotAOf_code, ddotBOf_code]
theorem vred (c_ : Guard) (f : Fmt) (op : RedOp) (rm : Rm) (d : VReg) (a : VReg) :
    Statement (.vred c_ f op rm d a) := by
  intro w hw h
  cases h
  rw [decode_word (.inl (by decide))]
  revert hw
  show _ → decVlane _ (F0.of (F0.pack _)) = _
  rw [F0.of_pack]
  simp (disch := omega) only [decVlane, extract_high, extract_low, extract_all, low_setWidth,
      high_setWidth, toNat_setWidth', Nat.reduceSub, Nat.sub_self]
  simp (disch := omega) [Instr.wf, enc, encOf, opr, opr2, opr3, modW, modWi, lowBit, bit, low_setWidth,
        high_setWidth, toNat_setWidth', extract_high, extract_low, extract_all] <;>
      intros <;> simp_all [rdotActOf_code, wtOf_code, ddotAOf_code, ddotBOf_code]
theorem vcomp (c_ : Guard) (d : VReg) (a : VReg) : Statement (.vcomp c_ d a) := by
  intro w hw h
  cases h
  rw [decode_word (.inl (by decide))]
  revert hw
  show _ → decVlane _ (F0.of (F0.pack _)) = _
  rw [F0.of_pack]
  simp (disch := omega) only [decVlane, extract_high, extract_low, extract_all, low_setWidth,
      high_setWidth, toNat_setWidth', Nat.reduceSub, Nat.sub_self]
  simp (disch := omega) [Instr.wf, enc, encOf, opr, opr2, opr3, modW, modWi, lowBit, bit, low_setWidth,
        high_setWidth, toNat_setWidth', extract_high, extract_low, extract_all]
theorem vxpnd (c_ : Guard) (d : VReg) (a : VReg) (b : VReg) : Statement (.vxpnd c_ d a b) := by
  intro w hw h
  cases h
  rw [decode_word (.inl (by decide))]
  revert hw
  show _ → decVlane _ (F0.of (F0.pack _)) = _
  rw [F0.of_pack]
  simp (disch := omega) only [decVlane, extract_high, extract_low, extract_all, low_setWidth,
      high_setWidth, toNat_setWidth', Nat.reduceSub, Nat.sub_self]
  simp (disch := omega) [Instr.wf, enc, encOf, opr, opr2, opr3, modW, modWi, lowBit, bit, low_setWidth,
        high_setWidth, toNat_setWidth', extract_high, extract_low, extract_all]
theorem vunpk (c_ : Guard) (f : Fmt) (part : BitVec 3) (d : VReg) (a : VReg) : Statement (.vunpk c_ f part d a) := by
  intro w hw h
  cases h
  rw [decode_word (.inl (by decide))]
  revert hw
  show _ → decVlane _ (F0.of (F0.pack _)) = _
  rw [F0.of_pack]
  simp (disch := omega) only [decVlane, extract_high, extract_low, extract_all, low_setWidth,
      high_setWidth, toNat_setWidth', Nat.reduceSub, Nat.sub_self]
  simp (disch := omega) [Instr.wf, enc, encOf, opr, opr2, opr3, modW, modWi, lowBit, bit, low_setWidth,
        high_setWidth, toNat_setWidth', extract_high, extract_low, extract_all] <;>
      intros <;> simp_all [rdotActOf_code, wtOf_code, ddotAOf_code, ddotBOf_code]
theorem vpack (c_ : Guard) (f : Fmt) (part : BitVec 3) (d : VReg) (a : VReg) : Statement (.vpack c_ f part d a) := by
  intro w hw h
  cases h
  rw [decode_word (.inl (by decide))]
  revert hw
  show _ → decVlane _ (F0.of (F0.pack _)) = _
  rw [F0.of_pack]
  simp (disch := omega) only [decVlane, extract_high, extract_low, extract_all, low_setWidth,
      high_setWidth, toNat_setWidth', Nat.reduceSub, Nat.sub_self]
  simp (disch := omega) [Instr.wf, enc, encOf, opr, opr2, opr3, modW, modWi, lowBit, bit, low_setWidth,
        high_setWidth, toNat_setWidth', extract_high, extract_low, extract_all] <;>
      intros <;> simp_all [rdotActOf_code, wtOf_code, ddotAOf_code, ddotBOf_code]
theorem vrank (c_ : Guard) (f : Fmt) (desc : Bool) (d : VReg) (a : VReg) : Statement (.vrank c_ f desc d a) := by
  intro w hw h
  cases h
  rw [decode_word (.inl (by decide))]
  revert hw
  show _ → decVlane _ (F0.of (F0.pack _)) = _
  rw [F0.of_pack]
  simp (disch := omega) only [decVlane, extract_high, extract_low, extract_all, low_setWidth,
      high_setWidth, toNat_setWidth', Nat.reduceSub, Nat.sub_self]
  cases desc <;>
      simp (disch := omega) [Instr.wf, enc, encOf, opr, opr2, opr3, modW, modWi, lowBit, bit, low_setWidth,
        high_setWidth, toNat_setWidth', extract_high, extract_low, extract_all]
theorem vtab (c_ : Guard) (tb : Bool) (d : VReg) (a : VReg) : Statement (.vtab c_ tb d a) := by
  intro w hw h
  cases h
  rw [decode_word (.inl (by decide))]
  revert hw
  show _ → decVlane _ (F0.of (F0.pack _)) = _
  rw [F0.of_pack]
  simp (disch := omega) only [decVlane, extract_high, extract_low, extract_all, low_setWidth,
      high_setWidth, toNat_setWidth', Nat.reduceSub, Nat.sub_self]
  cases tb <;>
      simp (disch := omega) [Instr.wf, enc, encOf, opr, opr2, opr3, modW, modWi, lowBit, bit, low_setWidth,
        high_setWidth, toNat_setWidth', extract_high, extract_low, extract_all]
theorem vcnt (c_ : Guard) (d : GReg) (a : VReg) : Statement (.vcnt c_ d a) := by
  intro w hw h
  cases h
  rw [decode_word (.inl (by decide))]
  revert hw
  show _ → decVlane _ (F0.of (F0.pack _)) = _
  rw [F0.of_pack]
  simp (disch := omega) only [decVlane, extract_high, extract_low, extract_all, low_setWidth,
      high_setWidth, toNat_setWidth', Nat.reduceSub, Nat.sub_self]
  simp (disch := omega) [Instr.wf, enc, encOf, opr, opr2, opr3, modW, modWi, lowBit, bit, low_setWidth,
        high_setWidth, toNat_setWidth', extract_high, extract_low, extract_all]
theorem vpop (c_ : Guard) (d : VG) (port : Fin 8) : Statement (.vpop c_ d port) := by
  intro w hw h
  rcases d with d | d
  all_goals
    cases h
    rw [decode_word (.inl (by decide))]
    revert hw
    show _ → decPort _ (F7.of (F7.pack _)) = _
    rw [F7.of_pack]
    simp (disch := omega) only [decPort, extract_high, extract_low, extract_all, low_setWidth,
        high_setWidth, toNat_setWidth', Nat.reduceSub, Nat.sub_self]
    simp (disch := omega) [Instr.wf, enc, encOf, opr, opr2, opr3, modW, modWi, lowBit, bit, low_setWidth,
          high_setWidth, toNat_setWidth', extract_high, extract_low, extract_all]
theorem vpush (c_ : Guard) (s : VG) (lr : Bool) (ls : Bool) (port : Fin 8) : Statement (.vpush c_ s lr ls port) := by
  intro w hw h
  rcases s with s | s
  all_goals
    cases h
    rw [decode_word (.inl (by decide))]
    revert hw
    show _ → decPort _ (F7.of (F7.pack _)) = _
    rw [F7.of_pack]
    simp (disch := omega) only [decPort, extract_high, extract_low, extract_all, low_setWidth,
        high_setWidth, toNat_setWidth', Nat.reduceSub, Nat.sub_self]
    cases lr <;> cases ls <;>
        simp (disch := omega) [Instr.wf, enc, encOf, opr, opr2, opr3, modW, modWi, lowBit, bit, low_setWidth,
          high_setWidth, toNat_setWidth', extract_high, extract_low, extract_all]
theorem parw (c_ : Guard) (d : GReg) (a : GReg) : Statement (.parw c_ d a) := by
  intro w hw h
  cases h
  rw [decode_word (.inl (by decide))]
  revert hw
  show _ → decPort _ (F7.of (F7.pack _)) = _
  rw [F7.of_pack]
  simp (disch := omega) only [decPort, extract_high, extract_low, extract_all, low_setWidth,
      high_setWidth, toNat_setWidth', Nat.reduceSub, Nat.sub_self]
  simp (disch := omega) [Instr.wf, enc, encOf, opr, opr2, opr3, modW, modWi, lowBit, bit, low_setWidth,
        high_setWidth, toNat_setWidth', extract_high, extract_low, extract_all]
theorem parwDef (c_ : Guard) (d : GReg) (a : GReg) : Statement (.parwDef c_ d a) := by
  intro w hw h
  cases h
  rw [decode_word (.inl (by decide))]
  revert hw
  show _ → decPort _ (F7.of (F7.pack _)) = _
  rw [F7.of_pack]
  simp (disch := omega) only [decPort, extract_high, extract_low, extract_all, low_setWidth,
      high_setWidth, toNat_setWidth', Nat.reduceSub, Nat.sub_self]
  simp (disch := omega) [Instr.wf, enc, encOf, opr, opr2, opr3, modW, modWi, lowBit, bit, low_setWidth,
        high_setWidth, toNat_setWidth', extract_high, extract_low, extract_all]
theorem parr (c_ : Guard) (d : GReg) (a : GReg) : Statement (.parr c_ d a) := by
  intro w hw h
  cases h
  rw [decode_word (.inl (by decide))]
  revert hw
  show _ → decPort _ (F7.of (F7.pack _)) = _
  rw [F7.of_pack]
  simp (disch := omega) only [decPort, extract_high, extract_low, extract_all, low_setWidth,
      high_setWidth, toNat_setWidth', Nat.reduceSub, Nat.sub_self]
  simp (disch := omega) [Instr.wf, enc, encOf, opr, opr2, opr3, modW, modWi, lowBit, bit, low_setWidth,
        high_setWidth, toNat_setWidth', extract_high, extract_low, extract_all]
theorem cfg (c_ : Guard) (a : GReg) : Statement (.cfg c_ a) := by
  intro w hw h
  cases h
  rw [decode_word (.inl (by decide))]
  revert hw
  show _ → decFab _ (F7.of (F7.pack _)) = _
  rw [F7.of_pack]
  simp (disch := omega) only [decFab, extract_high, extract_low, extract_all, low_setWidth,
      high_setWidth, toNat_setWidth', Nat.reduceSub, Nat.sub_self]
  simp (disch := omega) [Instr.wf, enc, encOf, opr, opr2, opr3, modW, modWi, lowBit, bit, low_setWidth,
        high_setWidth, toNat_setWidth', extract_high, extract_low, extract_all]
theorem cfgInstall (r : Nat) : Statement (.cfgInstall r) := by
  intro w _ h; cases h
theorem qwait (c_ : Guard) (d : GReg) : Statement (.qwait c_ d) := by
  intro w hw h
  cases h
  rw [decode_word (.inl (by decide))]
  revert hw
  show _ → decFab _ (F7.of (F7.pack _)) = _
  rw [F7.of_pack]
  simp (disch := omega) only [decFab, extract_high, extract_low, extract_all, low_setWidth,
      high_setWidth, toNat_setWidth', Nat.reduceSub, Nat.sub_self]
  simp (disch := omega) [Instr.wf, enc, encOf, opr, opr2, opr3, modW, modWi, lowBit, bit, low_setWidth,
        high_setWidth, toNat_setWidth', extract_high, extract_low, extract_all]
theorem qwaitW (c_ : Guard) (d : GReg) : Statement (.qwaitW c_ d) := by
  intro w hw h
  cases h
  rw [decode_word (.inl (by decide))]
  revert hw
  show _ → decFab _ (F7.of (F7.pack _)) = _
  rw [F7.of_pack]
  simp (disch := omega) only [decFab, extract_high, extract_low, extract_all, low_setWidth,
      high_setWidth, toNat_setWidth', Nat.reduceSub, Nat.sub_self]
  simp (disch := omega) [Instr.wf, enc, encOf, opr, opr2, opr3, modW, modWi, lowBit, bit, low_setWidth,
        high_setWidth, toNat_setWidth', extract_high, extract_low, extract_all]
theorem drain (c_ : Guard) (d : GReg) (port : Fin 8) : Statement (.drain c_ d port) := by
  intro w hw h
  cases h
  rw [decode_word (.inl (by decide))]
  revert hw
  show _ → decFab _ (F7.of (F7.pack _)) = _
  rw [F7.of_pack]
  simp (disch := omega) only [decFab, extract_high, extract_low, extract_all, low_setWidth,
      high_setWidth, toNat_setWidth', Nat.reduceSub, Nat.sub_self]
  simp (disch := omega) [Instr.wf, enc, encOf, opr, opr2, opr3, modW, modWi, lowBit, bit, low_setWidth,
        high_setWidth, toNat_setWidth', extract_high, extract_low, extract_all]
theorem mark (c_ : Guard) (port : Fin 8) : Statement (.mark c_ port) := by
  intro w hw h
  cases h
  rw [decode_word (.inl (by decide))]
  revert hw
  show _ → decFab _ (F7.of (F7.pack _)) = _
  rw [F7.of_pack]
  simp (disch := omega) only [decFab, extract_high, extract_low, extract_all, low_setWidth,
      high_setWidth, toNat_setWidth', Nat.reduceSub, Nat.sub_self]
  simp (disch := omega) [Instr.wf, enc, encOf, opr, opr2, opr3, modW, modWi, lowBit, bit, low_setWidth,
        high_setWidth, toNat_setWidth', extract_high, extract_low, extract_all]
theorem kill (c_ : Guard) (d : GReg) (a : GReg) : Statement (.kill c_ d a) := by
  intro w hw h
  cases h
  rw [decode_word (.inl (by decide))]
  revert hw
  show _ → decFab _ (F7.of (F7.pack _)) = _
  rw [F7.of_pack]
  simp (disch := omega) only [decFab, extract_high, extract_low, extract_all, low_setWidth,
      high_setWidth, toNat_setWidth', Nat.reduceSub, Nat.sub_self]
  simp (disch := omega) [Instr.wf, enc, encOf, opr, opr2, opr3, modW, modWi, lowBit, bit, low_setWidth,
        high_setWidth, toNat_setWidth', extract_high, extract_low, extract_all]
theorem thrd (c_ : Guard) (d : GReg) : Statement (.thrd c_ d) := by
  intro w hw h
  cases h
  rw [decode_word (.inl (by decide))]
  revert hw
  show _ → decFab _ (F7.of (F7.pack _)) = _
  rw [F7.of_pack]
  simp (disch := omega) only [decFab, extract_high, extract_low, extract_all, low_setWidth,
      high_setWidth, toNat_setWidth', Nat.reduceSub, Nat.sub_self]
  simp (disch := omega) [Instr.wf, enc, encOf, opr, opr2, opr3, modW, modWi, lowBit, bit, low_setWidth,
        high_setWidth, toNat_setWidth', extract_high, extract_low, extract_all]
theorem thrdK (c_ : Guard) (d : GReg) : Statement (.thrdK c_ d) := by
  intro w hw h
  cases h
  rw [decode_word (.inl (by decide))]
  revert hw
  show _ → decFab _ (F7.of (F7.pack _)) = _
  rw [F7.of_pack]
  simp (disch := omega) only [decFab, extract_high, extract_low, extract_all, low_setWidth,
      high_setWidth, toNat_setWidth', Nat.reduceSub, Nat.sub_self]
  simp (disch := omega) [Instr.wf, enc, encOf, opr, opr2, opr3, modW, modWi, lowBit, bit, low_setWidth,
        high_setWidth, toNat_setWidth', extract_high, extract_low, extract_all]
theorem rdot (c_ : Guard) (act : Fmt) (wt : Fmt) (acc : Bool) (i32 : Bool) (pt : Bool) (ad : AReg) (a : GReg) (b : GReg) (s : GReg) (e : GReg) :
    Statement (.rdot c_ act wt acc i32 pt ad a b s e) := by
  intro w hw h
  cases h
  rw [decode_word (.inl (by decide))]
  revert hw
  show _ → decTile _ (F5.of (F5.pack _)) = _
  rw [F5.of_pack]
  simp (disch := omega) only [decTile, extract_high, extract_low, extract_all, low_setWidth,
      high_setWidth, toNat_setWidth', Nat.reduceSub, Nat.sub_self]
  cases acc <;> cases i32 <;> cases pt <;>
      simp (disch := omega) [Instr.wf, enc, encOf, opr, opr2, opr3, modW, modWi, lowBit, bit, low_setWidth,
        high_setWidth, toNat_setWidth', extract_high, extract_low, extract_all] <;>
      intros <;> simp_all [rdotActOf_code, wtOf_code, ddotAOf_code, ddotBOf_code]
theorem ddot (c_ : Guard) (fa : Fmt) (fb : Fmt) (acc : Bool) (sp : Sparsity) (mx : Bool) (ad : AReg) (a : GReg) (b : GReg) (s : GReg) (e : GReg) :
    Statement (.ddot c_ fa fb acc sp mx ad a b s e) := by
  intro w hw h
  cases h
  rw [decode_word (.inl (by decide))]
  revert hw
  show _ → decTile _ (F5.of (F5.pack _)) = _
  rw [F5.of_pack]
  simp (disch := omega) only [decTile, extract_high, extract_low, extract_all, low_setWidth,
      high_setWidth, toNat_setWidth', Nat.reduceSub, Nat.sub_self]
  cases acc <;> cases mx <;>
      simp (disch := omega) [Instr.wf, enc, encOf, opr, opr2, opr3, modW, modWi, lowBit, bit, low_setWidth,
        high_setWidth, toNat_setWidth', extract_high, extract_low, extract_all] <;>
      intros <;> simp_all [rdotActOf_code, wtOf_code, ddotAOf_code, ddotBOf_code]
theorem macroStepResult (t : Nat) : Statement (.macroStepResult t) := by
  intro w _ h; cases h
theorem rank (c_ : Guard) (wt : Fmt) (b : GReg) (e : GReg) : Statement (.rank c_ wt b e) := by
  intro w hw h
  cases h
  rw [decode_word (.inl (by decide))]
  revert hw
  show _ → decTile _ (F5.of (F5.pack _)) = _
  rw [F5.of_pack]
  simp (disch := omega) only [decTile, extract_high, extract_low, extract_all, low_setWidth,
      high_setWidth, toNat_setWidth', Nat.reduceSub, Nat.sub_self]
  simp (disch := omega) [Instr.wf, enc, encOf, opr, opr2, opr3, modW, modWi, lowBit, bit, low_setWidth,
        high_setWidth, toNat_setWidth', extract_high, extract_low, extract_all] <;>
      intros <;> simp_all [rdotActOf_code, wtOf_code, ddotAOf_code, ddotBOf_code]
theorem aclr (c_ : Guard) (ad : AReg) : Statement (.aclr c_ ad) := by
  intro w hw h
  cases h
  rw [decode_word (.inl (by decide))]
  revert hw
  show _ → decTile _ (F5.of (F5.pack _)) = _
  rw [F5.of_pack]
  simp (disch := omega) only [decTile, extract_high, extract_low, extract_all, low_setWidth,
      high_setWidth, toNat_setWidth', Nat.reduceSub, Nat.sub_self]
  simp (disch := omega) [Instr.wf, enc, encOf, opr, opr2, opr3, modW, modWi, lowBit, bit, low_setWidth,
        high_setWidth, toNat_setWidth', extract_high, extract_low, extract_all]
theorem ald (c_ : Guard) (ad : AReg) (a : GReg) (e : GReg) : Statement (.ald c_ ad a e) := by
  intro w hw h
  cases h
  rw [decode_word (.inl (by decide))]
  revert hw
  show _ → decTile _ (F5.of (F5.pack _)) = _
  rw [F5.of_pack]
  simp (disch := omega) only [decTile, extract_high, extract_low, extract_all, low_setWidth,
      high_setWidth, toNat_setWidth', Nat.reduceSub, Nat.sub_self]
  simp (disch := omega) [Instr.wf, enc, encOf, opr, opr2, opr3, modW, modWi, lowBit, bit, low_setWidth,
        high_setWidth, toNat_setWidth', extract_high, extract_low, extract_all]
theorem ast (c_ : Guard) (ad : AReg) (a : GReg) (e : GReg) : Statement (.ast c_ ad a e) := by
  intro w hw h
  cases h
  rw [decode_word (.inl (by decide))]
  revert hw
  show _ → decTile _ (F5.of (F5.pack _)) = _
  rw [F5.of_pack]
  simp (disch := omega) only [decTile, extract_high, extract_low, extract_all, low_setWidth,
      high_setWidth, toNat_setWidth', Nat.reduceSub, Nat.sub_self]
  simp (disch := omega) [Instr.wf, enc, encOf, opr, opr2, opr3, modW, modWi, lowBit, bit, low_setWidth,
        high_setWidth, toNat_setWidth', extract_high, extract_low, extract_all]
theorem tpred (c_ : Guard) (f : Fmt) (pd : PReg) (a : GReg) (e : GReg) : Statement (.tpred c_ f pd a e) := by
  intro w hw h
  cases h
  rw [decode_word (.inl (by decide))]
  revert hw
  show _ → decTile _ (F5.of (F5.pack _)) = _
  rw [F5.of_pack]
  simp (disch := omega) only [decTile, extract_high, extract_low, extract_all, low_setWidth,
      high_setWidth, toNat_setWidth', Nat.reduceSub, Nat.sub_self]
  simp (disch := omega) [Instr.wf, enc, encOf, opr, opr2, opr3, modW, modWi, lowBit, bit, low_setWidth,
        high_setWidth, toNat_setWidth', extract_high, extract_low, extract_all]
theorem cpy (c_ : Guard) (sp : Scope) (cls : BitVec 2) (z : Bool) (a : GReg) (b : GReg) (n : GReg) (e : GReg) :
    Statement (.cpy c_ sp cls z a b n e) := by
  intro w hw h
  cases h
  rw [decode_word (.inl (by decide))]
  revert hw
  show _ → decEng _ (F5.of (F5.pack _)) = _
  rw [F5.of_pack]
  simp (disch := omega) only [decEng, extract_high, extract_low, extract_all, low_setWidth,
      high_setWidth, toNat_setWidth', Nat.reduceSub, Nat.sub_self]
  cases z <;>
      simp (disch := omega) [Instr.wf, enc, encOf, opr, opr2, opr3, modW, modWi, lowBit, bit, low_setWidth,
        high_setWidth, toNat_setWidth', extract_high, extract_low, extract_all]
theorem gth (c_ : Guard) (sp : Scope) (cls : BitVec 2) (a : GReg) (e : GReg) : Statement (.gth c_ sp cls a e) := by
  intro w hw h
  cases h
  rw [decode_word (.inl (by decide))]
  revert hw
  show _ → decEng _ (F5.of (F5.pack _)) = _
  rw [F5.of_pack]
  simp (disch := omega) only [decEng, extract_high, extract_low, extract_all, low_setWidth,
      high_setWidth, toNat_setWidth', Nat.reduceSub, Nat.sub_self]
  simp (disch := omega) [Instr.wf, enc, encOf, opr, opr2, opr3, modW, modWi, lowBit, bit, low_setWidth,
        high_setWidth, toNat_setWidth', extract_high, extract_low, extract_all]
theorem coll (c_ : Guard) (sp : Scope) (cls : BitVec 2) (a : GReg) (e : GReg) : Statement (.coll c_ sp cls a e) := by
  intro w hw h
  cases h
  rw [decode_word (.inl (by decide))]
  revert hw
  show _ → decEng _ (F5.of (F5.pack _)) = _
  rw [F5.of_pack]
  simp (disch := omega) only [decEng, extract_high, extract_low, extract_all, low_setWidth,
      high_setWidth, toNat_setWidth', Nat.reduceSub, Nat.sub_self]
  simp (disch := omega) [Instr.wf, enc, encOf, opr, opr2, opr3, modW, modWi, lowBit, bit, low_setWidth,
        high_setWidth, toNat_setWidth', extract_high, extract_low, extract_all]
theorem xwr (c_ : Guard) (sp : Scope) (cls : BitVec 2) (a : GReg) (e : GReg) : Statement (.xwr c_ sp cls a e) := by
  intro w hw h
  cases h
  rw [decode_word (.inl (by decide))]
  revert hw
  show _ → decEng _ (F5.of (F5.pack _)) = _
  rw [F5.of_pack]
  simp (disch := omega) only [decEng, extract_high, extract_low, extract_all, low_setWidth,
      high_setWidth, toNat_setWidth', Nat.reduceSub, Nat.sub_self]
  simp (disch := omega) [Instr.wf, enc, encOf, opr, opr2, opr3, modW, modWi, lowBit, bit, low_setWidth,
        high_setWidth, toNat_setWidth', extract_high, extract_low, extract_all]
theorem engineCompletion (id : Nat) (r : PeerReply) : Statement (.engineCompletion id r) := by
  intro w _ h; cases h
theorem peerWriteReceive (win : Nat) (off : Nat) (xs : List Byte) (flag : Option (Nat × BitVec 32)) :
    Statement (.peerWriteReceive win off xs flag) := by
  intro w _ h; cases h
theorem peerLost (entry : Nat) : Statement (.peerLost entry) := by
  intro w _ h; cases h
theorem spawn (c_ : Guard) (d : GReg) (a : GReg) : Statement (.spawn c_ d a) := by
  intro w hw h
  cases h
  rw [decode_word (.inl (by decide))]
  revert hw
  show _ → decTask _ (F6.of (F6.pack _)) = _
  rw [F6.of_pack]
  simp (disch := omega) only [decTask, extract_high, extract_low, extract_all, low_setWidth,
      high_setWidth, toNat_setWidth', Nat.reduceSub, Nat.sub_self]
  simp (disch := omega) [Instr.wf, enc, encOf, opr, opr2, opr3, modW, modWi, lowBit, bit, low_setWidth,
        high_setWidth, toNat_setWidth', extract_high, extract_low, extract_all]
theorem run (c_ : Guard) (d : GReg) (a : GReg) : Statement (.run c_ d a) := by
  intro w hw h
  cases h
  rw [decode_word (.inl (by decide))]
  revert hw
  show _ → decTask _ (F6.of (F6.pack _)) = _
  rw [F6.of_pack]
  simp (disch := omega) only [decTask, extract_high, extract_low, extract_all, low_setWidth,
      high_setWidth, toNat_setWidth', Nat.reduceSub, Nat.sub_self]
  simp (disch := omega) [Instr.wf, enc, encOf, opr, opr2, opr3, modW, modWi, lowBit, bit, low_setWidth,
        high_setWidth, toNat_setWidth', extract_high, extract_low, extract_all]
theorem exit (c_ : Guard) (a : GReg) : Statement (.exit c_ a) := by
  intro w hw h
  cases h
  rw [decode_word (.inl (by decide))]
  revert hw
  show _ → decTask _ (F6.of (F6.pack _)) = _
  rw [F6.of_pack]
  simp (disch := omega) only [decTask, extract_high, extract_low, extract_all, low_setWidth,
      high_setWidth, toNat_setWidth', Nat.reduceSub, Nat.sub_self]
  simp (disch := omega) [Instr.wf, enc, encOf, opr, opr2, opr3, modW, modWi, lowBit, bit, low_setWidth,
        high_setWidth, toNat_setWidth', extract_high, extract_low, extract_all]
theorem workerExitComplete (t : Nat) : Statement (.workerExitComplete t) := by
  intro w _ h; cases h
theorem regionExitComplete (r : Nat) : Statement (.regionExitComplete r) := by
  intro w _ h; cases h
theorem yield (c_ : Guard) : Statement (.yield c_) := by
  intro w _ h; cases h; rw [decode_word (.inl (by decide))]; rfl
theorem trap (c_ : Guard) (code : BitVec 24) : Statement (.trap c_ code) := by
  intro w hw h
  cases h
  rw [decode_word (.inl (by decide))]
  revert hw
  show _ → decTask _ (F6.of (F6.pack _)) = _
  rw [F6.of_pack]
  simp (disch := omega) only [decTask, extract_high, extract_low, extract_all, low_setWidth,
      high_setWidth, toNat_setWidth', Nat.reduceSub, Nat.sub_self]
  simp (disch := omega) [Instr.wf, enc, encOf, opr, opr2, opr3, modW, modWi, lowBit, bit, low_setWidth,
        high_setWidth, toNat_setWidth', extract_high, extract_low, extract_all]
theorem bkpt (c_ : Guard) (code : BitVec 24) : Statement (.bkpt c_ code) := by
  intro w hw h
  cases h
  rw [decode_word (.inl (by decide))]
  revert hw
  show _ → decPriv _ (F6.of (F6.pack _)) = _
  rw [F6.of_pack]
  simp (disch := omega) only [decPriv, extract_high, extract_low, extract_all, low_setWidth,
      high_setWidth, toNat_setWidth', Nat.reduceSub, Nat.sub_self]
  simp (disch := omega) [Instr.wf, enc, encOf, opr, opr2, opr3, modW, modWi, lowBit, bit, low_setWidth,
        high_setWidth, toNat_setWidth', extract_high, extract_low, extract_all]
theorem srd (c_ : Guard) (d : GReg) (n : BitVec 12) : Statement (.srd c_ d n) := by
  intro w hw h
  cases h
  rw [decode_word (.inl (by decide))]
  revert hw
  show _ → decPriv _ (F6.of (F6.pack _)) = _
  rw [F6.of_pack]
  simp (disch := omega) only [decPriv, extract_high, extract_low, extract_all, low_setWidth,
      high_setWidth, toNat_setWidth', Nat.reduceSub, Nat.sub_self]
  simp (disch := omega) [Instr.wf, enc, encOf, opr, opr2, opr3, modW, modWi, lowBit, bit, low_setWidth,
        high_setWidth, toNat_setWidth', extract_high, extract_low, extract_all]
theorem swr (c_ : Guard) (n : BitVec 12) (a : GReg) : Statement (.swr c_ n a) := by
  intro w hw h
  cases h
  rw [decode_word (.inl (by decide))]
  revert hw
  show _ → decPriv _ (F6.of (F6.pack _)) = _
  rw [F6.of_pack]
  simp (disch := omega) only [decPriv, extract_high, extract_low, extract_all, low_setWidth,
      high_setWidth, toNat_setWidth', Nat.reduceSub, Nat.sub_self]
  simp (disch := omega) [Instr.wf, enc, encOf, opr, opr2, opr3, modW, modWi, lowBit, bit, low_setWidth,
        high_setWidth, toNat_setWidth', extract_high, extract_low, extract_all]
theorem eret (c_ : Guard) : Statement (.eret c_) := by
  intro w _ h; cases h; rw [decode_word (.inl (by decide))]; rfl
theorem tlbiVa (c_ : Guard) (a : GReg) : Statement (.tlbiVa c_ a) := by
  intro w hw h
  cases h
  rw [decode_word (.inl (by decide))]
  revert hw
  show _ → decPriv _ (F6.of (F6.pack _)) = _
  rw [F6.of_pack]
  simp (disch := omega) only [decPriv, extract_high, extract_low, extract_all, low_setWidth,
      high_setWidth, toNat_setWidth', Nat.reduceSub, Nat.sub_self]
  simp (disch := omega) [Instr.wf, enc, encOf, opr, opr2, opr3, modW, modWi, lowBit, bit, low_setWidth,
        high_setWidth, toNat_setWidth', extract_high, extract_low, extract_all]
theorem tlbiAll (c_ : Guard) : Statement (.tlbiAll c_) := by
  intro w _ h; cases h; rw [decode_word (.inl (by decide))]; rfl
theorem tlbiS2 (c_ : Guard) (d : GReg) (a : GReg) : Statement (.tlbiS2 c_ d a) := by
  intro w hw h
  cases h
  rw [decode_word (.inl (by decide))]
  revert hw
  show _ → decPriv _ (F6.of (F6.pack _)) = _
  rw [F6.of_pack]
  simp (disch := omega) only [decPriv, extract_high, extract_low, extract_all, low_setWidth,
      high_setWidth, toNat_setWidth', Nat.reduceSub, Nat.sub_self]
  simp (disch := omega) [Instr.wf, enc, encOf, opr, opr2, opr3, modW, modWi, lowBit, bit, low_setWidth,
        high_setWidth, toNat_setWidth', extract_high, extract_low, extract_all]
theorem tlbiS2all (c_ : Guard) (d : GReg) : Statement (.tlbiS2all c_ d) := by
  intro w hw h
  cases h
  rw [decode_word (.inl (by decide))]
  revert hw
  show _ → decPriv _ (F6.of (F6.pack _)) = _
  rw [F6.of_pack]
  simp (disch := omega) only [decPriv, extract_high, extract_low, extract_all, low_setWidth,
      high_setWidth, toNat_setWidth', Nat.reduceSub, Nat.sub_self]
  simp (disch := omega) [Instr.wf, enc, encOf, opr, opr2, opr3, modW, modWi, lowBit, bit, low_setWidth,
        high_setWidth, toNat_setWidth', extract_high, extract_low, extract_all]
theorem tlbiAck (t : Nat) : Statement (.tlbiAck t) := by
  intro w _ h; cases h
theorem dirty (c_ : Guard) (d : GReg) (a : GReg) : Statement (.dirty c_ d a) := by
  intro w hw h
  cases h
  rw [decode_word (.inl (by decide))]
  revert hw
  show _ → decPriv _ (F6.of (F6.pack _)) = _
  rw [F6.of_pack]
  simp (disch := omega) only [decPriv, extract_high, extract_low, extract_all, low_setWidth,
      high_setWidth, toNat_setWidth', Nat.reduceSub, Nat.sub_self]
  simp (disch := omega) [Instr.wf, enc, encOf, opr, opr2, opr3, modW, modWi, lowBit, bit, low_setWidth,
        high_setWidth, toNat_setWidth', extract_high, extract_low, extract_all]
theorem scrub (c_ : Guard) (d : GReg) (a : GReg) : Statement (.scrub c_ d a) := by
  intro w hw h
  cases h
  rw [decode_word (.inl (by decide))]
  revert hw
  show _ → decPriv _ (F6.of (F6.pack _)) = _
  rw [F6.of_pack]
  simp (disch := omega) only [decPriv, extract_high, extract_low, extract_all, low_setWidth,
      high_setWidth, toNat_setWidth', Nat.reduceSub, Nat.sub_self]
  simp (disch := omega) [Instr.wf, enc, encOf, opr, opr2, opr3, modW, modWi, lowBit, bit, low_setWidth,
        high_setWidth, toNat_setWidth', extract_high, extract_low, extract_all]
theorem frz (c_ : Guard) (d : GReg) (a : GReg) : Statement (.frz c_ d a) := by
  intro w hw h
  cases h
  rw [decode_word (.inl (by decide))]
  revert hw
  show _ → decPriv _ (F6.of (F6.pack _)) = _
  rw [F6.of_pack]
  simp (disch := omega) only [decPriv, extract_high, extract_low, extract_all, low_setWidth,
      high_setWidth, toNat_setWidth', Nat.reduceSub, Nat.sub_self]
  simp (disch := omega) [Instr.wf, enc, encOf, opr, opr2, opr3, modW, modWi, lowBit, bit, low_setWidth,
        high_setWidth, toNat_setWidth', extract_high, extract_low, extract_all]
theorem frzVd (c_ : Guard) (d : GReg) (a : GReg) : Statement (.frzVd c_ d a) := by
  intro w hw h
  cases h
  rw [decode_word (.inl (by decide))]
  revert hw
  show _ → decPriv _ (F6.of (F6.pack _)) = _
  rw [F6.of_pack]
  simp (disch := omega) only [decPriv, extract_high, extract_low, extract_all, low_setWidth,
      high_setWidth, toNat_setWidth', Nat.reduceSub, Nat.sub_self]
  simp (disch := omega) [Instr.wf, enc, encOf, opr, opr2, opr3, modW, modWi, lowBit, bit, low_setWidth,
        high_setWidth, toNat_setWidth', extract_high, extract_low, extract_all]
theorem frzVdThaw (vd : Fin 32) : Statement (.frzVdThaw vd) := by
  intro w _ h; cases h
theorem wkeyOffer (c_ : Guard) (d : GReg) (a : GReg) : Statement (.wkeyOffer c_ d a) := by
  intro w hw h
  cases h
  rw [decode_word (.inl (by decide))]
  revert hw
  show _ → decPriv _ (F6.of (F6.pack _)) = _
  rw [F6.of_pack]
  simp (disch := omega) only [decPriv, extract_high, extract_low, extract_all, low_setWidth,
      high_setWidth, toNat_setWidth', Nat.reduceSub, Nat.sub_self]
  simp (disch := omega) [Instr.wf, enc, encOf, opr, opr2, opr3, modW, modWi, lowBit, bit, low_setWidth,
        high_setWidth, toNat_setWidth', extract_high, extract_low, extract_all]
theorem wkeyAccept (c_ : Guard) (d : GReg) (a : GReg) : Statement (.wkeyAccept c_ d a) := by
  intro w hw h
  cases h
  rw [decode_word (.inl (by decide))]
  revert hw
  show _ → decPriv _ (F6.of (F6.pack _)) = _
  rw [F6.of_pack]
  simp (disch := omega) only [decPriv, extract_high, extract_low, extract_all, low_setWidth,
      high_setWidth, toNat_setWidth', Nat.reduceSub, Nat.sub_self]
  simp (disch := omega) [Instr.wf, enc, encOf, opr, opr2, opr3, modW, modWi, lowBit, bit, low_setWidth,
        high_setWidth, toNat_setWidth', extract_high, extract_low, extract_all]
theorem wkeyInstall (c_ : Guard) (d : GReg) (a : GReg) : Statement (.wkeyInstall c_ d a) := by
  intro w hw h
  cases h
  rw [decode_word (.inl (by decide))]
  revert hw
  show _ → decPriv _ (F6.of (F6.pack _)) = _
  rw [F6.of_pack]
  simp (disch := omega) only [decPriv, extract_high, extract_low, extract_all, low_setWidth,
      high_setWidth, toNat_setWidth', Nat.reduceSub, Nat.sub_self]
  simp (disch := omega) [Instr.wf, enc, encOf, opr, opr2, opr3, modW, modWi, lowBit, bit, low_setWidth,
        high_setWidth, toNat_setWidth', extract_high, extract_low, extract_all]
theorem wkeyClose (c_ : Guard) (d : GReg) (a : GReg) : Statement (.wkeyClose c_ d a) := by
  intro w hw h
  cases h
  rw [decode_word (.inl (by decide))]
  revert hw
  show _ → decPriv _ (F6.of (F6.pack _)) = _
  rw [F6.of_pack]
  simp (disch := omega) only [decPriv, extract_high, extract_low, extract_all, low_setWidth,
      high_setWidth, toNat_setWidth', Nat.reduceSub, Nat.sub_self]
  simp (disch := omega) [Instr.wf, enc, encOf, opr, opr2, opr3, modW, modWi, lowBit, bit, low_setWidth,
        high_setWidth, toNat_setWidth', extract_high, extract_low, extract_all]
theorem wkeyFree (c_ : Guard) (d : GReg) (a : GReg) : Statement (.wkeyFree c_ d a) := by
  intro w hw h
  cases h
  rw [decode_word (.inl (by decide))]
  revert hw
  show _ → decPriv _ (F6.of (F6.pack _)) = _
  rw [F6.of_pack]
  simp (disch := omega) only [decPriv, extract_high, extract_low, extract_all, low_setWidth,
      high_setWidth, toNat_setWidth', Nat.reduceSub, Nat.sub_self]
  simp (disch := omega) [Instr.wf, enc, encOf, opr, opr2, opr3, modW, modWi, lowBit, bit, low_setWidth,
        high_setWidth, toNat_setWidth', extract_high, extract_low, extract_all]
theorem vdCreate (vd : Fin 32) : Statement (.vdCreate vd) := by
  intro w _ h; cases h
theorem vdGrant (vd : Fin 32) : Statement (.vdGrant vd) := by
  intro w _ h; cases h
theorem vdRevoke (vd : Fin 32) : Statement (.vdRevoke vd) := by
  intro w _ h; cases h
theorem vdStart (vd : Fin 32) : Statement (.vdStart vd) := by
  intro w _ h; cases h
theorem vdDestroy (vd : Fin 32) : Statement (.vdDestroy vd) := by
  intro w _ h; cases h
theorem vds2rootWrite (vd : Fin 32) (x : Word) : Statement (.vds2rootWrite vd x) := by
  intro w _ h; cases h
theorem whdataWrite (x : Word) : Statement (.whdataWrite x) := by
  intro w _ h; cases h
theorem c0limWrite (x : Word) : Statement (.c0limWrite x) := by
  intro w _ h; cases h
theorem s1rootWrite (vd : Fin 32) (x : Word) : Statement (.s1rootWrite vd x) := by
  intro w _ h; cases h
theorem barcntWrite (t : Nat) (x : Word) : Statement (.barcntWrite t x) := by
  intro w _ h; cases h
theorem timebaseWrite (x : Word) : Statement (.timebaseWrite x) := by
  intro w _ h; cases h
theorem throtClear (x : Word) : Statement (.throtClear x) := by
  intro w _ h; cases h
theorem boundaryTableWrite (t : Nat) (off : Nat) (x : Word) : Statement (.boundaryTableWrite t off x) := by
  intro w _ h; cases h
theorem registerWrite (t : Nat) (off : Nat) (x : Word) (lvl : BitVec 2) :
    Statement (.registerWrite t off x lvl) := by
  intro w _ h; cases h
theorem accSlotWriteRelease (t : Nat) : Statement (.accSlotWriteRelease t) := by
  intro w _ h; cases h
theorem orderLeave (ids : List Nat) : Statement (.orderLeave ids) := by
  intro w _ h; cases h
theorem queueArrive (id : Nat) : Statement (.queueArrive id) := by
  intro w _ h; cases h
theorem nodePerform (id : Nat) : Statement (.nodePerform id) := by
  intro w _ h; cases h
theorem reencryptComplete (stack : Nat) (leaf : Nat) : Statement (.reencryptComplete stack leaf) := by
  intro w _ h; cases h
theorem accessReply (id : Nat) : Statement (.accessReply id) := by
  intro w _ h; cases h
theorem ringPass : Statement .ringPass := by
  intro w _ h; cases h
theorem walkComplete (t : Nat) (va : Word) (store : Bool) : Statement (.walkComplete t va store) := by
  intro w _ h; cases h
theorem wheelSlot (ty : Nat) (ix : Nat) (id : Nat) : Statement (.wheelSlot ty ix id) := by
  intro w _ h; cases h
theorem regionPlace (ps : List Place) : Statement (.regionPlace ps) := by
  intro w _ h; cases h
theorem quantumExpiry (r : Nat) : Statement (.quantumExpiry r) := by
  intro w _ h; cases h
theorem watchdogExpiry (r : Nat) : Statement (.watchdogExpiry r) := by
  intro w _ h; cases h
theorem markerPreemptStart (r : Nat) : Statement (.markerPreemptStart r) := by
  intro w _ h; cases h
theorem elementMarkerSave (t : Nat) (e : Elem) : Statement (.elementMarkerSave t e) := by
  intro w _ h; cases h
theorem corePreemptStop (t : Nat) : Statement (.corePreemptStop t) := by
  intro w _ h; cases h
theorem regionSave (r : Nat) : Statement (.regionSave r) := by
  intro w _ h; cases h
theorem preemptTimeout (r : Nat) : Statement (.preemptTimeout r) := by
  intro w _ h; cases h
theorem freezeWave (r : Nat) : Statement (.freezeWave r) := by
  intro w _ h; cases h
theorem regionRestore (ps : List Place) : Statement (.regionRestore ps) := by
  intro w _ h; cases h
theorem faultDomainAction (r : Nat) : Statement (.faultDomainAction r) := by
  intro w _ h; cases h
theorem killNotifyWrite (r : Nat) : Statement (.killNotifyWrite r) := by
  intro w _ h; cases h
theorem requestTimeout (id : Nat) : Statement (.requestTimeout id) := by
  intro w _ h; cases h
theorem softErrorCorrected : Statement .softErrorCorrected := by
  intro w _ h; cases h
theorem softErrorUncorrectable (owner : Option (Fin 32)) : Statement (.softErrorUncorrectable owner) := by
  intro w _ h; cases h
theorem quiescenceReport (r : Nat) : Statement (.quiescenceReport r) := by
  intro w _ h; cases h
theorem trackHop (t : Nat) (src : Nat) : Statement (.trackHop t src) := by
  intro w _ h; cases h
theorem threshArrive (i : Nat) : Statement (.threshArrive i) := by
  intro w _ h; cases h
theorem killArrive (i : Nat) : Statement (.killArrive i) := by
  intro w _ h; cases h
theorem agPoint (t : Nat) (a : Nat) : Statement (.agPoint t a) := by
  intro w _ h; cases h
theorem agParamArrive (t : Nat) (a : Nat) : Statement (.agParamArrive t a) := by
  intro w _ h; cases h
theorem muAccess (t : Nat) (u : Nat) : Statement (.muAccess t u) := by
  intro w _ h; cases h
theorem muDone (t : Nat) (u : Nat) : Statement (.muDone t u) := by
  intro w _ h; cases h
theorem mapFire (t : Nat) (sl : Nat) : Statement (.mapFire t sl) := by
  intro w _ h; cases h
theorem prefixFire (t : Nat) (sl : Nat) : Statement (.prefixFire t sl) := by
  intro w _ h; cases h
theorem scoreFire (t : Nat) (sl : Nat) : Statement (.scoreFire t sl) := by
  intro w _ h; cases h
theorem boundHeader (t : Nat) (sl : Nat) : Statement (.boundHeader t sl) := by
  intro w _ h; cases h
theorem boundThreshRise (t : Nat) (sl : Nat) : Statement (.boundThreshRise t sl) := by
  intro w _ h; cases h
theorem topkFire (t : Nat) (sl : Nat) : Statement (.topkFire t sl) := by
  intro w _ h; cases h
theorem mergeFire (t : Nat) (sl : Nat) : Statement (.mergeFire t sl) := by
  intro w _ h; cases h
theorem joinBuild (t : Nat) (sl : Nat) : Statement (.joinBuild t sl) := by
  intro w _ h; cases h
theorem joinProbe (t : Nat) (sl : Nat) : Statement (.joinProbe t sl) := by
  intro w _ h; cases h
theorem filterFire (t : Nat) (sl : Nat) : Statement (.filterFire t sl) := by
  intro w _ h; cases h
theorem gatherRequest (t : Nat) (sl : Nat) : Statement (.gatherRequest t sl) := by
  intro w _ h; cases h
theorem gatherReply (t : Nat) (sl : Nat) (k : Nat) : Statement (.gatherReply t sl k) := by
  intro w _ h; cases h
theorem reduceFire (t : Nat) (sl : Nat) : Statement (.reduceFire t sl) := by
  intro w _ h; cases h
theorem quantFire (t : Nat) (sl : Nat) : Statement (.quantFire t sl) := by
  intro w _ h; cases h
theorem selectFire (t : Nat) (sl : Nat) : Statement (.selectFire t sl) := by
  intro w _ h; cases h
theorem flushMarkerAlign (t : Nat) (e : Elem) : Statement (.flushMarkerAlign t e) := by
  intro w _ h; cases h
theorem inboundPostedWrite (f : Nat) (off : Nat) (xs : List Byte) (relaxed : Bool) :
    Statement (.inboundPostedWrite f off xs relaxed) := by
  intro w _ h; cases h
theorem routeAck (f : Nat) (id : Nat) : Statement (.routeAck f id) := by
  intro w _ h; cases h
theorem inboundRead (f : Nat) (off : Nat) (n : Nat) : Statement (.inboundRead f off n) := by
  intro w _ h; cases h
theorem inboundAtomic (f : Nat) (off : Nat) (op : PcieAtomic) (dword : Bool) (x : Word) (y : Word) :
    Statement (.inboundAtomic f off op dword x y) := by
  intro w _ h; cases h
theorem perstRelease : Statement .perstRelease := by
  intro w _ h; cases h
theorem rotFirmwareVerify (err : BitVec 8) : Statement (.rotFirmwareVerify err) := by
  intro w _ h; cases h
theorem firmwareInit (err : BitVec 8) : Statement (.firmwareInit err) := by
  intro w _ h; cases h
theorem millinerInit (err : BitVec 8) : Statement (.millinerInit err) := by
  intro w _ h; cases h
theorem deviceReady : Statement .deviceReady := by
  intro w _ h; cases h
theorem powerThrottle (cls : Fin 4) (mw : BitVec 32) (temp : BitVec 16) :
    Statement (.powerThrottle cls mw temp) := by
  intro w _ h; cases h
theorem overtempShutdown : Statement .overtempShutdown := by
  intro w _ h; cases h
theorem configurationRequest (req : List Byte) : Statement (.configurationRequest req) := by
  intro w _ h; cases h
theorem perstAssert : Statement .perstAssert := by
  intro w _ h; cases h
theorem frameRetransmit (n : Nat) : Statement (.frameRetransmit n) := by
  intro w _ h; cases h
theorem wordNotAnInstruction (e : DecErr) (w : Word) : Statement (.wordNotAnInstruction e w) := by
  intro w _ h; cases h
theorem instructionFetchFault (cause : BitVec 8) (eval : Word) : Statement (.instructionFetchFault cause eval) := by
  intro w _ h; cases h

end Sys2Proof.Laws.RoundTrip
end

