-- ==== Sys2Proof/Tests/Slice0.lean ====
section
/-!
SUPPORT. The model's own tests. Decoding: words that the entries of chapters 02 to 23 write out, with the instruction that
they stand for. Well-formedness: a term that each check refuses. Steps: results that the spec's tables and examples state.
Witnesses: states and operands that meet the hypotheses of the statements.
-/
namespace Sys2Proof.Tests
open Sys2Proof.Machine Sys2Proof.Claims
set_option maxRecDepth 20000

theorem test_decode_alu_1 :
    decode 0x0005187000200000 = .ok (.add g1 true 5 6 7) ∧
    decode 0x0003100004C102C8 = .ok (.bext g1 true 3 4 8 11) ∧
    decode 0x0005187002400000 = .ok (.andn g1 5 6 7) ∧
    decode 0x0005180004400000 = .ok (.clz g1 5 6) ∧
    decode 0x0031146003C20000 = .ok (.cmp g1 .lt (.p 1) 5 6) ∧
    decode 0x0005187001000000 = .ok (.div g1 false 5 6 7) :=
  ⟨rfl, rfl, rfl, rfl, rfl, rfl⟩

theorem test_decode_alu_2 :
    decode 0x0005187003800000 = .ok (.max g1 false 5 6 7) ∧
    decode 0x0005142000800000 = .ok (.mul g1 false 5 5 2) ∧
    decode 0x0005187001C00000 = .ok (.or g1 5 6 7) ∧
    decode 0x0033C72005420000 = .ok (.plog g1 .xor 3 1 2) ∧
    decode 0x0005180004800000 = .ok (.popc g1 5 6) ∧
    decode 0x0005187001400000 = .ok (.rem g1 false 5 6 7) :=
  ⟨rfl, rfl, rfl, rfl, rfl, rfl⟩

theorem test_decode_alu_3 :
    decode 0x0005187C44000000 = .ok (.sel g1 5 6 7 1) ∧
    decode 0x0005187000400000 = .ok (.sub g1 false 5 6 7) ∧
    decode 0x0005187002000000 = .ok (.xor g1 5 6 7) :=
  ⟨rfl, rfl, rfl⟩

theorem test_decode_alui :
    decode 0x040A0200FF000000 = .ok (.movi g1 10 0xFF000000) ∧
    decode 0x0401040000000008 = .ok (.addImm g1 false 1 1 8) ∧
    decode 0x04092460000000FF = .ok (.andImm g1 9 9 0xFF) ∧
    decode 0x0405020000000007 = .ok (.movi g1 5 7) ∧
    decode 0x040A021000007FFF = .ok (.movhi g1 10 0x7FFF) ∧
    decode 0x04051480FFFFFFFF = .ok (.xorImm g1 5 5 0xFFFFFFFF) :=
  ⟨rfl, rfl, rfl, rfl, rfl, rfl⟩

theorem test_decode_branch_1 :
    decode 0x0805004100000010 = .ok (.cbr g1 .ne false 5 0 16) ∧
    decode 0x08000000FFFFFFF0 = .ok (.br g1 false 0xFFFFFFF0) ∧
    decode 0x0805190900000018 = .ok (.cbr g1 .ltu true 5 6 24) ∧
    decode 0x0800000200000040 = .ok (.call g1 false 0 0x40) ∧
    decode 0x0807000200000000 = .ok (.call g1 false 7 0) ∧
    decode 0x0805000300000000 = .ok (.jmp g1 false 5 0) :=
  ⟨rfl, rfl, rfl, rfl, rfl, rfl⟩

theorem test_decode_branch_2 :
    decode 0x081F000400000000 = .ok (.ret g1 false 31) :=
  rfl

theorem test_decode_loop :
    decode 0x0C0080000000C000 = .ok (.loop g1 2 0 3) ∧
    decode 0x0C00000140008000 = .ok (.loop g1 0 5 2) ∧
    decode 0x0C10800400000000 = .ok (.rep g1 2 0 0 1 0) :=
  ⟨rfl, rfl, rfl⟩

theorem test_decode_load :
    decode 0x1009080300000018 = .ok (.ld g1 .d .plain .tile 9 2 0 24) ∧
    decode 0x10050832803FFFFC = .ok (.ld g1 .wu .plain .tile 5 2 3 0x3FFFFC) ∧
    decode 0x100504031C000000 = .ok (.ld g1 .d .acq .sys 5 1 0 0) :=
  ⟨rfl, rfl, rfl⟩

theorem test_decode_atomic :
    decode 0x1805087200000000 = .ok (.aadd g1 .w .plain .tile 5 2 7 0) ∧
    decode 0x1805086359C00000 = .ok (.acas g1 .d .ar .vd 5 2 6 0) ∧
    decode 0x18090C8202000000 = .ok (.afmax g1 .w .plain .tile 9 3 8 0) :=
  ⟨rfl, rfl, rfl⟩

theorem test_decode_sync :
    decode 0x1C00002000000000 = .ok (.bar g1 0) ∧
    decode 0x1C080C1000000000 = .ok (.waita g1 .eq false 8 3) :=
  ⟨rfl, rfl⟩

theorem test_decode_vector :
    decode 0x2022868A40C10000 = .ok (.vfma g1 .fp32 .dyn 2 1 8 9) ∧
    decode 0x2023862000020002 = .ok (.vadd g1 .bf16 .rtz 3 1 2) ∧
    decode 0x20238620020A0000 = .ok (.vand g1 .int32 3 1 2) ∧
    decode 0x2023862002C10002 = .ok (.vcmp g1 .fp32 .lt 3 1 2) ∧
    decode 0x2023862903010000 = .ok (.vsel g1 .fp32 3 1 2 4) :=
  ⟨rfl, rfl, rfl, rfl, rfl⟩

theorem test_decode_vsfu :
    decode 0x2423900000010000 = .ok (.vexp2 g1 .fp32 3 4) :=
  rfl

theorem test_decode_vcvt :
    decode 0x2822840000240001 = .ok (.vcvt g1 .fp8e4 true false .rne 2 1) ∧
    decode 0x2826865000440001 = .ok (.vqnt g1 .fp8e4 .rne 6 1 5) ∧
    decode 0x2825840000C40000 = .ok (.vscl g1 .fp8e4 false 5 1) :=
  ⟨rfl, rfl, rfl⟩

theorem test_decode_vmem :
    decode 0x2C26080200400000 = .ok (.vst g1 .fp8e4 .plain .tile 6 2 0 0) ∧
    decode 0x2C21040080000000 = .ok (.vld g1 .fp32 .plain .tile 1 1 0 0) ∧
    decode 0x2C220800A8400000 = .ok (.vst g1 .fp32 .rel .vd 2 2 0 0) ∧
    decode 0x2C230A4080800000 = .ok (.vldx g1 .fp32 .plain .tile 3 2 4 0) ∧
    decode 0x2C22087101000000 = .ok (.vldz g1 .bf16 .plain .tile 2 2 7 0) :=
  ⟨rfl, rfl, rfl, rfl, rfl⟩

theorem test_decode_vlane_1 :
    decode 0x3005840002400000 = .ok (.vcnt g1 5 1) ∧
    decode 0x3023840000C00000 = .ok (.vcomp g1 3 1) ∧
    decode 0x3023840001440002 = .ok (.vunpk g1 .fp8e4 2 3 1) ∧
    decode 0x3023862000000000 = .ok (.vperm g1 3 1 2) ∧
    decode 0x3022840001C10000 = .ok (.vrank g1 .fp32 false 2 1) ∧
    decode 0x3023840000410000 = .ok (.vscan g1 .fp32 .sum false .dyn 3 1) :=
  ⟨rfl, rfl, rfl, rfl, rfl, rfl⟩

theorem test_decode_vlane_2 :
    decode 0x3023840002000001 = .ok (.vtab g1 true 3 1) :=
  rfl

theorem test_decode_port :
    decode 0x3421008046000000 = .ok (.vpush g1 (.v 1) true true 0) ∧
    decode 0x3405180080000000 = .ok (.parw g1 5 6) ∧
    decode 0x3422000000000000 = .ok (.vpop g1 (.v 2) 0) ∧
    decode 0x3421008040000000 = .ok (.vpush g1 (.v 1) false false 0) :=
  ⟨rfl, rfl, rfl, rfl⟩

theorem test_decode_fabric :
    decode 0x3805002080000000 = .ok (.drain g1 5 2) ∧
    decode 0x3805180100000000 = .ok (.kill g1 5 6) ∧
    decode 0x38000080C0000000 = .ok (.mark g1 0) ∧
    decode 0x3805000140000000 = .ok (.thrd g1 5) :=
  ⟨rfl, rfl, rfl, rfl⟩

theorem test_decode_macroop :
    decode 0x3C3830A34E000001 = .ok (.rdot g1 .bf16 .int4 false false false 0 12 10 13 14) ∧
    decode 0x3C0000A00E020000 = .ok (.rank g1 .int4 10 14) ∧
    decode 0x3C38000000030000 = .ok (.aclr g1 0) ∧
    decode 0x3C3A146007010003 = .ok (.ddot g1 .fp8e4 .fp8e4 false .dense false 2 5 6 0 7) ∧
    decode 0x3C3B1460070000D5 = .ok (.rdot g1 .int8 .int3 true true false 3 5 6 0 7) ∧
    decode 0x3C32140006060002 = .ok (.tpred g1 .bf16 2 5 6) :=
  ⟨rfl, rfl, rfl, rfl, rfl, rfl⟩

theorem test_decode_engine :
    decode 0x40000421C6000002 = .ok (.cpy g1 .vd 0 false 1 2 7 6) ∧
    decode 0x4000140006020003 = .ok (.coll g1 .sys 0 5 6) ∧
    decode 0x4000140006010001 = .ok (.gth g1 .rgn 0 5 6) ∧
    decode 0x4000140006030003 = .ok (.xwr g1 .sys 0 5 6) :=
  ⟨rfl, rfl, rfl, rfl⟩

theorem test_decode_task :
    decode 0x4400142000000000 = .ok (.exit g1 5) ∧
    decode 0x4400004000000005 = .ok (.trap g1 5) ∧
    decode 0x4400003000000000 = .ok (.yield g1) :=
  ⟨rfl, rfl, rfl⟩

theorem test_decode_system :
    decode 0x4818000040000000 = .ok (.srd g1 24 0x040) ∧
    decode 0x4800002000000000 = .ok (.eret g1) ∧
    decode 0x4800008000000007 = .ok (.bkpt g1 7) ∧
    decode 0x4805186000000000 = .ok (.frz g1 5 6) ∧
    decode 0x4805185000000000 = .ok (.scrub g1 5 6) :=
  ⟨rfl, rfl, rfl, rfl, rfl⟩

/-! ### Well-formedness: each check refuses an ill-formed term -/

theorem test_wf_refuses_scalar :
    Instr.wf (.add g1 false 0 0 0) = false ∧ Instr.wf (.shlImm g1 true 5 6 32) = false ∧
    Instr.wf (.bext g1 false 5 6 63 1) = false ∧ Instr.wf (.br g1 false 4) = false ∧
    Instr.wf (.loop g1 2 1 3) = false ∧ Instr.wf (.loop g1 2 0 0) = false := by decide

theorem test_wf_refuses_memory :
    Instr.wf (.ld g1 .du .plain .tile 5 2 0 0) = false ∧ Instr.wf (.ld g1 .d .rel .sys 5 2 0 0) = false ∧
    Instr.wf (.ld g1 .d .sc .vd 5 2 0 0) = false ∧ Instr.wf (.st g1 .bu .plain .tile 5 2 0 0) = false ∧
    Instr.wf (.st g1 .d .acq .sys 5 2 0 0) = false ∧ Instr.wf (.aadd g1 .h .plain .tile 5 2 0 0) = false ∧
    Instr.wf (.aadd g1 .d .strm .tile 5 2 0 0) = false ∧ Instr.wf (.amin g1 .b .plain .tile 5 2 0 0) = false ∧
    Instr.wf (.afadd g1 .d .plain .tile 5 2 0 0) = false ∧ Instr.wf (.vld g1 .fp32 .sc .sys 1 2 0 0) = false ∧
    Instr.wf (.vst g1 .fp32 .acq .vd 1 2 0 0) = false ∧ Instr.wf (.vldx g1 .fp4 .plain .tile 1 2 3 0) = false ∧
    Instr.wf (.vstx g1 .int3 .plain .tile 1 2 3 0) = false ∧ Instr.wf (.vldz g1 .fp32 .plain .tile 1 2 0 0) = false ∧
    Instr.wf (.vstz g1 .fp4 .plain .tile 1 2 3 0) = false := by decide

theorem test_wf_refuses_token :
    Instr.wf (.vadd g1 .fp8e4 .dyn 1 2 3) = false ∧ Instr.wf (.vadd g1 .int32 .rne 1 2 3) = false ∧
    Instr.wf (.vfma g1 .bits .dyn 1 2 3 4) = false ∧ Instr.wf (.vmax g1 .idx32 1 2 3) = false ∧
    Instr.wf (.vand g1 .fp32 1 2 3) = false ∧ Instr.wf (.vexp2 g1 .int32 1 2) = false ∧
    Instr.wf (.vcvt g1 .cb4 false false .dyn 1 2) = false ∧ Instr.wf (.vcvt g1 .cb4 true true .dyn 1 2) = false ∧
    Instr.wf (.vqnt g1 .fp32 .dyn 1 2 3) = false ∧ Instr.wf (.vdq g1 .fp4 false .dyn 1 2 3) = false ∧
    Instr.wf (.vscan g1 .fp32 .max false .rtz 1 2) = false ∧ Instr.wf (.vunpk g1 .fp32 0 1 2) = false ∧
    Instr.wf (.vpack g1 .bf16 2 1 2) = false := by decide

theorem test_wf_refuses_macro_ops_and_registers :
    Instr.wf (.rdot g1 .fp32 .int4 false true false 0 1 2 3 4) = false ∧
    Instr.wf (.rdot g1 .bf16 .int8 false false false 0 1 2 3 4) = false ∧
    Instr.wf (.ddot g1 .int8 .int8 false .dense true 0 1 2 3 4) = false ∧
    Instr.wf (.ddot g1 .fp32 .bf16 false .dense false 0 1 2 3 4) = false ∧ Instr.wf (.rank g1 .fp4 1 2) = false ∧
    Instr.wf (.tpred g1 .cb4 1 2 3) = false ∧ Instr.wf (.srd g1 5 0x005) = false ∧ Instr.wf (.swr g1 0x134 5) = false := by
  decide

theorem test_wf_refuses_events :
    Instr.wf (.waitaWake 4104) = false ∧ Instr.wf (.trackHop 0 43) = false ∧ Instr.wf (.agPoint 0 2) = false ∧
    Instr.wf (.muDone 4096 0) = false ∧ Instr.wf (.mapFire 0 4) = false ∧ Instr.wf (.inboundRead 33 0 4) = false := by decide

/-- Encodings that no row gives are refused by name: a reserved major, a reserved bit, an operand outside its class. -/
theorem test_decode_refuses :
    decode 0xFC00000000000000 = .error .illegalEncoding ∧ decode 0x0005187000200001 = .error .illegalEncoding := ⟨rfl, rfl⟩

/-! ### A small device: VD 0 runs, region 0 stands on tiles 0 and 1, its lead task runs on tile 0 -/

def aRegion : Region :=
  { vd := 0, rcb := 0x1000, lvl := .u, plan := 0x800, cls := 2, aged := 2, policy := 0, domain := 0, trapv := 0, w := 2, h := 1
    entry := 0x7FFFFF000100, args := #v[5, 6, 7, 8], image := 0, quantum := 1, share := 0, tags := 0, chain := []
    notifyOff := 0x40, notifyVal := 9, parentTile := 0, parent := none, st := .running, place := some (0, 0), gen := 1 }
def leadTask : Task := { role := .lead, vd := 0, region := 0 }
def aCore : Core :=
  { pc := 0x7FFFFF000100, trapv := 0x7FFFFF000800, status := .run, task := some leadTask, owner := some (0, 1)
    lastOwner := some 0 }
def dev : State :=
  { perst := false, stage := 5, ready := true, regions := [aRegion], tile := { core := aCore }
    vds := (Vector.replicate 32 {}).set 0 { st := .running, gen := 1 } }

/-- The device with g registers 1 to 4 as given. -/
def devG (a b c d : Word) : State :=
  dev.setCore { dev.core with g := (((dev.core.g.set 1 a).set 2 b).set 3 c).set 4 d }
/-- With v registers 1 to 3 as given. -/
def devV (a b c : Token) : State :=
  dev.setCore { dev.core with v := ((dev.core.v.set 1 a).set 2 b).set 3 c }
/-- With the core at a level. -/
def atLvl (l : Lvl) (s : State) : State := s.setCore { s.core with lvl := l }
/-- A service core in H runs the firmware. -/
def devH (a b : Word) : State :=
  { dev with cur := 4096, parked := [(0, dev.tile)], tile := { core := { aCore with
    lvl := .h, task := some { role := .firmware, vd := 32 }, owner := none, g := (aCore.g.set 1 a).set 2 b } } }
/-- A region's core in its handler. -/
def devInH : State := dev.setCore { dev.core with lvl := .s, inH := true }

theorem runs_all : Runs .all false g1 dev := ⟨by decide, by decide, by decide⟩
theorem runs_all_transfer : Runs .all true g1 dev := ⟨by decide, by decide, by decide⟩
theorem runs_us : Runs .us false g1 dev := ⟨by decide, by decide, by decide⟩
theorem runs_us_in_s : Runs .us false g1 (atLvl .s dev) := ⟨by decide, by decide, by decide⟩
theorem runs_sh : Runs .sh false g1 (atLvl .s dev) := ⟨by decide, by decide, by decide⟩
theorem runs_h : Runs .h false g1 (devH 1 0) := ⟨by decide, by decide, by decide⟩
theorem runs_handler : Runs .handler false g1 devInH := ⟨by decide, by decide, by decide⟩
theorem has_handler : HasHandler dev := by unfold HasHandler; decide
/-- An address in tile store, one that is misaligned, one in the hole behind it, one of a register slot. -/
def inTile (n : Nat) : Word := BitVec.ofNat 64 (0x7FFFFF000000 + n)
/-- The answer of checks: it is there, and p holds of it. -/
def okWith {ε α : Type} (x : Except ε α) (p : α → Bool) : Bool :=
  match x with
  | .ok y => p y
  | .error _ => false
def errWith {ε α : Type} (x : Except ε α) (p : ε → Bool) : Bool :=
  match x with
  | .ok _ => false
  | .error y => p y

/-- Bytes from a physical address, and from an offset of tile 0's store: place, bytes, value. -/
def putAt (base : Nat) (s : State) (l : List (Nat × Nat × Nat)) : State :=
  { s with mem := l.foldl (fun m x => Memory.write m (base + x.1) x.2.1 x.2.2 (256 ^ x.2.1 - 1)) s.mem }
def put (s : State) (l : List (Nat × Nat × Nat)) : State := putAt 0x800000000000 s l
/-- A store and a load of the task on tile store. -/
def aStore : Access := { id := 1, party := .task 0, vd := 0, gen := 1, kind := .store, pa := 0x800000000200, size := 8, mask := 0xFF }
def aLoad : Access := { id := 2, party := .task 0, vd := 0, gen := 1, kind := .load, pa := 0x800000000208, size := 8 }
def withAccs (l : List Access) : State := { dev with accs := l, nextId := 9, seqNext := 3 }

theorem among_first (x : Access) : Among (withAccs [x]) [] x [] := ⟨rfl, by simp⟩

/-- The device with the fabric of tile 0 as given, and with the region as given. -/
def devFab (f : Fabric) : State := { dev with tile := { dev.tile with fab := f } }
def devReg (x : Region) (s : State) : State := { s with regions := [x] }
/-- VD 0 owns 8 by 8 tiles and the first granule, and maps its first GiB to itself in both stages. -/
def mapped (s : State) : State :=
  { putAt 0 s [(0x1000, 8, 0x2003), (0x2000, 8, 0xA0000000001FD), (0x3000, 8, 0x4003), (0x4000, 8, 0xA0000000001DD)] with
    vds := s.vds.setIfInBounds 0 { s.vd 0 with rect := 0x7070000, hbm := [0], s1root := 0x1001, s2root := 0x3001 } }

/-! ### Witnesses: each meets the hypotheses of a statement, clause by clause -/

/-- The agenda gives the core of tile 0 its turn, with a word at its pc. -/
def coming (s : State) (w : Word) : State :=
  { s.setCore { s.core with icache := [(s.core.pc, true, w)] } with agenda := [⟨1, .core 0 false⟩] }
/-- The state in which that turn begins. -/
def come (s : State) (w : Word) : State := { coming s w with agenda := [], cycle := 1 }

theorem test_witness_StepRunsDecodedInstruction :
    CoreTurn (coming dev 0x0005187000200000) 0 (come dev 0x0005187000200000) ∧
    WordAtPc (come dev 0x0005187000200000) 0x0005187000200000 (come dev 0x0005187000200000) ∧
    decode 0x0005187000200000 = .ok (.add g1 true 5 6 7) ∧
    (come dev 0x0005187000200000).mayIssue 0x0005187000200000 (.add g1 true 5 6 7) = true :=
  ⟨⟨by decide, ⟨1, [], rfl, rfl⟩, by decide, by decide⟩, .cached (0x7FFFFF000100, true, 0x0005187000200000) (by decide) (by decide), rfl,
    by decide⟩

/-- From tile store: the word at the pc is 0, which is NOP. -/
theorem test_witness_StepRunsDecodedInstruction_from_store :
    WordAtPc dev 0 (dev.setCore { dev.core with icache := [(0x7FFFFF000100, true, 0)] }) ∧ decode 0 = .ok .nop :=
  ⟨.store 0x100 0 (by decide) (by decide) (by decide) (by decide) (by decide), rfl⟩

/-- An instruction that has issued and goes on keeps its word, whatever its memory now says. -/
theorem test_witness_StepRunsDecodedInstruction_begun :
    let s := dev.setCore { dev.core with stepAt := some 1, opWord := 0x3C3830A34E000001 }
    WordAtPc s 0x3C3830A34E000001 s := .begun (by decide)

theorem test_witness_StepRunsAgendaEvent :
    let s : State := { dev with agenda := [⟨4, .event .ringPass⟩] }
    s.off = false ∧ isEvent .ringPass = true ∧ s.agenda = ⟨4, .event .ringPass⟩ :: [] := ⟨rfl, rfl, rfl⟩

theorem test_witness_StepFaultsOnBadWord :
    CoreTurn (coming dev 0xFC00000000000000) 0 (come dev 0xFC00000000000000) ∧
    decode 0xFC00000000000000 = .error .illegalEncoding ∧ HasHandler (come dev 0xFC00000000000000) :=
  ⟨⟨by decide, ⟨1, [], rfl, rfl⟩, by decide, by decide⟩, rfl, by unfold HasHandler; decide⟩

/-- The first offset behind tile store, and the first address that is not canonical. -/
theorem test_witness_StepFaultsOnBadWord_fetch :
    let a : State := dev.setCore { dev.core with pc := 0x7FFFFF100000 }
    let b : State := dev.setCore { dev.core with pc := 0x800000000000 }
    HasHandler a ∧ HasHandler b ∧ a.core.icache = [] ∧ a.core.pc.toNat = Config.localBase + Config.tileStore ∧
    canonical b.core.pc = false ∧ canonical 0x7FFFFFFFFFFF = true := by
  unfold HasHandler; decide

theorem test_witness_DecodeUndoesEncode :
    Instr.wf (.ld g1 .d .plain .tile 9 2 0 24) = true ∧
    encode (.ld g1 .d .plain .tile 9 2 0 24) = some 0x1009080300000018 ∧
    decode 0x1009080300000018 = .ok (.ld g1 .d .plain .tile 9 2 0 24) := ⟨rfl, rfl, rfl⟩

theorem test_witness_StepKeepsMemoryCanonical :
    Memory.wf (coming dev 0).mem = true ∧ ∃ t, step (coming dev 0) = .next t := ⟨rfl, _, rfl⟩

theorem test_witness_MachineNeverStopsWithPower :
    dev.off = false ∧ ({ dev with off := true } : State).off = true := ⟨rfl, rfl⟩

theorem test_witness_WrongLevelRaisesPrivilege_and_TransferAtLoopEndRaisesLoopTail :
    HasGuard (.eret g1) g1 ∧ mayExecute (.eret g1) dev.core.lvl dev.core.inH = false ∧ HasHandler dev ∧
    (let s := dev.setCore { dev.core with loops := [⟨0x7FFFFF0000F8, 0x7FFFFF000100, 1⟩] }
     HasGuard (.br g1 false 8) g1 ∧ isTransfer (.br g1 false 8) = true ∧ (∃ l ∈ s.core.loops, l.stop = s.core.pc) ∧
     HasHandler s) :=
  ⟨⟨rfl, 0x4800002000000000, rfl, rfl⟩, rfl, has_handler, ⟨rfl, 0x0800000000000008, rfl, rfl⟩, rfl, by decide,
    by unfold HasHandler; decide⟩

theorem test_witness_GuardsDecideTheEffect :
    HasGuard (.addImm ⟨0, true⟩ false 5 6 1) ⟨0, true⟩ ∧ isRep (.addImm ⟨0, true⟩ false 5 6 1) = false ∧
    mayExecute (.addImm ⟨0, true⟩ false 5 6 1) dev.core.lvl dev.core.inH = true ∧ dev.core.stepAt = none ∧
    dev.guard ⟨0, true⟩ = false :=
  ⟨⟨rfl, 0x0445180000000001, rfl, rfl⟩, rfl, rfl, rfl, by decide⟩

/-- Level counts 1 and 2 at the end, and a count of 0, 1, and the deepest stack. -/
theorem test_witness_LoopsPushTestAndSkip :
    Runs .all true g1 dev ∧ HasHandler dev ∧ loopCount dev 0 0 = 0 ∧ loopCount dev 0 1 ≠ 0 ∧ dev.core.loops.length < 2 ∧
    (let s := dev.setCore { dev.core with loops := [⟨0, 8, 1⟩, ⟨0, 16, 2⟩] }
     Runs .all true g1 s ∧ s.core.loops.length = 2) :=
  ⟨runs_all_transfer, has_handler, by decide, by decide, by decide, ⟨by decide, by decide, by decide⟩, by decide⟩

/-- No handler; in the handler; a cause that no handler takes; and each of the three ends. -/
theorem test_witness_UntakenFaultGoesOn :
    dev.core.task = some leadTask ∧ (dev.setCore { dev.core with trapv := 0 }).core.trapv = 0 ∧ devInH.core.inH = true ∧
    (dev.vd leadTask.vd).st ≠ .none ∧ leadTask.vd < 32 ∧ leadTask.role = .lead ∧ dev.region leadTask.region = some aRegion ∧
    ({ leadTask with role := .dispatcher } : Task).role = .dispatcher :=
  ⟨rfl, rfl, rfl, by decide, by decide, rfl, rfl, rfl⟩

/-- A dispatcher without a handler: its fault leaves it exiting, and with nothing outstanding it is ready to end. -/
theorem test_witness_UntakenFaultGoesOn_dispatcher :
    let k : Task := { role := .dispatcher, vd := 0 }
    let s := dev.setCore { dev.core with task := some k, owner := none, trapv := 0 }
    let t := s.raise 0x08 0 0x7FFFFF000100 0
    s.core.task = some k ∧ s.core.trapv = 0 ∧ (0x08 : BitVec 8) ≠ 0x0A ∧ k.vd < 32 ∧ Memory.wf s.mem = true ∧
    t.exitReady t.cur = true := by decide

theorem test_witness_ArithmeticWritesItsResult :
    Runs .all false g1 (devG 7 (-2) 0 0) ∧ (devG 7 (-2) 0 0).g 2 ≠ 0 ∧ (devG 7 (-2) 0 0).g 3 = 0 ∧
    HasHandler (devG 7 (-2) 0 0) :=
  ⟨⟨by decide, by decide, by decide⟩, by decide, by decide, by unfold HasHandler; decide⟩

/-- The last count of a W shift and the widest field. -/
theorem test_witness_LogicFieldsAndComparesWriteTheirResult :
    Runs .all false g1 dev ∧ (true = true → (31 : BitVec 6).toNat < 32) ∧ (0 : BitVec 6).toNat + (63 : BitVec 6).toNat < 64 :=
  ⟨runs_all, by decide, by decide⟩

/-- Aligned and misaligned targets, a condition that holds and one that does not. -/
theorem test_witness_BranchesGoToTheirTargets :
    let s := devG 0x7FFFFF000200 0x7FFFFF000204 0 0
    Runs .all true g1 s ∧ HasHandler s ∧ condition .ne (s.g 1) (s.g 2) = true ∧ condition .eq (s.g 1) (s.g 2) = false ∧
    (s.g 1 + (8 : BitVec 32).signExtend 64).toNat % 8 = 0 ∧ (s.g 2 + (8 : BitVec 32).signExtend 64).toNat % 8 ≠ 0 ∧
    (s.g 1).toNat % 8 = 0 ∧ (s.g 2).toNat % 8 ≠ 0 ∧ (2 : GReg) ≠ 0 :=
  ⟨⟨by decide, by decide, by decide⟩, by unfold HasHandler; decide, by decide, by decide, by decide, by decide, by decide,
    by decide, by decide⟩

/-- A REP of 2 with an ADD behind it, at its first repetition. -/
def rep2 : State := dev.setCore { dev.core with icache := [(0x7FFFFF000108, true, 0x0005187000200000)] }
theorem rep2_target : rep2.target = .word 0x0005187000200000 rep2 := rfl
theorem test_witness_RepRepeatsItsTarget :
    AtRepetition rep2 rep2 2 ⟨1, 0, 0, 0⟩ 0x0005187000200000 0 ∧ rep2.guard g1 = true ∧ HasHandler rep2 ∧
    decode (repWord 0x0005187000200000 ⟨1, 0, 0, 0⟩ 1) = .ok (.add g1 true 6 6 7) ∧ repBody (.eret g1) = none :=
  ⟨⟨rep2_target, .inl ⟨by decide, by decide, rfl⟩, by decide, fun j h => by
      match j, h with
      | 0, _ => exact ⟨_, _, rfl, rfl⟩
      | 1, _ => exact ⟨_, _, rfl, rfl⟩⟩, by decide, by unfold HasHandler; decide, rfl, rfl⟩
/-- A target whose fetch fails: the REP is the last word of tile store. -/
theorem test_witness_RepFaultsAtItself_fetch :
    (match (dev.setCore { dev.core with pc := 0x7FFFFF0FFFF8 }).target with
      | .fault c => c == 0x06
      | _ => false) = true := by decide

/-- A check in tile store of the issuing tile passes; so does one of a register slot that the level reaches. -/
theorem check_tile (s : State) (k : Asker) (l : Lvl) (u : Use) (va : Word) (n al off : Nat) (h1 : canonical va = true)
    (h2 : va.toNat % al = 0) (h3 : localOff va = some off) (h4 : s.area k.tile off = .store) (h5 : off + n ≤ Config.tileStore)
    (h6 : (u = .atomic && decide (Config.tiles ≤ k.tile)) = false) :
    s.check k l u va n al false false = .ok ⟨localPa k.tile off, 1, 3, 0, va.toNat, 1⟩ s := by
  have h7 : ¬Config.tileStore < off + n := by omega
  simp only [Bool.and_eq_false_iff, decide_eq_false_iff_not] at h6
  simp [State.check, h1, h2, h3, h4, h7, areaCheck]; exact fun h => h6.elim (absurd h) Nat.lt_of_not_le
theorem check_slot (s : State) (k : Asker) (l : Lvl) (u : Use) (va : Word) (al off : Nat) (h1 : canonical va = true)
    (h2 : va.toNat % al = 0) (h3 : localOff va = some off) (h4 : s.area k.tile off = .regs) (h5 : u ≠ .atomic)
    (h6 : slotRefused off l = false) :
    s.check k l u va 8 al false false = .ok ⟨localPa k.tile off, 1, 3, 0, va.toNat, 1⟩ s := by
  simp [State.check, h1, h2, h3, h4, h5, h6, areaCheck]

theorem test_witness_AccessChecksPassOrFaultInOrder :
    (∃ p, (devG (inTile 0x200) 0 0 0).check dev.me .u .read (inTile 0x200) 8 8 false false = .ok p (devG (inTile 0x200) 0 0 0)) ∧
    dev.me.tile = dev.cur ∧ Memory.wf dev.mem = true ∧ 0x7FFFFF000000 ≤ (inTile 0).toNat ∧ (inTile 0xFFFFFF).toNat ≤ 0x7FFFFFFFFFFF ∧
    Runs .all false g1 dev ∧ HasHandler dev :=
  ⟨⟨_, check_tile _ _ _ _ _ _ _ 0x200 (by decide) (by decide) (by decide) (by decide) (by decide) (by decide)⟩, rfl, rfl,
    by decide, by decide, runs_all, has_handler⟩

/-- Each clause at a boundary: the first address that is not canonical, the last of tile store plus one, both ends of the
hole, the first and the last g and v slot. -/
theorem test_witness_AccessChecksFault :
    let canon (a : Word) : Bool := (a.extractLsb' 47 17 == 0) || (a.extractLsb' 47 17 == BitVec.allOnes 17)
    let ea (a : Word) : Word := address (devG a 0 0 0) 1 0 8 0
    canon (ea 0x800000000000) = false ∧ canon (ea 0x7FFFFFFFFFFF) = true ∧ (ea 0x7FFFFFFFFFFF).toNat % 8 ≠ 0 ∧
    (ea (inTile 0x100000)).toNat % 8 = 0 ∧ 0x7FFFFF100000 ≤ (ea (inTile 0x100000)).toNat ∧
    (ea (inTile 0x3FFFF8)).toNat < 0x7FFFFF400000 ∧ 0x7FFFFF400000 ≤ (ea (inTile 0x400000)).toNat ∧
    (ea (inTile 0x4000F8)).toNat < 0x7FFFFF400100 ∧ bytesOf .w ≠ 8 ∧ bytesOf .d = 8 := by decide

theorem test_witness_LoadsAndStoresEnterOrderBuffer :
    let s := devG (inTile 0xFFFF8) 0 0 0
    Runs .all false g1 s ∧
    (∃ p, s.check s.me s.core.lvl .read (address s 1 0 (bytesOf .d) 0) (bytesOf .d) (bytesOf .d) false (Ord.plain == .sc) = .ok p s ∧
      ownSlots s.cur p.pa = false) ∧
    (∃ p, s.check s.me s.core.lvl .write (address s 1 0 (bytesOf .d) 0) (bytesOf .d) (bytesOf .d) false (Ord.plain == .sc) = .ok p s ∧
      ownSlots s.cur p.pa = false ∧ p.ignored s.core.lvl = false) :=
  ⟨⟨by decide, by decide, by decide⟩,
    ⟨_, check_tile _ _ _ _ _ _ _ 0xFFFF8 (by decide) (by decide) (by decide) (by decide) (by decide) (by decide), by decide⟩,
    ⟨_, check_tile _ _ _ _ _ _ _ 0xFFFF8 (by decide) (by decide) (by decide) (by decide) (by decide) (by decide), by decide, by decide⟩⟩

/-- A store that its level may not make: CAUSE, in the window of the own core, from U. -/
theorem test_witness_StoreIsIgnored :
    let s := devG (inTile (0x408000 + 8 * 0x040)) 0 0 0
    ∃ p, s.check s.me s.core.lvl .write (address s 1 0 8 0) 8 8 false false = .ok p s ∧ p.ignored s.core.lvl = true :=
  ⟨_, check_slot _ _ _ _ _ _ (0x408000 + 8 * 0x040) (by decide) (by decide) (by decide) (by decide) (by decide) (by decide),
    by decide⟩

theorem test_witness_AtomicEntersOrderBuffer :
    let s := devG (inTile 0x200) 0 0 0
    Runs .all false g1 s ∧
    ∃ p, s.check s.me s.core.lvl .atomic (address s 1 0 (bytesOf .w) 0) (bytesOf .w) (bytesOf .w) false (Ord.plain == .sc) = .ok p s :=
  ⟨⟨by decide, by decide, by decide⟩, _,
    check_tile _ _ _ _ _ _ _ 0x200 (by decide) (by decide) (by decide) (by decide) (by decide) (by decide)⟩

/-- The last register or word of every group of slots, the lead's first table word, and an empty and a filled queue. -/
theorem test_witness_OwnRegisterSlotAccess :
    let s := devG (inTile 0x4000F8) 0 0 0
    Runs .all false g1 s ∧ s.cur < 4104 ∧ s.accsOf (.task s.cur) = [] ∧ s.core.pend = [] ∧ Ord.plain ≠ .sc ∧
    address s 1 0 8 0 = BitVec.ofNat 64 (Config.localBase + 0x4000F8) ∧ 0x4000F8 = 0x400000 + 8 * (31 : GReg).val :=
  ⟨⟨by decide, by decide, by decide⟩, by decide, rfl, rfl, by decide, by decide, rfl⟩
theorem test_witness_OwnRegisterSlotAccess_registers :
    (0x4017F8 = 0x401000 + 128 * (15 : VReg).val + 8 * 15) ∧ (0x402038 = 0x402000 + 8 * (7 : PReg).val) ∧
    (0x403038 = 0x403000 + 32 * (1 : Fin 2).val + 8 * 3) ∧ (0x405FF8 = 0x404000 + 1024 * (7 : AReg).val + 8 * 127) ∧
    dev.core.fBit 7 = false ∧ 0x040 ∈ srnListed ∧ 0x044 ∈ srnListed ∧ registerReached 0x040 .u = true ∧
    srReadOnly .u 0x040 = true ∧ registerReached 0x040 .h = true ∧ srReadOnly .s 0x040 = false ∧
    srReadOnly .u 0x010 = false ∧ srValueOk 0x010 4 = false ∧ srValueOk 0x010 3 = true ∧ registerReached 0x044 .u = false := by
  decide
theorem test_witness_OwnRegisterSlotAccess_windows :
    SlotHolds dev 0x4000F8 (dev.g 31) ∧ SlotHolds dev 0x402000 1 ∧ SlotHolds dev 0x401048 0 ∧ SlotHolds dev 0x50E400 0 ∧
    SlotHolds dev 0x60F000 0 ∧ SlotHolds dev 0x60FF00 0 :=
  ⟨.general 31, .predicate 0, .token 0 0x48 0 (.rest 9 (by decide)), .control 0 aRegion ⟨by decide, by decide, by decide⟩,
    .empty 15 0 (by decide) (.inl (by decide)), .count 15 (by decide) (by decide)⟩

theorem apart : ¬WaitsFor (withAccs [aStore, aLoad]) aLoad aStore := by
  intro h
  cases h with
  | unit _ _ u => obtain ⟨t, n, e⟩ := u; cases e
  | so _ _ k => exact absurd k (by decide)
  | rc _ _ _ b => obtain ⟨n, h1, h2, h3, h4⟩ := b; simp [aStore, aLoad] at h1 h2 h3 h4; omega
  | sc _ _ o => simp [aStore, aLoad] at o
  | acquire _ _ r => exact r.elim (fun h => by cases h) (fun h => h.elim fun _ h => by cases h)
  | release _ _ w => exact w.elim (fun h => by cases h) (fun h => h.elim fun _ h => by cases h)
  | full k => cases k
  | rel k => cases k
  | acq k => cases k

/-- A load beside a store of the task, which leaves, and one that shares a byte with it, which waits. -/
theorem test_witness_AccessLeavesUnlessHeld :
    Among (withAccs [aStore, aLoad]) [aStore] aLoad [] ∧ aLoad.st = .buffered ∧ ¬isFence aLoad ∧ 0 < aStore.size ∧
    aLoad.id ∉ aLoad.after ∧ ¬WaitsFor (withAccs [aStore, aLoad]) aLoad aStore ∧
    WaitsFor (withAccs [aStore, { aLoad with pa := 0x800000000207 }]) { aLoad with pa := 0x800000000207 } aStore :=
  ⟨⟨rfl, by simp [aStore, aLoad]⟩, rfl, (fun h => h.elim fun _ h => by cases h), by decide, by decide, apart,
    .rc (fun h => h.elim fun _ h => by cases h) (by decide) (by decide) ⟨0x800000000207, by decide, by decide, by decide, by decide⟩⟩

/-- A pre-condition that stands and one that is done; two UO stores of one block, whose bytes meet, and which may merge. -/
def uoA : Access := { aStore with page := 2, id := 3, pa := 0x1200, size := 8, mask := 0xFFFF }
def uoB : Access := { aStore with page := 2, id := 4, pa := 0x1201, size := 1, mask := 0xFF }
theorem uo_apart : ¬WaitsFor (withAccs [uoA, uoB]) uoB uoA := by
  intro h
  cases h with
  | unit _ _ u => obtain ⟨t, n, e⟩ := u; cases e
  | so _ _ k => exact absurd k (by decide)
  | rc _ _ k => exact absurd k (by decide)
  | sc _ _ o => simp [uoA, uoB, aStore] at o
  | acquire _ _ r => exact r.elim (fun h => by cases h) (fun h => h.elim fun _ h => by cases h)
  | release _ _ _ a => simp [uoB, aStore] at a
  | full k => cases k
  | rel k => cases k
  | acq k => cases k
theorem test_witness_AccessLeavesUnlessHeld_merge :
    Among (withAccs [uoA, uoB]) [] uoA [uoB] ∧ UoStore uoA ∧ UoStore uoB ∧ plainHome uoA.pa ∧ uoB.party = uoA.party ∧
    uoA.id < uoB.id ∧ uoB.pa / 64 = uoA.pa / 64 ∧ uoB.cls = uoA.cls ∧ uoB.win = uoA.win ∧ ¬unorderedParty uoA.party ∧
    ¬WaitsFor (withAccs [uoA, uoB]) uoB uoA ∧ AfterDone (withAccs [uoA, uoB]) uoA ∧
    ¬AfterDone (withAccs [uoA, uoB]) { uoB with after := [3] } ∧ unorderedParty (.thread 7) :=
  ⟨⟨rfl, by simp [uoA, uoB, aStore]⟩, ⟨rfl, by decide, (fun _ h => by cases h), by decide, by decide, by decide⟩,
    ⟨rfl, by decide, (fun _ h => by cases h), by decide, by decide, by decide⟩, .inl (by decide), rfl, by decide, by decide, rfl, rfl,
    (fun h => h.elim (fun h => h.elim fun _ h => by cases h) (fun h => h.elim fun _ h => h.elim fun _ h => by cases h)),
    uo_apart, by unfold AfterDone; decide, by unfold AfterDone; decide, .inl ⟨7, rfl⟩⟩

theorem test_witness_FencesEnterAndLeave :
    let x : Access := { id := 5, party := .task 0, kind := .fence .full }
    Runs .all false g1 dev ∧ Among (withAccs [aStore, x]) [aStore] x [] ∧ x.st = .buffered ∧ x.kind = .fence .full ∧ x.after = [] ∧
    keepsFence (withAccs [aStore, x]) .full x aStore ∧
    ¬keepsFence (withAccs [aStore, x]) .full x { aStore with st := .performed } :=
  ⟨runs_all, ⟨rfl, by simp [aStore]⟩, rfl, rfl, rfl,
    ⟨(fun h => h.elim fun _ h => by cases h), by decide, by decide, (fun h => by cases h), (fun h => by cases h)⟩,
    fun h => h.2.1 rfl⟩

theorem test_witness_QueuesAndWheelsMoveAccesses :
    let x : Access := { aLoad with st := .queued, pa := 0, needs := [(0, 1)] }
    Among (withAccs [x]) [] x [] ∧ x.st = .queued ∧ ({ x with needs := [] } : Access).needs = [] ∧
    x.needs = (0, 1) :: [] ∧ ((0, 1), (withAccs [x]).cycle / 4) ∉ (withAccs [x]).wheelUsed ∧
    ((withAccs [x]).groupNow (0, 1) x).isSome = true ∧
    OneQueue aLoad { aLoad with id := 3 } ∧ (withAccs [x]).groupNow (0, 1) { x with cls := 0, vd := 40 } ≠ some 0 :=
  ⟨among_first _, rfl, rfl, rfl, by decide, by decide, ⟨rfl, rfl, rfl⟩, by decide⟩

theorem test_witness_NodePerformsAccess :
    let x : Access := { aStore with st := .arrived }
    Among (withAccs [x]) [] x [] ∧ x.st = .arrived ∧ x.ord ≠ .sc ∧ plainHome x.pa ∧ (withAccs [x]).stalled x.pa = false ∧
    ¬Overdue (withAccs [x]) x ∧ Memory.wf (withAccs [x]).mem = true ∧ (withAccs [x]).isBad x.pa = false ∧ x.size ≤ 64 ∧ x.kind = .store ∧ plainHome 0 ∧
    ({ x with kind := .atom .fadd, size := 2 } : Access).size = 2 :=
  ⟨among_first _, rfl, by decide, .inr (by decide), by decide, by unfold Overdue; decide, rfl, by decide, by decide, rfl,
    .inl (by decide), rfl⟩
/-- A failing block that a store covers, whose counters verify. -/
theorem test_witness_NodePerformsAccess_covering :
    let x : Access := { aStore with st := .arrived, pa := 0x1000, size := 64, mask := BitVec.allOnes 512 }
    let s : State := { withAccs [x] with bad := [0x40] }
    x.kind = .store ∧ x.size = 64 ∧ x.mask = BitVec.allOnes 512 ∧ s.ctrBad x.pa = false ∧ s.isBad x.pa = true :=
  ⟨rfl, rfl, rfl, by decide, by decide⟩

theorem test_witness_ReplyWritesRegister :
    let x : Access := { aLoad with st := .performed, val := 0x80 }
    let s : State := (withAccs [x]).setCore { dev.core with pend := [⟨.g 5 8 false, [(2, 0)], 0⟩] }
    Among s [] x [] ∧ x.st = .performed ∧ x.party = .task s.cur ∧ s.core.owner = some (x.vd, x.gen) ∧
    s.core.pend = [] ++ ⟨.g 5 8 false, [(x.id, 0)], 0⟩ :: [] ∧ x.size = 8 ∧ some (1, (1 : BitVec 16)) ≠ some (x.vd, x.gen) ∧
    (∃ b ∈ [{ x with id := 1, pa := 0x800000000210 }], b.st = .performed ∧ OneQueue b x ∧ b.seq < ({ x with seq := 1 } : Access).seq) :=
  ⟨⟨rfl, by simp⟩, rfl, rfl, rfl, rfl, rfl, by decide, _, List.mem_singleton.2 rfl, rfl, ⟨rfl, by decide, rfl⟩, by decide⟩

theorem test_witness_DeviceWalksAndLimits :
    let x : Access := { aLoad with st := .queued, born := 0 }
    let s : State := { withAccs [x] with cycle := 700001 }
    Among s [] x [] ∧ x.st = .queued ∧ x.vd < 32 ∧ x.born + 700000 < s.cycle ∧ (s.vd x.vd).st ≠ .none ∧
    (withAccs [x]).cycle ≤ x.born + 700000 :=
  ⟨⟨rfl, by simp⟩, rfl, by decide, by decide, by decide, by decide⟩
theorem test_witness_DeviceWalksAndLimits_walks :
    dev.core.status = .run ∧ dev.core.ofVd < 32 ∧ (dev.vd dev.core.ofVd).st ≠ .none ∧ canonical 0x100 = true ∧ localOff 0x100 = none ∧
    errWith (dev.walk2 0 true .write 0x100) (fun e => e == .fault cTranslation) = true ∧
    okWith ((mapped dev).walk2 0 true .read 0x100) (fun _ => true) = true := by decide

/-- A WAITA whose word meets its condition (0 = 0), one whose word does not, and the last doubleword of tile store. -/
theorem test_witness_WaitaSleepsUntilSatisfied :
    let s := devG (inTile 0xFFFF8) 0 1 0
    Runs .all false g1 s ∧ HasHandler s ∧ s.cur < Config.tiles ∧ inStore (s.g 1) ∧ ¬inStore (inTile 0x100000) ∧
    (s.g 1).toNat % 8 = 0 ∧ (inTile 4).toNat % 8 ≠ 0 ∧ s.accs = [] ∧
    waitCond .eq (valueAt s.mem (localPa s.cur ((s.g 1).toNat - 0x7FFFFF000000)) 8) (s.g 2).toNat ∧
    ¬waitCond .eq (valueAt s.mem (localPa s.cur ((s.g 1).toNat - 0x7FFFFF000000)) 8) (s.g 3).toNat :=
  ⟨⟨by decide, by decide, by decide⟩, by unfold HasHandler; decide, by decide, by unfold inStore; decide,
    by unfold inStore; decide, by decide, by decide, rfl, by unfold waitCond; decide, by unfold waitCond; decide⟩

theorem test_witness_WaitaWakes :
    let y : Access := { aStore with st := .arrived }
    let s : State := (withAccs [y]).setCore { dev.core with status := .asleep 0x800000000200 8 .ne 0 false }
    s.core.status = .asleep 0x800000000200 8 .ne 0 false ∧ Among s [] y [] ∧ plainHome y.pa ∧ y.mask ≠ 0 ∧ ¬Overdue s y ∧
    y.pa < 0x800000000200 + 8 ∧ 0x800000000200 < y.pa + y.size ∧ (s.tileAt 0).core.status = .asleep 0x800000000200 8 .ne 0 false :=
  ⟨rfl, ⟨rfl, by simp⟩, .inr (by decide), by decide, by unfold Overdue; decide, by decide, by decide, rfl⟩

/-- An episode still open (the region has two started tasks, one has arrived), and one that closes at a count of 1. -/
theorem test_witness_BarrierArrivesAndCloses :
    Runs .us false g1 dev ∧ dev.accs = [] ∧ dev.core.barAt = none ∧ dev.barDue (dev.barHome dev.cur) 0 = false ∧
    dev.regionAt 0 = some 0 ∧ (dev.setCore { dev.core with barAt := some (0, dev.core.pc, true) }).core.barAt = some (0, dev.core.pc, true) ∧
    (let x := { aRegion with bars := aRegion.bars.set 3 { count := 1, arrivals := 1 } }
     x.bars[(3 : BitVec 4).toFin].count = 1 ∧ 0 < x.bars[(3 : BitVec 4).toFin].arrivals ∧
     x.bars[(2 : BitVec 4).toFin].arrivals = 0) :=
  ⟨runs_us, rfl, rfl, by decide, by decide, rfl, by decide, by decide, by decide⟩

/-! Tokens: three FP32 registers, one of another tag, an IDX32 register, a CB4 one; a table that is and one that is not
pending. -/
def fp (l : BitVec 512) (valid : BitVec 16 := 0xFFFF) : Token := { fmt := Fmt.fp32.tag, valid, lanes := l }
def devF : State := devV (fp 0x3F800000) (fp 0x40000000 0x7FFF) (fp 0)

theorem test_witness_TokenArithmeticWritesItsResult :
    Runs .all false g1 devF ∧ laneFmt .fp32 = true ∧ (devF.v 1).fmt = Fmt.fp32.tag ∧ (devF.v 2).fmt = Fmt.fp32.tag ∧
    (devF.v 3).fmt = Fmt.fp32.tag ∧ intFmt .fp32 = false ∧
    (let s := devV { fmt := Fmt.int8.tag, valid := 1 } { fmt := Fmt.int8.tag } { fmt := Fmt.int8.tag }
     Runs .all false g1 s ∧ (s.v 1).fmt = Fmt.int8.tag ∧ (s.v 2).fmt = Fmt.int8.tag ∧ (s.v 3).fmt = Fmt.int8.tag ∧
     laneFmt .int8 = true ∧ intFmt .int8 = true) :=
  ⟨⟨by decide, by decide, by decide⟩, by decide, by decide, by decide, by decide, by decide,
    ⟨by decide, by decide, by decide⟩, by decide, by decide, by decide, by decide, by decide⟩

theorem test_witness_ConversionsAndReductionsWriteTheirResult :
    Runs .all false g1 devF ∧ (devF.v 1).fmt = Fmt.fp32.tag ∧ Fmt.fp32 ∉ [Fmt.cb4, .cb3, .idx32, .bits] ∧
    (devF.v 2).fmt = Fmt.fp32.tag ∧ Fmt.fp32 ∈ [Fmt.fp32, .bf16, .fp16] ∧ laneFmt .fp32 = true ∧
    (let s := devV { fmt := Fmt.int8.tag } { fmt := Fmt.e8m0.tag } {}
     Runs .all false g1 s ∧ (s.v 1).fmt = Fmt.int8.tag ∧ (s.v 2).fmt = Fmt.e8m0.tag ∧ Fmt.int8.isNarrow = true) :=
  ⟨⟨by decide, by decide, by decide⟩, by decide, by decide, by decide, by decide, by decide,
    ⟨by decide, by decide, by decide⟩, by decide, by decide, by decide⟩

def e4m3 : FloatFmt := ⟨4, 3, 7, .e4m3⟩
/-- FP8.E4: 1 comes out exactly, 2^-20 is tiny, 2^200 lies past the largest code. -/
theorem test_witness_RoundingIsNearest :
    Fmt.float .fp8e4 = some e4m3 ∧ e4m3.round false 1 1 0 .rne false = (0x38, 0) ∧
    e4m3.round false 1 1 (-20) .rne false = (0, 0x18) ∧ e4m3.round true 1 1 200 .rne false = (0xFE, 0x14) ∧
    roundsAt e4m3 false (2 ^ 9) 1 .rne 0x38 :=
  ⟨rfl, by decide, by decide, by decide, by unfold roundsAt magnitude; decide⟩

/-- Each kind of value and of scale, and each kind of target. -/
theorem test_witness_ConversionValues :
    Fmt.float .bf16 = some bf16f ∧ Fmt.value .fp32 0x3F800000 = .fin false 0x800000 (-23) ∧ Fmt.value .fp32 0xFF800000 = .inf true ∧
    Fmt.value .fp32 0x7FC00000 = .nan false false ∧ Fmt.range .int8 = some (-128, 127) ∧ Fmt.range .fp32 = none ∧
    (XVal.fin false 0 0).isZero = true ∧ Fmt.value .e8m0 0xFF = .nan false false ∧ (Fmt.float .fp4).isSome = true ∧
    2 ^ 23 ≤ 0x800000 ∧ 0x800000 < 2 ^ 24 := ⟨rfl, by decide, by decide, by decide, rfl, rfl, rfl, by decide, rfl, by decide, by decide⟩

/-- FP32: a zero, 2, 4, a negative number. -/
theorem test_witness_SpecialFunctionValues :
    Fmt.value .fp32 0x80000000 = .fin true 0 f32.qmin ∧ Fmt.value .fp32 0x40000000 = .fin false (2 ^ 23) (-22) ∧
    fraction (2 ^ 23) (-22) = (2 ^ 23, 2 ^ 22) ∧ Fmt.value .fp32 0x40800000 = .fin false (2 ^ 23) (-21) ∧ (23 : Int) + -21 = 2 * 1 ∧
    Fmt.value .fp32 0xC0000000 = .fin true (2 ^ 23) (-22) :=
  ⟨by decide, by decide, by decide, by decide, by decide, by decide⟩

/-- The last part of VUNPK and VPACK, a destination of BITS and one of no tag, and CB4 with a table pending and not. -/
theorem test_witness_TokenMovesWriteTheirResult :
    Runs .all false g1 devF ∧ (devF.v 1).fmt = Fmt.fp32.tag ∧ (devF.v 2).fmt ≠ 0 ∧ (devF.v 2).fmt.toNat ≤ 0x14 ∧
    laneFmt .fp32 = true ∧
    (let s := devV { fmt := 0x14 } { fmt := 0x13 } { fmt := Fmt.int8.tag }
     Runs .all false g1 s ∧ (s.v 1).fmt = 0x14 ∧ (s.v 2).fmt = 0x13 ∧ (s.v 3).fmt = Fmt.int8.tag ∧ (s.v 4).fmt = 0 ∧
     Fmt.int8.width = 8 ∧ (3 : BitVec 3).toNat < 32 / Fmt.int8.width) ∧
    (let s := devV { fmt := Fmt.cb4.tag } {} {}
     Runs .all false g1 s ∧ (s.v 1).fmt = Fmt.cb4.tag ∧ s.core.tbPend.getLsbD 1 = false ∧
     (s.setCore { s.core with tbPend := 2 }).core.tbPend.getLsbD 1 = true) :=
  ⟨⟨by decide, by decide, by decide⟩, by decide, by decide, by decide, by decide,
    ⟨⟨by decide, by decide, by decide⟩, by decide, by decide, by decide, by decide, by decide, by decide⟩,
    ⟨by decide, by decide, by decide⟩, by decide, by decide, by decide⟩

/-- Each source in turn has the wrong tag. -/
theorem test_witness_WrongTagTraps :
    Runs .all false g1 devF ∧ HasHandler devF ∧ (devF.v 1).fmt ≠ Fmt.bf16.tag ∧ (devF.v 4).fmt = 0 ∧ (devF.v 1).fmt ≠ 0x14 ∧
    (devF.v 2).fmt ≠ 0x13 ∧ (devF.v 1).fmt = Fmt.fp32.tag ∧ (devF.v 4).fmt ≠ Fmt.fp32.tag ∧ (devF.v 2).fmt = Fmt.fp32.tag ∧
    (devF.v 3).fmt ≠ 0x14 ∧ (devF.v 3).fmt ≠ 0 :=
  ⟨⟨by decide, by decide, by decide⟩, by unfold HasHandler; decide, by decide, by decide, by decide, by decide, by decide,
    by decide, by decide, by decide, by decide⟩

/-- 64 bytes that cross a block boundary (two parts), lanes 0 and 15 of an index register, no lane of another, and an
address outside tile store, whose part fails. -/
def devX : State :=
  (devV { fmt := Fmt.idx32.tag, valid := 0x8001, lanes := 4 } { fmt := Fmt.fp32.tag, valid := 3 } { fmt := Fmt.idx32.tag }).setCore
    { (devV { fmt := Fmt.idx32.tag, valid := 0x8001, lanes := 4 } { fmt := Fmt.fp32.tag, valid := 3 } { fmt := Fmt.idx32.tag }).core
      with g := ((dev.core.g.set 1 (inTile 0x220)).set 2 (inTile 0x100000)) }
theorem test_witness_VectorMemoryIssuesParts :
    Runs .all false g1 devX ∧ HasHandler devX ∧ (devX.v 1).fmt = 0x13 ∧ (devX.v 2).fmt = Fmt.fp32.tag ∧ (devX.v 3).fmt = 0x13 ∧
    lanesOn (devX.v 1) = [0, 15] ∧ lanesOn (devX.v 3) = [] ∧ 8 ≤ Fmt.fp32.width ∧
    okWith (devX.checkParts .read 4 true (blocks (address devX 1 0 64 0) 64)) (fun r => r.1.length == 2) = true ∧
    okWith (devX.checkParts .write 4 true (blocks (address devX 1 0 64 0) 64)) (fun r => r.1.length == 2) = true ∧
    okWith (devX.checkParts .read 4 true (laneBlocks devX .fp32 1 (devX.v 1) 0 [0, 15])) (fun r => r.1.length == 2) = true ∧
    okWith (devX.checkParts .write 4 true (laneBlocks devX .fp32 1 (devX.v 1) 0 [0])) (fun r => r.1.length == 1) = true ∧
    errWith (devX.checkParts .read 4 true (blocks (address devX 2 0 64 0) 64))
      (fun e => match e with
        | .trap c _ => !untakable c
        | _ => false) = true :=
  ⟨⟨by decide, by decide, by decide⟩, by unfold HasHandler; decide, by decide, by decide, by decide, by decide, by decide,
    by decide, by decide, by decide, by decide, by decide, by decide⟩

/-- A descriptor of FP32 with POFF 32, room for 128 bytes and a record of one lane (LENGTH 6), and a token with lane 0
nonzero. A CAPACITY of 8 would be too small. -/
def devZ : State :=
  let s := devV (fp 0x3F800000) {} {}
  put (s.setCore { s.core with g := s.core.g.set 1 (inTile 0x200) })
    [(0x200, 8, 0x8000000001), (0x208, 8, 0x600000010), (0x210, 8, 0x20), (0x220, 6, 0x3F8000000001)]
/-- The three doublewords of that descriptor as read, and the mask of its record. -/
def descNum : Nat := 0x8000000001 + 0x600000010 * 2 ^ 64 + 0x20 * 2 ^ 128
def devZ1 : State := devZ.setCore { devZ.core with readings := [⟨[], descNum⟩] }
def devZ2 : State := devZ.setCore { devZ.core with readings := [⟨[], descNum⟩, ⟨[], 1⟩] }
theorem test_witness_SparseRecordsAreWrittenAndRead :
    Runs .us false g1 devZ ∧ HasHandler devZ ∧ (devZ.g 1).toNat % 8 = 0 ∧ (devZ.g 1 + 4).toNat % 8 ≠ 0 ∧ devZ.core.readings = [] ∧
    devZ.accs = [] ∧ (devZ.v 1).fmt = Fmt.fp32.tag ∧
    okWith (devZ.checkParts .read 8 false [(devZ.g 1, 8, 0), (devZ.g 1 + 8, 8, 8), (devZ.g 1 + 16, 8, 16)])
      (fun r => r.1.length == 3) = true ∧
    (devZ.setCore { devZ.core with readings := [⟨[(1, 0)], 0⟩] }).core.readings = [] ++ [⟨[(1, 0)], 0⟩] :=
  ⟨⟨by decide, by decide, by decide⟩, by unfold HasHandler; decide, by decide, by decide, rfl, rfl, by decide, by decide, rfl⟩
theorem test_witness_SparseRecordsAreWrittenAndRead_descriptor :
    devZ1.core.readings = [⟨[], descNum⟩] ∧
    descriptor .fp32 (BitVec.ofNat 64 descNum) (BitVec.ofNat 64 (descNum / 2 ^ 64)) (BitVec.ofNat 64 (descNum / 2 ^ 128)) 128 16 6 32 ∧
    present (devZ.v 1) .fp32 = [0] ∧ 6 + recordLen .fp32 1 ≤ 128 ∧ 8 < 6 + recordLen .fp32 1 ∧
    okWith (devZ1.checkParts .write 1 true (blockParts 3 (devZ.g 1 + 38) 6 0)) (fun r => r.1.length == 1) = true ∧
    okWith (devZ1.checkParts .write 8 false [(devZ.g 1 + 8, 8, 0)]) (fun r => r.1.length == 1) = true ∧
    (devZ1.g 2).toNat = 0 ∧ okWith (devZ1.checkParts .read 1 true (blockParts 2 (devZ.g 1 + 32) 2 0)) (fun r => r.1.length == 1) = true :=
  ⟨rfl, by unfold descriptor; decide, by decide, by decide, by decide, by decide, by decide, by decide, by decide⟩
theorem test_witness_SparseRecordsAreWrittenAndRead_mask :
    devZ2.core.readings = [⟨[], descNum⟩, ⟨[], 1⟩] ∧ (maskLanes 1).length = 1 ∧ 0 + recordLen .fp32 1 ≤ 6 ∧
    (maskLanes 0).length = 0 ∧ 6 < 2 + recordLen .fp32 1 ∧
    okWith (devZ2.checkParts .read 1 true (blockParts 3 (devZ.g 1 + 34) 4 0)) (fun r => r.1.length == 1) = true :=
  ⟨rfl, by decide, by decide, by decide, by decide, by decide⟩

/-- A first doubleword with CAPACITY odd is in no well-formed descriptor. -/
theorem test_witness_SparseRecordsAreWrittenAndRead_malformed : ∀ cap count len poff, ¬descriptor .fp32 0x100000001 0x10 0x20 cap count len poff := by
  rintro _ _ _ _ ⟨_, _, h, _, _, _, _, k, _⟩
  subst h
  exact absurd k (by decide)

/-! ### Fabric fixtures -/

/-- An operator frame (R133), its parameters from P0 on; ctl is 2 for a control input, 1 for a control output. -/
def slotFrame (kind ins outs ctl rate : Nat) (p : List Nat) : BitVec 256 :=
  BitVec.ofNat 256 (kind * 2 ^ 236 + ins * 2 ^ 232 + outs * 2 ^ 230 + ctl * 2 ^ 228 + rate * 2 ^ 224 +
    p.foldr (fun x r => x + r * 2 ^ 32) 0)
def slotOf (f : BitVec 256) : Slot := { frame := f, on := true, p := Vector.ofFn fun j => slotParam f j }
/-- Input ports 0 and 7 take tokens from slot outputs, output ports 0 and 7 feed inputs 0 and 1 of slot 0. -/
def ported : Fabric :=
  { sw := #v[0, 0, BitVec.ofNat 256 (35 * 2 ^ 234 + 42 * 2 ^ 228), BitVec.ofNat 256 (17 * 2 ^ 126 + 17 * 2 ^ 84)] }
def bits1 : Token := { fmt := 0x14, valid := 3, lanes := 5, ls := true }

/-- A port that is bound, empty, with a token, and one that is not; the boundary table of a crown tile with no valid entry;
a token with LS and one without. -/
theorem test_witness_CorePortsMoveTokens :
    let s := devFab { ported with inQ := ported.inQ.set 0 [bits1] }
    let b := devReg { aRegion with btCtl := 3 } (devFab { ported with inQ := ported.inQ.set 7 [bits1] })
    Runs .us false g1 s ∧ HasHandler s ∧ s.tile.fab.bound 0 = true ∧ s.tile.fab.bound 7 = true ∧ s.tile.fab.bound 1 = false ∧
    s.tile.fab.bound 8 = true ∧ s.tile.fab.bound 15 = true ∧ s.tile.fab.bound 9 = false ∧
    s.tile.fab.inQ[(0 : Fin 8)] = bits1 :: [] ∧ bits1.kind ≠ .mark ∧ bits1.ls = true ∧ s.tile.fab.inQ[(7 : Fin 8)] = [] ∧
    tagAt s true 0 bits1 = some 0 ∧ tagAt s true 7 bits1 = some 0 ∧
    HasHandler b ∧ tagAt b true 7 bits1 = none ∧ tagAt b false 7 (sends b (.g 1) false false) = none ∧
    mayPush s 0 {} ∧ ({ kind := .mark, pm := true } : Token).pm = true :=
  ⟨⟨by decide, by decide, by decide⟩, by unfold HasHandler; decide, by decide, by decide, by decide, by decide, by decide,
    by decide, by decide, by decide, by decide, by decide, by decide, by decide, by unfold HasHandler; decide, by decide,
    by decide, ⟨by decide, (fun a h => by cases h), fun r x h1 h2 => by
      have k : dev.regionAt dev.cur = some 0 := by decide
      have e : r = 0 := by
        have : dev.regionAt dev.cur = some r := h1
        rw [k] at this; exact (Option.some.inj this).symm
      subst e
      cases h2
      decide⟩, rfl⟩

/-- MAP of FP32 with its control input, a parameter in range and the first index past it, an empty and a full kill queue. -/
def mapFrame : BitVec 256 := slotFrame 0 1 1 2 0 [1, 0x3F800000]
def devEl : State :=
  let s := devFab { slots := #v[slotOf mapFrame, {}, {}, {}]
                    ags := #v[{ on := true, f0 := BitVec.ofNat 256 (2 ^ 237) }, {}]
                    sw := #v[0, 0, 0, BitVec.ofNat 256 (1 * 2 ^ 32)]
                    ctl := { kills := [(3, 5)] } }
  s.setCore { s.core with g := ((s.core.g.set 1 0x01000000).set 2 0x30000).set 3 0x40 }
theorem test_witness_ElementsAreReadAndWritten :
    Runs .us false g1 devEl ∧ HasHandler devEl ∧ InRegion devEl 0 aRegion ∧ elementAddr aRegion (devEl.g 1) ∧
    elementAddr aRegion (devEl.g 2) ∧ ¬elementAddr aRegion (devEl.g 3) ∧ elCls (devEl.g 1) = 0 ∧ elIx (devEl.g 1) = 0 ∧
    elPar (devEl.g 1) = 1 ∧ (devEl.tile.fab.slot 0).on = true ∧ (devEl.g 0) >>> 32 = 0 ∧
    (devEl.tile.fab.slot 0).valueOk 1 0x40000000 = true ∧ (devEl.tile.fab.slot 0).idle = true ∧
    setOk (devEl.tile.fab.slot 0) 1 0x40000000 ∧ (devEl.tile.fab.slot 0).par = [] ∧
    takesKill (devEl.tile.fab.slot 0).frame = true ∧ (0x00FF0003 : Word) &&& 0xFFFFFFFFF000F000 = 0 ∧
    (devEl.tile.fab.slot 0).ctl.kills.length < 8 ∧
    elCls (devEl.g 2) = 3 ∧ elIx (devEl.g 2) < 2 ∧ elPar (devEl.g 2) < 5 ∧ (devEl.tile.fab.ag 0).on = true ∧
    (devEl.tile.fab.ag 0).valueOk 0 0xFFFFFFFFFFFF = true ∧ (devEl.tile.fab.ag 0).running = false ∧
    devEl.tile.fab.ctlSource 8 ≠ 0 ∧ devEl.tile.fab.ctl.kills = (3, 5) :: [] :=
  ⟨⟨by decide, by decide, by decide⟩, by unfold HasHandler; decide, ⟨by decide, rfl, by decide⟩,
    by unfold elementAddr; decide, by unfold elementAddr; decide, by unfold elementAddr; decide, by decide, by decide,
    by decide, by decide, by decide, by decide, by decide, by unfold setOk; decide, by decide, by decide, by decide,
    by decide, by decide, by decide, by decide, by decide, by decide, by decide, by decide, by decide⟩

/-- PARAM tokens before a PARW.DEF: one that the slot accepts and one that it does not; a SCORE slot with its segments. -/
theorem test_witness_ElementsAreReadAndWritten_due :
    asksWell { kind := .param, lanes := 6 } ∧ ¬asksWell { kind := .param, lanes := 7 } ∧
    segmented (slotOf (slotFrame 2 3 1 0 0 [0x20000])) ∧ ¬segmented (slotOf mapFrame) := by
  unfold asksWell segmented; decide

/-- An image with no frames for the region: its header with CRC32C 0; one whose magic is wrong; an image of another width. -/
def header (w : Nat) : BitVec 256 := BitVec.ofNat 256 (0xFFFF * 2 ^ 240 + 2 ^ 232 + w * 2 ^ 224 + 2 ^ 216)
theorem test_witness_ConfigurationAndQuiet :
    let s := devG (inTile 0x200) (inTile 0x210) 0 0
    Runs .us false g1 s ∧ HasHandler s ∧ InRegion s 0 aRegion ∧ aRegion.quiet = true ∧ s.quietNow 0 = true ∧ s.accs = [] ∧
    aRegion.crown = s.cur ∧ (s.g 1).toNat % 32 = 0 ∧ (s.g 2).toNat % 32 ≠ 0 ∧ (s.g 3) = 0 ∧ s.g 1 ≠ 0 ∧
    ({ aRegion with place := some (1, 0) } : Region).crown ≠ s.cur ∧ ({ aRegion with quiet := false } : Region).quiet ≠ true ∧
    headerOk 0 = false ∧ headerOk (header 2) = true ∧ ((header 2 >>> 200).setWidth 16).toNat = 0 ∧
    loaderCheck 2 1 0 (header 2) [] = none ∧ loaderCheck 2 1 0 (header 3) [] = some (3, 0) :=
  ⟨⟨by decide, by decide, by decide⟩, by unfold HasHandler; decide, ⟨by decide, rfl, by decide⟩, by decide, by decide, rfl,
    by decide, by decide, by decide, by decide, by decide, by decide, by decide, by decide, by decide, by decide, by decide,
    by decide⟩
theorem test_witness_ConfigurationAndQuiet_waiting :
    let s := dev.setCore { dev.core with icache := [(0x7FFFFF000100, true, 0x3800040000000000)] }
    decode 0x3800040000000000 = .ok (.cfg g1 1) ∧ s.region 0 = some aRegion ∧ aRegion.place.isSome = true ∧ aRegion.crown = s.cur ∧ s.core.status = .run ∧
    s.core.icache = [(s.core.pc, s.core.fetchUser, 0x3800040000000000)] := ⟨rfl, rfl, by decide, by decide, rfl, by decide⟩

/-! ### Moves of the fabric -/

/-- Core output port 0 feeds input 1 of slot 0 (a MERGE of inputs 0 and 1); its queue has room, or is full. -/
def devHop (n : Nat) : State :=
  devFab { ported with
    slots := #v[{ slotOf (slotFrame 5 3 1 0 1 [0]) with ins := #v[[], List.replicate n bits1, [], []] }, {}, {}, {}]
    outQ := ported.outQ.set 0 [bits1] }
theorem test_witness_TokensMoveOneHop :
    (devHop 7).firing 0 = some 0 ∧ outletOf 0 35 = some (0, .port 0) ∧ ((devHop 7).tileAt 0).fab.fed 35 = [.slotIn 0 0] ∧
    ((devHop 7).tileAt 0).fab.outletQ (.port 0) = bits1 :: [] ∧ (devHop 7).regionAt 0 = some 0 ∧
    ((devHop 7).tileAt 0).fab.room (.slotIn 0 0) = true ∧ filtersTake ((devHop 7).tileAt 0).fab (.slotIn 0 0) bits1 ∧
    ((devHop 8).tileAt 0).fab.room (.slotIn 0 1) = false :=
  ⟨by decide, by decide, by decide, by decide, by decide, by decide, (fun _ h => by cases h), by decide⟩

/-- A THRESH that outranks the register of the core's input, one that does not; the last KILL that a queue takes. -/
theorem test_witness_TokensMoveOneHop_control :
    let s : State := { dev with ctlFlight := [(0, 4, false, 0x3F800000, 7, 0), (0, 0, true, 0, 3, 5)] }
    (s.regionAt 0).isSome = true ∧ s.ctlFlight[0]? = some (0, 4, false, 0x3F800000, 7, 0) ∧
    s.ctlFlight[1]? = some (0, 0, true, 0, 3, 5) ∧
    ranksAbove 0x3F800000 7 s.tile.fab.ctl.score s.tile.fab.ctl.tag = true ∧
    ranksAbove 0x3F800000 7 0x3F800000 6 = false ∧ (List.replicate 7 (3, 5)).length < 8 :=
  ⟨by decide, by decide, by decide, by decide, by decide, by decide⟩

/-- A generator of two dimensions, 1 by 2 points: at its first point a row ends, at its second the nest; extent 0. -/
def genFrame : BitVec 256 := BitVec.ofNat 256 (2 ^ 238 + 2 ^ 237 + 2 ^ 236 + 2 * 2 ^ 234 + 128 * 2 ^ 120 + 64 * 2 ^ 64)
def gen (x : AddrGen) : State := devFab { ags := #v[x, {}] }
def aGen : AddrGen :=
  { f0 := genFrame, on := true, running := true, curBase := 0x1000, curExt := #v[1, 2, 0, 0], base := 0x1000, ext := #v[1, 2, 0, 0] }
def aParam : Token := { kind := .param, lr := true, lanes := 2 + 5 * 2 ^ 32 }
theorem test_witness_GeneratorsEmitTheirPoints :
    (gen aGen).firing 0 = some 0 ∧ ((gen aGen).tileAt 0).fab.ag 0 = aGen ∧ aGen.out = [] ∧ agDims aGen.f0 = 2 ∧
    (∀ d, d < agDims aGen.f0 → (aGen.curExt[d]?.getD 0) ≠ 0) ∧ lastIn aGen 0 ∧ ¬lastIn aGen 1 ∧
    lastIn { aGen with ix := #v[0, 1, 0, 0] } 1 ∧
    (∃ d, d < agDims aGen.f0 ∧ ((({ aGen with curExt := #v[1, 0, 0, 0] } : AddrGen).curExt)[d]?.getD 0) = 0) ∧
    aParam.kind = .param ∧ aGen.armed = none ∧ aGen.due.length < 8 ∧ agMode aGen.f0 = 2 ∧
    (laneOf aParam.lanes 0).toNat ≤ agDims aGen.f0 ∧ 4 < (5 : Nat) ∧
    ({ aGen with running := false, armed := some true } : AddrGen).mayStart = true ∧
    (∀ q, (gen aGen).region 0 = some q → q.marked = false) :=
  ⟨by decide, rfl, rfl, by decide, by decide, by unfold lastIn; decide, by unfold lastIn; decide,
    by unfold lastIn; decide, ⟨1, by decide, by decide⟩, rfl, rfl, by decide, by decide, by decide, by decide, by decide,
    fun q h => by cases h; rfl⟩

/-- Between rounds: the frame's values apply in mode 00, those of the generator in mode 10 with nothing due. -/
theorem test_witness_GeneratorsEmitTheirPoints_modes :
    agMode (BitVec.ofNat 256 (2 ^ 236) : BitVec 256) = 0 ∧ agMode aGen.f0 ≠ 0 ∧ aGen.due = [] ∧
    ({ aGen with running := false } : AddrGen).running = false ∧ carries aGen 0 ∧ ¬carries aGen 1 := by
  unfold carries; decide

/-- A load, a store, a spill and a FIFO unit, each with its tokens; a completed access; a slot with markers at its inputs. -/
def muFrame (mode fmt size : Nat) : BitVec 256 := BitVec.ofNat 256 (mode * 2 ^ 236 + 2 ^ 233 + fmt * 2 ^ 228 + size * 2 ^ 181)
def muOfFrame (f : BitVec 256) (a d : List Token) : MemUnit := { frame := f, on := true, addr := a, data := d }
def addrTok (n : Nat) : Token := { fmt := 0x14, valid := 3, lanes := BitVec.ofNat 512 (0x7FFFFF000000 + n), lr := true }
def fpTok : Token := { fmt := Fmt.fp32.tag, valid := 0xFFFF, lr := true }
def devMu : State :=
  devFab { mus := #v[muOfFrame (muFrame 2 1 0) [addrTok 0x220] [], muOfFrame (muFrame 3 1 0) [addrTok 0x200] [fpTok],
                     muOfFrame (muFrame 4 0 1) [] [fpTok], muOfFrame (muFrame 1 0 1) [] [fpTok]]
           slots := #v[{ slotOf (slotFrame 5 3 1 0 1 [0]) with ins := #v[[{ kind := .mark }], [{ kind := .mark }], [], []] },
                       {}, {}, {}] }
theorem test_witness_MemoryUnitsAccessAndComplete :
    let f := (devMu.tileAt 0).fab
    devMu.firing 0 = some 0 ∧ devMu.region 0 = some aRegion ∧ (∀ u, u < 4 → (f.mu u).on = true ∧ (f.mu u).stopped = false ∧
      muWait (f.mu u).frame 0 = false ∧ muWait (f.mu u).frame 1 = false) ∧
    muMode (f.mu 0).frame = 2 ∧ (f.mu 0).addr = addrTok 0x220 :: [] ∧ fmtOf (muFmt (f.mu 0).frame) = .fp32 ∧
    okWith (devMu.unitParts 0 0 .read 4 (blocks ((addrTok 0x220).lanes.setWidth 64) 64)) (fun r => r.1.length == 2) = true ∧
    muMode (f.mu 1).frame = 3 ∧ (f.mu 1).data = fpTok :: [] ∧ fpTok.fmt = Fmt.fp32.tag ∧
    okWith (devMu.unitParts 0 0 .write 4 (blocks ((addrTok 0x200).lanes.setWidth 64) 64)) (fun r => r.1.length == 1) = true ∧
    muMode (f.mu 2).frame = 4 ∧ (f.mu 2).next < muSize (f.mu 2).frame ∧
    muMode (f.mu 3).frame = 1 ∧ (f.mu 3).held.length < muSize (f.mu 3).frame ∧
    (f.slot 0).inputs = [0, 1] ∧ (f.slot 0).inQ 1 = { kind := .mark } :: [] ∧ (f.slot 0).outQ 0 = [] ∧
    slotKind (f.slot 0).frame ≠ 3 ∧
    ({ f.mu 0 with busy := [([], addrTok 0x220, 5, [])] } : MemUnit).busy = ([], addrTok 0x220, 5, []) :: [] := by decide

/-- Markers at the one enabled input of an empty unit, and a FIFO unit whose outlet and done output are free. -/
theorem test_witness_MemoryUnitsAccessAndComplete_markers :
    let y : MemUnit := muOfFrame (muFrame 2 1 0) [{ kind := .mark }] []
    y.uses 1 = true ∧ y.uses 0 = false ∧ y.inQ 1 = { kind := .mark } :: [] ∧ y.busy = [] ∧ y.held = [] ∧ y.out = [] ∧ y.done = [] ∧
    (muOfFrame (muFrame 1 0 1) [] [fpTok]).done = [] := by decide

/-! ### Operators -/

def onSlot (x : Slot) : State := devFab { slots := #v[x, {}, {}, {}] }
theorem on_slot (x : Slot) (k : Nat) (h : slotKind x.frame = k) (a : x.on = true ∧ x.stopped = false)
    (o : x.outQ 0 = [] ∧ x.outQ 1 = []) : OnSlot (onSlot x) 0 0 0 k x := ⟨rfl, ⟨by decide, rfl, a.1, a.2, h⟩, o⟩
theorem may_fire (x : Slot) (k : Nat) (h : slotKind x.frame = k) (a : x.on = true ∧ x.stopped = false)
    (o : x.outQ 0 = [] ∧ x.outQ 1 = [])
    (c : x.par = [] ∧ x.due = [] ∧ x.ctl.kills = [] ∧ x.op.killed = [] ∧ x.op.dropRow = false) :
    MayFire (onSlot x) 0 0 0 k x := ⟨on_slot x k h a o, c⟩
def withIn (f : BitVec 256) (l : List Token) : Slot := { slotOf f with ins := #v[l, [], [], []] }

def mapSlot (fn : Nat) (l : List Token) : Slot := withIn (slotFrame 0 1 1 2 0 [fn * 256 + 1, 0x3F800000]) l
def filterSlot (mode : Nat) (l : List Token) : Slot := withIn (slotFrame 7 1 1 2 1 [mode + 512]) l
def aBubble : Token := { fmt := 1, kind := .bubble, lr := true }
theorem test_witness_OperatorsFireOnTokens :
    MayFire (onSlot (mapSlot 0 [fpTok])) 0 0 0 0 (mapSlot 0 [fpTok]) ∧ (mapSlot 0 [fpTok]).inputs = [0] ∧
    Fmt.ofTag (BitVec.ofNat 5 (pf (mapSlot 0 [fpTok]) 0 0 5)) = some .fp32 ∧ pf (mapSlot 13 []) 0 8 8 = 13 ∧
    headsAre (mapSlot 0 [fpTok]) [0] .fp32 (fun _ => fpTok) (fun _ => []) ∧
    (let x := withIn (slotFrame 1 1 1 0 0 [0x101]) [fpTok]
     MayFire (onSlot x) 0 0 0 1 x ∧ slotOut x.frame 0 = true ∧ laneFmt .fp32 = true ∧ pf x 0 8 2 = 1 ∧
     headsAre x [0] .fp32 (fun _ => fpTok) (fun _ => [])) ∧
    (let x := filterSlot 0 [fpTok]
     MayFire (onSlot x) 0 0 0 7 x ∧ Fmt.ofTag (BitVec.ofNat 5 (pf x 0 9 5)) = some .fp32 ∧ (x.reg 0).getLsbD 0 = false ∧
     ((filterSlot 1 []).reg 0).getLsbD 0 = true ∧ ((filterSlot 2 []).reg 0).getLsbD 1 = true) :=
  ⟨may_fire _ _ (by decide) (by decide) (by decide) (by decide), by decide, by decide, by decide,
    by unfold headsAre; decide,
    ⟨may_fire _ _ (by decide) (by decide) (by decide) (by decide), by decide, by decide, by decide, by unfold headsAre; decide⟩,
    may_fire _ _ (by decide) (by decide) (by decide) (by decide), by decide, by decide, by decide, by decide⟩

/-- REDUCE of two inputs, QUANT to INT8 with both outputs, SELECT, a BUBBLE at a MAP, and a kill of the row at one. -/
theorem test_witness_OperatorsFireOnTokens_more :
    (let x := { slotOf (slotFrame 9 3 1 0 0 [1]) with ins := #v[[fpTok], [fpTok], [], []] }
     MayFire (onSlot x) 0 0 0 9 x ∧ (x.reg 0).getLsbD 10 = false ∧ x.inputs.filter (· < 3) = [0, 1] ∧
     headsAre x [0, 1] .fp32 (fun _ => fpTok) (fun _ => [])) ∧
    (let x := withIn (slotFrame 10 1 3 0 2 [32 + Fmt.int8.tag.toNat]) [fpTok]
     MayFire (onSlot x) 0 0 0 10 x ∧ Fmt.ofTag (BitVec.ofNat 5 (pf x 0 5 5)) = some .fp32 ∧ x.op.toks = [] ∧
     headsAre x [0] .fp32 (fun _ => fpTok) (fun _ => []) ∧ fpTok.lr = true ∧
     Fmt.ofTag (BitVec.ofNat 5 (pf x 0 0 5)) = some .int8 ∧ slotOut x.frame 1 = true) ∧
    (let x := withIn (slotFrame 11 1 1 0 3 [2, 0x3F800000, 0x3F800000]) [fpTok]
     MayFire (onSlot x) 0 0 0 11 x ∧ Fmt.ofTag (BitVec.ofNat 5 (pf x 0 1 5)) = some .fp32 ∧
     headsAre x [0] .fp32 (fun _ => fpTok) (fun _ => []) ∧ (x.reg 0).getLsbD 0 = false ∧
     (isOn fpTok 0 && !(Fmt.fp32.value (el fpTok .fp32 0)).isNaN) = true) ∧
    (MayFire (onSlot (mapSlot 0 [aBubble])) 0 0 0 0 (mapSlot 0 [aBubble]) ∧ (mapSlot 0 [aBubble]).inQ 0 = aBubble :: []) ∧
    (let x := { mapSlot 0 [fpTok] with ctl := { kills := [(0, 0)] } }
     OnSlot (onSlot x) 0 0 0 0 x ∧ x.par = [] ∧ x.due = [] ∧ x.op.inRow = false ∧ takesKill x.frame = true ∧
     x.ctl.kills = [(0, 0)] ∧ fpTok.fmt = Fmt.fp32.tag ∧ 0 ≤ fpTok.tag.toNat ∧ fpTok.tag.toNat ≤ 0) :=
  ⟨⟨may_fire _ _ (by decide) (by decide) (by decide) (by decide), by decide, by decide, by unfold headsAre; decide⟩,
    ⟨may_fire _ _ (by decide) (by decide) (by decide) (by decide), by decide, rfl, by unfold headsAre; decide, rfl, by decide,
      by decide⟩,
    ⟨may_fire _ _ (by decide) (by decide) (by decide) (by decide), by decide, by unfold headsAre; decide, by decide,
      by decide⟩,
    ⟨may_fire _ _ (by decide) (by decide) (by decide) (by decide), by decide⟩,
    on_slot _ _ (by decide) (by decide) (by decide), rfl, rfl, rfl, by decide, rfl, by decide, by decide, by decide⟩

/-- A BUBBLE in the middle of the row of a QUANT and of a SELECT. -/
theorem test_witness_OperatorsFireOnTokens_bubble :
    (let x := { withIn (slotFrame 10 1 3 0 2 [32 + Fmt.int8.tag.toNat]) [aBubble] with op := { inRow := true, toks := [fpTok] } }
     MayFire (onSlot x) 0 0 0 10 x ∧ x.inQ 0 = aBubble :: [] ∧ aBubble.kind = .bubble) ∧
    (let x := withIn (slotFrame 11 1 1 0 3 [2, 0x3F800000, 0x3F800000]) [aBubble]
     MayFire (onSlot x) 0 0 0 11 x ∧ x.inQ 0 = aBubble :: []) :=
  ⟨⟨may_fire _ _ (by decide) (by decide) (by decide) (by decide), by decide, rfl⟩,
    may_fire _ _ (by decide) (by decide) (by decide) (by decide), by decide⟩

/-! ### Ranked streams -/

/-- A higher score; equal scores (-0 and +0) with tags 1 and 2; a NaN below a number; two NaN by tag. -/
theorem test_witness_PairsAreTotallyOrdered :
    above (0x40000000, 9) (0x3F800000, 1) ∧ above (0x80000000, 1) (0, 2) ∧ ¬above (0, 2) (0x80000000, 1) ∧
    above (0xFF800000, 9) (0x7FC00000, 1) ∧ above (0xFFC00000, 1) (0x7F800001, 2) ∧ nanScore 0x7F800001 ∧
    ¬nanScore 0x7F800000 := by unfold above nanScore; decide

/-- A block header: score, address, count 2 in lane 3. -/
def headTok : Token := { fmt := 0x14, valid := 0xFFFF, lr := true, lanes := 0x3F800000 + 0x1000 * 2 ^ 32 + 2 * 2 ^ 96 }
def withIssuer : Region := { aRegion with issuers := [{ tile := 0, slot := 0, base := 16, q := 4, cursor := 16 }] }
def boundSlot : Slot := withIn (slotFrame 3 1 3 2 1 [0x3F800000, 0, 1]) [headTok]
def scoreTok (n : Nat) : Token := { fmt := 0x14, valid := 3, lr := true, lanes := BitVec.ofNat 512 n }
def topk (l : List Row) (ls : Bool) (n : Nat) : Slot :=
  { withIn (slotFrame 4 1 1 0 3 [2]) [{ scoreTok n with ls := ls }] with op := { rows := l } }
theorem test_witness_RankedOperatorsFire :
    (let x := withIn (slotFrame 2 1 1 0 1 [16 * 2 ^ 19 + 1]) [fpTok]
     MayFire (onSlot x) 0 0 0 2 x ∧ slotOut x.frame 0 = true ∧ x.op.ended = false ∧ pf x 0 16 2 = 0 ∧ pf x 0 19 13 = 16 ∧
     Fmt.ofTag (BitVec.ofNat 5 (pf x 0 0 5)) = some .fp32 ∧ (∀ i, i < 16 → isOn fpTok i = true → i < pf x 0 19 13) ∧
     (x.reg 1).toNat + 4 * pf x 0 19 13 ≤ 0x100000 ∧ pf x 0 8 2 ≠ 2) ∧
    (let s := devReg withIssuer (onSlot boundSlot)
     OnSlot s 0 0 0 3 boundSlot ∧ boundSlot.par = [] ∧ boundSlot.due = [] ∧ boundSlot.op.toks = [] ∧ headTok.fmt = 0x14 ∧
     isOn headTok 3 = true ∧ (laneOf headTok.lanes 3).toNat = 2 ∧ s.region 0 = some withIssuer ∧
     withIssuer.run 0 0 2 = some 16 ∧ withIssuer.tagHeld = [] ∧ headTok.own = false ∧ slotCin boundSlot.frame = true ∧
     boundBelow (laneOf headTok.lanes 0) (thrUp (boundSlot.reg 0) (boundSlot.reg 1) boundSlot.ctl.score) = false ∧
     boundBelow 0x3F800000 (thrUp (boundSlot.reg 0) (boundSlot.reg 1) 0x40000000) = true ∧ boundSlot.op.rows.length < 16) ∧
    (let x := { boundSlot with ctl := { score := 0x40000000, tag := 1 } }
     (x.ctl.score, x.ctl.tag) ≠ x.op.pair) :=
  ⟨⟨may_fire _ _ (by decide) (by decide) (by decide) (by decide), by decide, by decide, by decide, by decide, by decide,
      by decide, by decide, by decide⟩,
    ⟨⟨rfl, ⟨by decide, rfl, by decide⟩, by decide⟩, rfl, rfl, rfl, by decide, by decide, by decide, rfl, by decide, rfl, rfl,
      by decide, by decide, by decide, by decide⟩, by decide⟩

/-- A header waits with a run from tag 16 of which a KILL has named tag 17. -/
theorem test_witness_RankedOperatorsFire_killed :
    let x : Slot := { boundSlot with op := { toks := [headTok], elem := 16 } }
    let q : Region := { withIssuer with tagKilled := [(17, 17)] }
    OnSlot (devReg q (onSlot x)) 0 0 0 3 x ∧ x.par = [] ∧ (∃ z ∈ q.tagKilled, z.1 < 16 + 2 ∧ 16 ≤ z.2) ∧
    ((q.advance 0 0 16).run 0 0 2).isSome = true :=
  ⟨⟨rfl, ⟨by decide, rfl, by decide⟩, by decide⟩, rfl, ⟨(17, 17), by decide, by decide, by decide⟩, by decide⟩

/-- TOPK with k = 2: a row that enters, one that does not, and the one that ends the stream; MERGE of two heads. -/
theorem test_witness_RankedOperatorsFire_more :
    OnSlot (onSlot (topk [] false 0x3F800000)) 0 0 0 4 (topk [] false 0x3F800000) ∧
    above (pairOf (scoreTok 0x3F800000)) (topk [] false 0).op.pair ∧
    ¬above (pairOf (scoreTok 0x7FC00000)) (topk [] false 0).op.pair ∧
    (topk [{ tok := scoreTok 0 }] true 0x7FC00000).op.rows ≠ [] ∧
    ({ scoreTok 0x7FC00000 with ls := true } : Token).ls = true ∧
    (let x := { slotOf (slotFrame 5 3 1 0 1 [0]) with
                ins := #v[[scoreTok 0], [scoreTok 0x3F800000], [], []], op := { seg := true } }
     MayFire (onSlot x) 0 0 0 5 x ∧ slotOut x.frame 0 = true ∧ x.op.elem = 0 ∧ x.op.seg = true ∧ x.op.phase = 0 ∧
     x.inputs = [0, 1] ∧ above (pairOf (scoreTok 0x3F800000)) (pairOf (scoreTok 0)) ∧
     ¬above (pairOf (scoreTok 0)) (pairOf (scoreTok 0x3F800000)) ∧ x.op.last[1]? = some none) :=
  ⟨on_slot _ _ (by decide) (by decide) (by decide), by unfold above; decide, by unfold above; decide, by decide, rfl,
    may_fire _ _ (by decide) (by decide) (by decide) (by decide), by decide, rfl, rfl, rfl, by decide,
    by unfold above; decide, by unfold above; decide, by decide⟩

/-- JOIN by the tag: a row that is stored and one that is not, in both phases; GATHER at the first and past the last record of
its page; a record that has come. -/
def joinSlot (ph : Nat) (l : List Row) : Slot :=
  { slotOf (slotFrame 6 3 1 0 3 [0x40]) with ins := #v[[fpTok], [fpTok], [], []], op := { phase := ph, rows := l } }
def aPage : BasePage := { page := 0x10000, pa := 0x40000, size := 0x1000 }
def gatherSlot (n : Nat) : Slot :=
  { withIn (slotFrame 8 1 1 0 2 [2, 0x10000, 0, 64]) [{ scoreTok n with fmt := 0x13 }] with
    op := { base := some aPage } }
def aRow : Row := { tok := fpTok, lo := 1, hi := 2, bits := 5 }
/-- A page of the own tile, one whose granule the VD lacks; a row without an index; one whose request was dropped. -/
theorem test_witness_JoinAndGatherFire_pages :
    let s := onSlot (gatherSlot 0)
    let x : Slot := { gatherSlot 0 with op := { base := some { aPage with own := true }, rows := [{ aRow with due := true, va := 0x7FFFFF000240 }] } }
    s.region 0 = some aRegion ∧ aPage.own = false ∧ s.physCheck 0 aPage.kind aPage.win aPage.pa .read aPage.ord.toNat = some (.fault 0x08) ∧
    (∀ k, k < 64 → ({ s with vds := s.vds.set 0 { s.vd 0 with hbm := [2] } } : State).physCheck 0 0 0 (0x40000 + k) .read 1 = none) ∧
    isOn ({ scoreTok 0 with valid := 0 }) (pf (gatherSlot 0) 0 12 4) = false ∧ x.op.rows = { aRow with due := true, va := 0x7FFFFF000240 } :: [] ∧
    okWith (s.unitParts 0 0 .read 1 (blocks (BitVec.ofNat 64 0x7FFFFF000240) 64)) (fun r => r.1.length == 1) = true := by decide
theorem test_witness_JoinAndGatherFire :
    MayFire (onSlot (joinSlot 0 [])) 0 0 0 6 (joinSlot 0 []) ∧ keyOf (joinSlot 0 []) fpTok = some 0 ∧
    MayFire (onSlot (joinSlot 1 [{ tok := fpTok }])) 0 0 0 6 (joinSlot 1 [{ tok := fpTok }]) ∧
    slotOut (joinSlot 1 []).frame 0 = true ∧ slotOut (joinSlot 1 []).frame 1 = false ∧ pf (joinSlot 1 []) 0 0 2 = 0 ∧
    (∃ q ∈ (joinSlot 1 [{ tok := fpTok }]).op.rows, keyOf (joinSlot 1 [{ tok := fpTok }]) q.tok = some 0) ∧
    MayFire (onSlot (gatherSlot 0)) 0 0 0 8 (gatherSlot 0) ∧ isOn (scoreTok 0) (pf (gatherSlot 0) 0 12 4) = true ∧
    Fmt.ofTag (BitVec.ofNat 5 (pf (gatherSlot 0) 0 1 5)) = some .fp32 ∧ (gatherSlot 0).op.base = some aPage ∧
    (((gatherSlot 0).reg 2).setWidth 16 ++ (gatherSlot 0).reg 1).toNat + 64 * ((gatherSlot 0).reg 3).toNat = 0x10000 + 0x1000 ∧
    (let x := { gatherSlot 0 with op := { (gatherSlot 0).op with rows := [aRow] } }
     MayFire (onSlot x) 0 0 0 8 x ∧ x.op.rows = aRow :: [] ∧ aRow.ids = [] ∧ aRow.killed = false ∧ aRow.tok.lr = true ∧
     aRow.hi % 2 = 0 ∧ Fmt.ofTag (BitVec.ofNat 5 (aRow.hi / 2)) = some .fp32) :=
  ⟨may_fire _ _ (by decide) (by decide) (by decide) (by decide), by decide,
    may_fire _ _ (by decide) (by decide) (by decide) (by decide), by decide, by decide, by decide, by decide,
    may_fire _ _ (by decide) (by decide) (by decide) (by decide), by decide, by decide, by decide, by decide,
    may_fire _ _ (by decide) (by decide) (by decide) (by decide), rfl, rfl, rfl, rfl, by decide, by decide⟩

/-! ### Macro-ops -/

/-- m = n = 1, K = 32, the tables at offset 0x400; operands at 0x200. With K = 0; with K no multiple of 32. -/
def devM (k : Nat) : State := devG (inTile 0x200) (inTile 0x200) (inTile 0x200) (BitVec.ofNat 64 (1 + 2 ^ 8 + k * 2 ^ 16 + 0x400 * 2 ^ 32))
theorem store_operand (va : Word) (n al off : Nat) (h : localOff va = some off) (a : off + n ≤ Config.tileStore) (b : off % al = 0) :
    StoreOperand va n al := ⟨off, h, a, b⟩
theorem test_witness_MacroStepsOfCodes :
    Runs .us false (macroGuard (devM 32) g1) (devM 32) ∧ HasHandler (devM 32) ∧ (devM 32).core.stepAt = none ∧
    (devM 32).core.firstStep = 0 ∧ bits ((devM 32).g 4) 0 8 = 1 ∧ bits ((devM 32).g 4) 8 8 = 1 ∧
    bits ((devM 32).g 4) 16 16 = 32 ∧ bits ((devM 33).g 4) 16 16 % 32 ≠ 0 ∧ bits ((devM 0).g 4) 16 16 = 0 ∧
    (devM 32).accsOf (.task (devM 32).cur) = [] ∧ ((devM 32).core.rdA 0).v = false ∧ (devM 32).core.fBit 0 = false ∧
    StoreOperand ((devM 32).g 1) (1 * 32 * elemBytes .bf16) (elemBytes .bf16) ∧
    StoreOperand ((devM 32).g 2) (1 * 1 * 4 * Fmt.cb4.width) 4 ∧ StoreOperand ((devM 32).g 3) (1 * 1 * 2) 2 ∧
    StoreOperand (storeVa 0x400) (1 * 1 * 20) 1 ∧ octetOf 1 0 = [0] ∧ (devM 32).core.inflight = [] ∧
    tableValid (codesAt (devM 32) ((devM 32).g 2) .cb4 0) ((devM 32).operand (storeVa 0x400) 0 20) = false ∧
    0x400 + 1 * 1 * 20 ≤ Config.tileStore :=
  ⟨⟨by decide, by decide, by decide⟩, by unfold HasHandler; decide, rfl, by decide, by decide, by decide, by decide, by decide,
    by decide, rfl, by decide, by decide, store_operand _ _ _ 0x200 (by decide) (by decide) (by decide),
    store_operand _ _ _ 0x200 (by decide) (by decide) (by decide), store_operand _ _ _ 0x200 (by decide) (by decide) (by decide),
    store_operand _ _ _ 0x400 (by decide) (by decide) (by decide), by decide, rfl, by decide, by decide⟩

theorem test_witness_MacroStepsOfFormats :
    Runs .us false (macroGuard (devM 32) g1) (devM 32) ∧
    StoreOperand ((devM 32).g 1) (1 * 32 * Fmt.bf16.width / 8) (elemBytes .bf16) ∧
    StoreOperand ((devM 32).g 2) (1 * 16 * Fmt.int8.width / 8) 4 ∧ StoreOperand ((devM 32).g 3) (1 * (32 / 8)) 1 ∧
    StoreOperand (storeVa 0x400) ((1 + 1) * (32 / 32)) 2 ∧
    okWith (bChunk (devM 32) .int8 .dense ((devM 32).g 2) ((devM 32).g 3) 32 0 0) (fun _ => true) = true ∧
    errWith (bChunk (put (devM 32) [(0x200, 1, 0xFF)]) .int8 .sp24 ((devM 32).g 2) ((devM 32).g 3) 32 0 0) (fun o => o == 0x200) = true :=
  ⟨⟨by decide, by decide, by decide⟩, store_operand _ _ _ 0x200 (by decide) (by decide) (by decide),
    store_operand _ _ _ 0x200 (by decide) (by decide) (by decide), store_operand _ _ _ 0x200 (by decide) (by decide) (by decide),
    store_operand _ _ _ 0x400 (by decide) (by decide) (by decide), by decide, by decide⟩

/-- A result on its way; accumulators with F, and with V; the shape 17 by 1; a store that does not fit. -/
theorem test_witness_AccumulatorsAreWrittenAndRead :
    let r : StepResult := { acc := 0, adds := [(0, .fin false 1 0)], last := true }
    let s := (devM 32).setCore { (devM 32).core with inflight := [r] }
    (s.tileAt 0).core.inflight = r :: [] ∧ (s.tileAt 0).core.heldAcc = [] ∧ s.core.fBit 0 = true ∧
    (let s := devM 32
     Runs .us false g1 s ∧ HasHandler s ∧ bits (s.g 4) 0 8 ≤ 16 ∧ bits (s.g 4) 8 8 ≤ 16 ∧ 16 < bits (17 + 256) 0 8 ∧
     s.core.fBit 0 = false ∧ (s.core.rdA 0).v = false ∧ s.core.status = .run ∧ StoreOperand (s.g 1) (4 * (1 * 1)) 4 ∧
     StoreOperand (s.g 1) ((1 * 1 * Fmt.bf16.width + 7) / 8) (elemBytes .bf16) ∧ s.accsOf (.task s.cur) = [] ∧
     localOff 0x1000 = none ∧ localOff (inTile 0xFFFFC) = some 0xFFFFC ∧ localOff (inTile 0x202) = some 0x202 ∧
     0xFFFFC + 4 * 1 ≤ Config.tileStore ∧ Config.tileStore < 0xFFFFE + 4 ∧ 0x202 % 4 ≠ 0) :=
  ⟨rfl, rfl, by decide, ⟨by decide, by decide, by decide⟩, by unfold HasHandler; decide, by decide, by decide, by decide, by decide,
    by decide, rfl, store_operand _ _ _ 0x200 (by decide) (by decide) (by decide),
    store_operand _ _ _ 0x200 (by decide) (by decide) (by decide), rfl, by decide, by decide, by decide, by decide, by decide,
    by decide⟩

/-! ### Engine threads -/

/-- A completion word at 0x100, a source and a destination, a length of 72 (two parts); a length above 32 bits; a word that
is misaligned; 16 operations of the tile. -/
def devE (w n : Word) : State := devG (inTile 0x200) (inTile 0x400) n w
def aThread (op : EngOp) : Thread := { id := 3, tile := 0, op := op, scope := .tile, comp := 0x100, val := 7 }
theorem test_witness_EngineInstructionsFork :
    let s := devE 0x700000100 72
    let p := ({ s := s } : Plan).range .read (s.g 1) 72
    let q := p.range .write (s.g 2) 72
    let u := ({ s := s } : Plan).range .read (inTile 0xFFFC0) 72
    Runs .all false g1 s ∧ HasHandler s ∧ s.threads.countP (fun t => t.tile == s.cur) < 16 ∧
    ¬(List.replicate 16 (aThread .cpy)).countP (fun t => t.tile == s.cur) < 16 ∧
    bits (s.g 4) 20 12 = 0 ∧ bits (s.g 4) 0 2 = 0 ∧ bits (0x700000102 : Word) 0 2 ≠ 0 ∧ bits (0x700200100 : Word) 20 12 ≠ 0 ∧
    bits (s.g 3) 32 32 = 0 ∧ bits (0x100000000 : Word) 32 32 ≠ 0 ∧ q.bad = [] ∧ q.wait = false ∧ s.threads = [] ∧
    u.bad.length = 1 ∧ (u.bad.all fun y => y.2 == 0x06 && !untakable y.2) = true ∧
    localOff (0x1000 : Word) = none ∧ localOff (s.g 1) = some 0x200 ∧ localOff (inTile 0x100000) = some Config.tileStore ∧
    0x210 % 32 ≠ 0 ∧ s.accsOf (.task s.cur) = [] ∧ s.core.lvl ≠ .h :=
  ⟨⟨by decide, by decide, by decide⟩, by unfold HasHandler; decide, by decide, by decide, by decide, by decide, by decide,
    by decide, by decide, by decide, by decide, by decide, rfl, by decide, by decide, by decide, by decide, by decide, by decide, rfl,
    by decide⟩

/-- A descriptor whose read is issued, out, and answered: a COLL alone, of 32 FP32 values; fields that are refused. -/
def collNum : Nat := 0x7FFFFF000400 + 0x7FFFFF000500 * 2 ^ 64 + 2 ^ 21 * 2 ^ 128 + 32 * 2 ^ 192
def reading (l : List Reading) : State := let s := devE 0x700000100 0; s.setCore { s.core with readings := l }
theorem test_witness_EngineInstructionsFork_descriptors :
    let s := reading []
    let a := s.g 1
    okWith (s.checkParts .read 8 false [(a, 8, 0), (a + 8, 8, 8), (a + 16, 8, 16), (a + 24, 8, 24)]) (fun r => r.1.length == 4) = true ∧
    (reading [⟨[(1, 0)], 0⟩]).core.readings = [⟨[(1, 0)], 0⟩] ∧ (reading [⟨[], collNum⟩]).core.readings[0]? = some ⟨[], collNum⟩ ∧
    BitVec.ofNat 64 (collNum / 2 ^ 128) = 0x200000 ∧ BitVec.ofNat 64 (collNum / 2 ^ 192) = 32 ∧
    Fmt.ofTag ((0x200000 : Word).extractLsb' 21 5) = some .fp32 ∧ Fmt.ofTag ((0 : Word).extractLsb' 21 5) = none ∧
    bits (0x200000 : Word) 48 8 + 1 = 1 ∧ bits (0x200000 : Word) 40 8 = 0 ∧ bits (32 : Word) 0 25 % 32 = 0 ∧
    collOk (bits (0x200000 : Word) 27 3) .fp32 ((0x200000 : Word).getLsbD 26) = true ∧
    (∀ r, r < 1 → r ≠ 0 → s.peerOk r 128 = true) ∧ bits (33 : Word) 0 25 % 32 ≠ 0 ∧
    s.peerOk 0 8 = false ∧ (∀ y, (none : Option Nat) = some y → s.peerOk 0 y = true) := by
  refine ⟨by decide, rfl, rfl, by decide, by decide, by decide, by decide, by decide, by decide, by decide, by decide, ?_, by decide,
    by decide, ?_⟩
  · intro r h1 h2; omega
  · intro y h; cases h

/-- GTH: a table in device memory at 0x1000, one element of 8 bytes, its index at 0x600; the page that holds the table. -/
def gthNum : Nat := 0x1000 + 8 * 2 ^ 64 + (0x700 + 2 ^ 32) * 2 ^ 128 + 0x600 * 2 ^ 192
theorem test_witness_EngineInstructionsFork_gather :
    let s : State := { reading [⟨[], gthNum⟩, ⟨[], 3⟩] with
      vds := dev.vds.setIfInBounds 0 { dev.vd 0 with s1root := 0x1001, s2root := 0x3001, hbm := [0] } }
    let m : State := { s with mem := (putAt 0 dev [(0x1000, 8, 0x2003), (0x2000, 8, 0xA0000000001FD), (0x3000, 8, 0x4003),
      (0x4000, 8, 0xA0000000001DD)]).mem }
    s.core.readings[1]? = some ⟨[], 3⟩ ∧ canonical (0x1000 : Word) = true ∧ localOff (0x1000 : Word) = none ∧
    okWith (m.translate m.me .read 0x1000) (fun r => r.1.kind == 0) = true := by decide

/-- A thread of each operation whose accesses are done: first sending, then with its answer, then lost. -/
theorem test_witness_EngineThreadsComplete :
    let s (op : EngOp) : State := { dev with threads := [aThread op] }
    IdleThread (s .cpy) [] [] (aThread .cpy) ∧ IdleThread (s (.xwr 0 0 none)) [] [] (aThread (.xwr 0 0 none)) ∧
    IdleThread (s (.coll 0 .fp32 false 32 1 0 0)) [] [] (aThread (.coll 0 .fp32 false 32 1 0 0)) ∧
    (aThread .cpy).lost = false ∧ (aThread .cpy).sent = false ∧ (aThread .cpy).written = false ∧
    (∃ xs : List (List Byte), xs.length = 1 ∧ ∀ y ∈ xs, y.length = 128) ∧
    ({ dev with threads := [{ aThread .cpy with reads := [(1, ⟨0, 0, 0, 8, 1, 0, []⟩)] }] } : State).thread 3 ≠ none := by
  refine ⟨⟨rfl, by simp, ⟨rfl, (fun a h => by cases h), rfl⟩, rfl, fun q h => by cases h⟩,
    ⟨rfl, by simp, ⟨rfl, (fun a h => by cases h), rfl⟩, rfl, fun q h => by cases h⟩,
    ⟨rfl, by simp, ⟨rfl, (fun a h => by cases h), rfl⟩, rfl, fun q h => by cases h⟩, rfl, rfl, rfl,
    ⟨[List.replicate 128 0], rfl, by simp⟩, by decide⟩

/-- A COLL of two: before its descriptors, with equal and unequal ones, before its data; of class C1, with a slot of an I/O
die port; a peer that has been silent for 100 ms, and one that has not. -/
def coll2 : Thread := aThread (.coll 0 .fp32 false 32 2 0 4)
theorem test_witness_EngineThreadsComplete_stages :
    let s : State := { dev with threads := [coll2] }
    let d : CollDesc := ⟨0, Fmt.fp32.tag, false, 32, 2, 0⟩
    IdleThread s [] [] coll2 ∧ coll2.told = false ∧ coll2.matched = false ∧ coll2.sent = false ∧ coll2.written = false ∧
    [d, d].length = 2 ∧ [d, d][0]? = some d ∧ (∀ y ∈ [d, d], y = d) ∧ (∃ y ∈ [d, { d with count := 64 }], y ≠ d) ∧
    (coll2.cls.toNat < 2) ∧ ((2, 0), s.cycle / 4) ∉ s.wheelUsed ∧
    slotGroup (s.wheel (2, 0)) s.slotNow coll2.vd coll2.cls = some 3 ∧ slotGroup (0x80FF : BitVec 2048) 0 0 coll2.cls = none := by
  refine ⟨⟨rfl, by simp, ⟨rfl, (fun a h => by cases h), rfl⟩, rfl, fun q h => by cases h⟩, rfl, rfl, rfl, rfl, rfl, rfl, ?_⟩
  decide
theorem test_witness_EngineThreadsComplete_lost :
    let x : Thread := { aThread (.xwr 4 0 none) with sent := true, sentAt := 0 }
    let s : State := { dev with threads := [x], cycle := 70000000 }
    x ∈ s.threads ∧ goesTo s x.op (peerOf s 4) ∧ x.sentAt + 70000000 ≤ s.cycle ∧
    ¬(1 + 70000000 ≤ s.cycle) := ⟨by simp, rfl, by decide, by decide⟩

def aPart : Part := { pos := 0, va := inTile 0x208, src := 0x800000000208, n := 8, outs := [⟨0, 8, 0x800000000400, 0, 0, 8, 1, 0, false⟩] }
theorem test_witness_EngineBytesArrive :
    let a := { aLoad with party := .thread 3, st := .performed }
    let x := { aThread .cpy with reads := [(a.id, aPart)] }
    let s := { withAccs [a] with threads := [x] }
    let w : Window := { st := .live, w := true, granules := [4], peer := 1 }
    let d : State := { dev with wins := dev.wins.setIfInBounds 1 w }
    Among s [] a [] ∧ a.st = .performed ∧ a.party = .thread x.id ∧ s.threads = [] ++ x :: [] ∧ x.reads = [(a.id, aPart)] ∧
    (∀ o ∈ aPart.outs, o.n = o.len) ∧ (aThread (.xwr 0 0 none)).op ≠ .cpy ∧
    d.wins.toList[1]? = some w ∧ w.st = .live ∧ 0 + 0x20000 ≤ w.granules.length * 0x20000 ∧
    0x1FFF8 + 8 ≤ w.granules.length * 0x20000 ∧ d.bad = [] ∧ d.badCtr = [] ∧ d.recrypt = [] ∧ w.granules.Nodup ∧
    (4 * 0x20000) / 64 ∈ ({ d with bad := [0x2000] } : State).bad :=
  ⟨⟨rfl, by simp⟩, rfl, rfl, rfl, rfl, by decide, by decide, rfl, rfl, by decide, by decide, rfl, rfl, rfl, by decide, by decide⟩

/-! ### Tasks -/

/-- The VD node at 0x11000, a plan at 0x11100, an RCB at 0x11200; then with another kind, state, and shape. -/
def devT (kind st shape : Nat) : State :=
  mapped (putAt 0x11000 (devReg { aRegion with plan := 0x11100 } (devG 0x11200 0x11280 (inTile 0x40) (inTile 0x48)))
    [(0x100, 8, 0x11000), (0x118, 8, 1), (0x200, 8, 0x11100), (0x218, 8, kind + 256 * st), (0x220, 8, shape)])
/-- The dispatcher of VD 0 stands on tile 8. -/
def disp (s : State) : State :=
  { s with parked := [(8, { core := { aCore with owner := none, task := some { role := .dispatcher, vd := 0 } } })]
           vds := s.vds.setIfInBounds 0 { s.vd 0 with rect := 0x7070008 } }
def rcbStatus (s : State) : Option Nat :=
  match s.rcbSpot (s.g 1) with
  | .ok p s1 =>
    let ch := s1.chain s1.caller.vd s1.caller.lvl 3 [1, 3] ((s1.node p.pa).w 0)
    some (ch.s.spawnStatus s1.caller (s1.node p.pa) ch)
  | _ => none
theorem test_witness_SpawnWritesItsStatus :
    Runs .us false g1 (devT 2 0 0x101) ∧ HasHandler (devT 2 0 0x101) ∧ ((devT 2 0 0x101).g 1).toNat % 256 = 0 ∧
    ((devT 2 0 0x101).g 2).toNat % 256 ≠ 0 ∧ (devT 2 0 0x101).accs = [] ∧ (devT 2 0 0x101).bad = [] ∧
    (devT 2 0 0x101).recrypt = [] ∧ rcbStatus (devT 2 0 0x101) = some 0 ∧ rcbStatus (devT 1 0 0x101) = some 1 ∧
    (devT 2 0 0x101).hasDispatcher 0 = false ∧ (disp (devT 2 0 0x101)).hasDispatcher 0 = true ∧
    rcbStatus (disp (devT 2 0 0x101)) = some 0 ∧
    rcbStatus (devT 2 1 0x101) = some 2 ∧ rcbStatus (devT 2 6 0x100) = some 3 ∧ nodeField (devT 2 0 0x101) 0x11200 3 0 4 = 2 :=
  ⟨⟨by decide, by decide, by decide⟩, by unfold HasHandler; decide, by decide, by decide, rfl, rfl, rfl, by decide, by decide,
    by decide, by decide, by decide, by decide, by decide, by decide⟩

/-- A run block for the tile beside the caller, one for the caller's own tile, one past the region; one with a reserved bit. -/
theorem test_witness_RunStartsAWorker :
    let s (w6 : Nat) : State := put (devG (inTile 0x40) (inTile 0x48) 0x1000 0) [(0x70, 8, w6)]
    let w (w6 : Nat) : Word := BitVec.ofNat 64 ((s w6).rd (localPa (s w6).cur 0x40 + 8 * 6) 8)
    Runs .us false g1 (s 1) ∧ HasHandler (s 1) ∧ inStore ((s 1).g 1) ∧ ((s 1).g 1).toNat % 64 = 0 ∧ ((s 1).g 2).toNat % 64 ≠ 0 ∧
    ¬inStore ((s 1).g 3) ∧ (s 1).accsOf (.task (s 1).cur) = [] ∧ (s 1).regionAt (s 1).cur = some 0 ∧ (s 1).region 0 = some aRegion ∧
    bits (w 1) 0 6 = 1 ∧ bits (w 1) 8 6 = 0 ∧ bits (w 2) 0 6 = 2 ∧ bits (w 0x41) 6 2 ≠ 0 ∧ aRegion.tileOf 1 ≠ (s 1).cur ∧
    ((s 1).tileAt (aRegion.tileOf 1)).core.task = none :=
  ⟨⟨by decide, by decide, by decide⟩, by unfold HasHandler; decide, by unfold inStore; decide, by decide, by decide,
    by unfold inStore; decide, rfl, by decide, rfl, by decide, by decide, by decide, by decide, by decide, by decide⟩

/-- Tile 1 exits as a worker of tile 0, tile 0 as the lead, settled and with a store still out. -/
def aWorker : Task := { role := .worker, vd := 0, region := 0, block := 0x40, notifyOff := 0x80, notifyVal := 3 }
def devEx : State :=
  { dev with
    tile := { core := { aCore with status := .exiting 5 } }
    parked := [(1, { core := { aCore with status := .exiting 6, task := some aWorker } })] }
theorem test_witness_ExitEndsTasksAndRegions :
    Runs .us false g1 dev ∧ dev.core.task = some leadTask ∧ leadTask.role ≠ .dispatcher ∧
    (devEx.tileAt 1).core.status = .exiting 6 ∧ (devEx.tileAt 1).core.task = some aWorker ∧ aWorker.role = .worker ∧
    devEx.region aWorker.region = some aRegion ∧ Settled devEx 1 ∧
    (windowPa (aRegion.tileOf aWorker.caller) + aWorker.block.toNat + 0x38 + 8 ≤
      windowPa (aRegion.tileOf aWorker.caller) + aWorker.notifyOff) ∧
    devEx.region 0 = some aRegion ∧ aRegion.place.isSome = true ∧ (devEx.tileAt aRegion.crown).core.status = .exiting 5 ∧
    (devEx.tileAt aRegion.crown).core.task = some leadTask ∧ leadTask.role = .lead ∧ Settled devEx aRegion.crown ∧ devEx.bad = [] ∧
    (let s : State := { devEx with accs := [{ aStore with party := .unit 1 0, region := some 0 }] }
     Settled s aRegion.crown ∧ ∃ a ∈ s.accs, a.region = some 0 ∧ a.st ≠ .performed ∧ writesAt a) ∧
    ¬Settled { devEx with accs := [{ aStore with party := .task 1 }] } 1 :=
  ⟨runs_us, rfl, by decide, by decide, by decide, rfl, rfl, ⟨(fun a h => by cases h), fun x h => by cases h⟩, by decide, rfl,
    by decide, by decide, by decide, rfl, ⟨(fun a h => by cases h), fun x h => by cases h⟩, rfl,
    ⟨⟨(fun a h k => by rw [List.mem_singleton.mp h] at k; cases k), fun x h => by cases h⟩,
      ⟨_, List.mem_singleton.mpr rfl, rfl, by decide, .inl rfl⟩⟩,
    fun h => by have := h.1 _ (List.mem_singleton.mpr rfl) rfl; cases this⟩
theorem test_witness_ExitEndsTasksAndRegions_dispatcher :
    let s := dev.setCore { dev.core with task := some { role := .dispatcher } }
    Runs .us false g1 s ∧ s.core.task = some { role := .dispatcher } ∧ Settled s s.cur :=
  ⟨⟨by decide, by decide, by decide⟩, rfl, ⟨(fun a h => by cases h), fun x h => by cases h⟩⟩

/-- An RCB that translates and one that does not; a fenced VD; a parent that holds its tile, one that does not, a saved one. -/
theorem test_witness_MillinerWritesRcbAndNotify :
    let s := devT 2 0 0x101
    let x : Region := { aRegion with rcb := 0x11200 }
    (s.vd x.vd).st ≠ .fenced ∧
    (match s.milAccess x.vd x.lvl .write (x.rcb + BitVec.ofNat 64 0x98) with
      | .ok pa t => pa == 0x11298 && Memory.wf t.mem
      | _ => false) = true ∧
    (match s.milAccess x.vd x.lvl .write ((0x8000000000 : Word) + BitVec.ofNat 64 0x98) with
      | .no => true
      | _ => false) = true ∧
    (({ s with vds := s.vds.set 0 { s.vd 0 with st := .fenced } } : State).vd 0).st = .fenced ∧
    dev.region 0 = some aRegion ∧ aRegion.parent = none ∧ (dev.tileAt aRegion.parentTile).core.owner ≠ none ∧
    (dev.tileAt 5).core.owner = none ∧ ({ aRegion with st := .preempted, place := none } : Region).st = .preempted := by decide

/-- Outside any region; in one alone; in one for whose tiles a region of the same class and VD waits. -/
theorem test_witness_YieldTrapAndBreakpoint :
    Runs .us false g1 dev ∧ Runs .all false g1 dev ∧ HasHandler dev ∧ ({ dev with regions := [] } : State).regionAt dev.cur = none ∧
    dev.regionAt dev.cur = some 0 ∧ dev.region 0 = some aRegion ∧ (dev.unit 0) = [0] ∧
    (dev.restartQuantum (dev.unit 0)).contested 0 = false :=
  ⟨runs_us, runs_all, has_handler, by decide, by decide, rfl, by decide, by decide⟩
def waiter : Region := { aRegion with rcb := 0x2000, w := 7, h := 8, st := .queued, place := none }
theorem test_witness_YieldTrapAndBreakpoint_contested :
    let s : State := { devReg aRegion dev with
      regions := [aRegion, waiter], queue := [1], 
      vds := dev.vds.setIfInBounds 0 { st := .running, gen := 1, rect := 0x7070000, hatbox := 0x100000, hslots := 64 } }
    (s.restartQuantum (s.unit 0)).contested 0 = true ∧ aRegion.stop = .no ∧
    ((s.restartQuantum (s.unit 0)).askStop (.marker s.cycle) (s.unit 0)).isSome = true :=
  ⟨by decide, rfl, by decide⟩

/-- R43: a region that yielded queues behind a new one of its class; another saved region goes before it (R236). -/
theorem test_yield_queues_behind :
    let s (b : Bool) : State := { dev with
      regions := [{ aRegion with st := .preempted, place := none, behind := b }, waiter], queue := [1, 0] }
    (s true).before 1 0 = true ∧ (s true).before 0 1 = false ∧ (s false).before 0 1 = true := by decide

/-! ### Special and privileged registers and instructions -/

/-- A register of each level, from U, S and H; FSTAT with a step's result still out. -/
theorem test_witness_SrdReadsEveryRegister :
    let s : State := dev.setCore { dev.core with inflight := [{ acc := 0, adds := [] }] }
    Runs .all false g1 dev ∧ HasHandler dev ∧ (0x000, 0x1000) ∈ readings dev ++ readingsH dev ∧ reaches dev 0x000 ∧
    ¬reaches dev 0x044 ∧ ¬reaches dev 0x100 ∧ reaches (atLvl .s dev) 0x071 ∧ reaches (devH 1 0) 0x133 ∧ StepsDone dev ∧
    ¬StepsDone s ∧ Runs .all false g1 s :=
  ⟨runs_all, has_handler, by decide, by unfold reaches; decide, by unfold reaches; decide, by unfold reaches; decide,
    by unfold reaches; decide, by unfold reaches; decide, by unfold StepsDone; decide, by unfold StepsDone; decide,
    ⟨by decide, by decide, by decide⟩⟩

/-- Each level; the last value that a register takes and the first that it refuses. -/
theorem test_witness_SwrWritesTheRegister :
    let s := devG 3 4 63 64
    let h := devH 31 0
    Runs .all false g1 s ∧ HasHandler s ∧ (s.g 1).toNat < 4 ∧ 4 ≤ (s.g 2).toNat ∧ (s.g 3).toNat < 64 ∧ 64 ≤ (s.g 4).toNat ∧
    (s.g 2).toNat % 8 ≠ 0 ∧ (s.g 4).toNat % 8 = 0 ∧ s.core.lvl = .u ∧ StepsDone s ∧
    Runs .all false g1 (atLvl .s s) ∧ (atLvl .s s).core.lvl ≠ .u ∧ s.core.ofVd < 32 ∧ bits (4096 * 65536 : Word) 16 13 ≤ 4096 ∧
    4096 < bits (4097 * 65536 : Word) 16 13 ∧
    Runs .all false g1 h ∧ h.core.lvl = .h ∧ (h.g 1).toNat < 32 ∧ (h.g 1).toNat < 97 ∧ bits (h.g 1) 12 52 = 0 ∧
    bits (h.g 1) 16 48 = 0 ∧ (h.g 1) &&& 0x6060606060606060 = 0 ∧ HasHandler h ∧ bits (0x1001 : Word) 12 4 = 1 ∧
    bits (0x1001 : Word) 0 12 / 8 ≠ bits (0x1001 : Word) 0 12 % 8 ∧ 1 ≤ bits (0x4 : Word) 0 4 ∧ bits (0x5 : Word) 0 4 = 5 :=
  ⟨⟨by decide, by decide, by decide⟩, by unfold HasHandler; decide, by decide, by decide, by decide, by decide, by decide,
    by decide, by decide, by unfold StepsDone; decide, ⟨by decide, by decide, by decide⟩, by decide, by decide, by decide, by decide,
    ⟨by decide, by decide, by decide⟩, by decide, by decide, by decide, by decide, by decide, by decide,
    by unfold HasHandler; decide, by decide, by decide, by decide, by decide⟩

/-- Wheels that are named and are not; no command in progress, one of this core's and one of another's. -/
theorem test_witness_SwrWritesTheRegister_commands :
    wheelNamed 0x1F001F ∧ ¬wheelNamed 0x1009 ∧ ¬wheelNamed 0x3000 ∧ (devH 5 0).vdBusy = none ∧
    1 ≤ bits (5 : Word) 0 4 ∧ bits (5 : Word) 0 4 ≤ 5 ∧ ¬1 ≤ bits (0x10 : Word) 0 4 ∧ ¬bits (6 : Word) 0 4 ≤ 5 ∧
    (let s (q : Nat) : State := { devH 5 0 with vdBusy := some (some q, 3) }
     (s 4096).vdBusy = some (some (s 4096).cur, 3) ∧ (some 4097 : Option Nat) ≠ some (s 4097).cur) := by
  unfold wheelNamed; decide

theorem test_witness_EretReturns :
    Runs .handler false g1 devInH ∧ devInH.accs = [] ∧
    ({ devInH with accs := [aStore] } : State).inScope .tile aStore = true ∧ aStore.isFence = false ∧ aStore.st ≠ .performed :=
  ⟨runs_handler, rfl, by decide, by decide, by decide⟩

theorem test_witness_TlbiInvalidatesAndWaits :
    Runs .sh false g1 (atLvl .s dev) ∧ (atLvl .s dev).accsOf (.task 0) = [] ∧ Runs .h false g1 (devH 0 32) ∧
    (devH 0 32).accsOf (.task 4096) = [] ∧ ((devH 0 32).g 1).toNat < 32 ∧ ((devH 0 32).vd 0).st ≠ .none ∧
    ¬((devH 0 32).g 2).toNat < 32 ∧
    (let s : State := { dev.setCore { dev.core with status := .tlbi [1] [] } with accs := [aStore] }
     s.core.status = .tlbi [1] [] ∧ ∃ a ∈ s.accs, a.id ∈ [1] ∧ a.st ≠ .performed) ∧
    (dev.setCore { dev.core with lastOwner := none }).core.ofVd = 0 ∧ (dev.tileAt 7).core.lastOwner ≠ some 0 ∧
    (dev.setCore { dev.core with status := .tlbi [1] [] }).core.status = .tlbi [1] [] :=
  ⟨runs_sh, rfl, ⟨by decide, by decide, by decide⟩, rfl, by decide, by decide, by decide,
    ⟨rfl, aStore, List.mem_singleton.mpr rfl, by decide, by decide⟩, by decide, by decide, rfl⟩

/-- A descriptor in the service core's SRAM: VD 0, one unit from 0, bitmap at 0x100 or in host memory. VD 0 maps the unit
with a page of 4 KiB, or its first GiB with one page, inside which the range then ends. -/
def devD (bitmap : Nat) : State :=
  putAt (localPa 4096 0x40) (mapped (devH (inTile 0x40) 0)) [(0x10, 8, 1), (0x18, 8, bitmap)]
def devD4 : State := putAt 0 (devD 0x7FFFFF000100) [(0x4000, 8, 0x5003), (0x5000, 8, 0x6003), (0x6000, 8, 0x1DD)]
theorem test_witness_DirtyHarvests :
    let s := devD4
    let v := 1 * 2 ^ 128 + 0x7FFFFF000100 * 2 ^ 192
    let t (l : List Reading) : State := s.setCore { s.core with readings := l }
    Runs .h false g1 s ∧ s.accsOf (.task s.cur) = [] ∧ s.core.readings = [] ∧
    okWith (s.checkParts .read 8 false (dwordParts (s.g 1) 4)) (fun r => r.1.map (fun p => p.1.pa) ==
      [localPa 4096 0x40, localPa 4096 0x48, localPa 4096 0x50, localPa 4096 0x58]) = true ∧
    (t [⟨[(3, 0)], 0⟩]).core.readings = [⟨[(3, 0)], 0⟩] ∧ (t [⟨[], v⟩]).core.readings = [⟨[], v⟩] ∧
    (BitVec.ofNat 64 v : Word) = 0 ∧ (s.vd 0).st ≠ .none ∧ (1 ≤ 1 ∧ 262144 ≤ 262144) ∧ ¬(262145 ≤ 262144) ∧
    (0x7FFFFF000100 : Word).toNat % 8 = 0 ∧ okWith (s.leaves 0 0 0 2) (fun l => l == [some ⟨0x1DD, 0x6000⟩, none]) = true ∧
    unitsOf 0 [some ⟨0x1DD, 0x6000⟩] = [some (0, 0x6000, true)] ∧
    okWith ((devD 0x7FFFFF000100).leaves 0 0 0 2) (fun l => (l.map (insidePage 4096)) == [true, true]) = true ∧
    okWith (s.checkParts .write 8 false (dwordParts 0x7FFFFF000100 1))
      (fun r => r.1.map (fun p => p.1.pa) == [localPa 4096 0x100]) = true ∧ s.outstanding 0 = [] ∧
    s.threadsOut 0 = [] ∧ s.core.status = .run :=
  ⟨⟨by decide, by decide, by decide⟩, rfl, rfl, by decide, rfl, rfl, by decide, by decide, by decide, by decide, by decide, by decide,
    by decide, by decide, by decide, by decide, by decide, rfl⟩
/-- A table block that fails verification, and a posted write of the VD that is still out. -/
theorem test_witness_DirtyHarvests_others :
    errWith (({ devD4 with bad := [0x6000 / 64] } : State).leaves 0x40 0 0 2)
      (fun e => match e with
        | .trap c v => c == 0x0A && v == 0x40
        | _ => false) = true ∧
    (let s : State := { devD4 with posted := [{ id := 6, fn := 1, relaxed := false, parts := [] }] }
     s.outstanding 0 = [6]) := by decide
/-- A rectangle of one free tile, one with a task, one past the last column; each answer of FRZ's checks. -/
theorem test_witness_ScrubAndFreeze :
    let s := devH 5 0x0000
    Runs .h false g1 s ∧ bits (5 : Word) 0 6 + (bits (5 : Word) 16 6 + 1) ≤ 64 ∧ 64 < bits (0x1003F : Word) 0 6 + (bits (0x1003F : Word) 16 6 + 1) ∧
    rectTiles 5 0 1 1 = [5] ∧ s.regionAt 5 = none ∧ (s.tileAt 5).core.task = none ∧ (s.tileAt 0).core.task ≠ none ∧ s.cur ≠ 5 ∧
    s.accsOf (.task s.cur) = [] ∧ s.core.freezing = false ∧ s.myFreezes = [] ∧ ¬(32 : Nat) < 32 ∧ (s.vd 0).st ≠ .none ∧
    s.frzRegion 0 0xF000 = none ∧ (s.askStop .wave [0]).isNone = true ∧ (s.vd 0).frozen = false ∧
    bits (0x100 : Word) 9 55 = 0 ∧ (0x100 : Word).getLsbD 8 = true ∧ s.frzIntegrity 0 0xF000 = false ∧ s.frzWaits 0 0xF000 = false ∧
    ({ mapped s with recrypt := [((blockOf 0xF000).1, (blockOf 0xF000).2 / 64)] } : State).frzWaits 0 0xF000 = true ∧ s.threads = [] ∧
    (let z : State := { mapped s with bad := [0xF000 / 64] }
     z.frzIntegrity 0 0xF000 = true ∧ z.core.task.any (·.role == .firmware) = true) :=
  ⟨⟨by decide, by decide, by decide⟩, by decide, by decide, by decide, by decide, by decide, by decide, by decide, rfl, rfl,
    by decide, by decide, by decide, by decide, by decide, by decide, by decide, by decide, by decide, by decide, by decide⟩

/-- FRZ that names region 0 by its RCB, with a save area free; the same in progress, with a save out and without. -/
def devFz : State :=
  let s := mapped { putAt 0x11200 (devH 0 0) [(0x18, 8, 2)] with
    regions := [{ aRegion with rcb := 0x11200 }], vds := dev.vds.setIfInBounds 0 { dev.vd 0 with hatbox := 0x100000, hslots := 64 } }
  s.setCore { s.core with g := s.core.g.set 2 0x11200 }
theorem test_witness_ScrubAndFreeze_began :
    Runs .h false g1 devFz ∧ devFz.frzRegion 0 0x11200 = some 0 ∧ (devFz.vd 0).st ≠ .fenced ∧
    (devFz.askStop .wave (devFz.unit 0)).isSome = true ∧ devFz.region 0 = some { aRegion with rcb := 0x11200 } ∧ aRegion.place.isSome = true ∧
    (let s : State := { devFz.setCore { devFz.core with freezing := true } with frozenBy := [(4096, 0, 0)] }
     s.core.freezing = true ∧ 0 ∈ s.myFreezes ∧ s.accsOf (.task s.cur) = []) ∧
    (let s : State := { devFz.setCore { devFz.core with freezing := true } with frozenBy := [(4096, 0, 1), (4096, 1, 2)] }
     0 ∉ s.myFreezes ∧ 2 ∈ s.myFreezes ∧ s.dispatcherStill 0 = true) ∧
    ((devFz.updVd 0 fun v => { v with frozen := true }).vd 0).frozen = true ∧
    (let s := devFz.updVd 0 fun v => { v with frozen := true, rect := 0 }
     let t := s.updCore 0 fun c => { c with status := .stopped, resume := .barrier 3, task := some { role := .dispatcher } }
     (t.tileAt (t.vd 0).steward).core.status = .stopped ∧ (t.tileAt (t.vd 0).steward).core.task = some { role := .dispatcher }) :=
  ⟨⟨by decide, by decide, by decide⟩, by decide, by decide, by decide, rfl, by decide, ⟨by decide, by decide, rfl⟩,
    ⟨by decide, by decide, by decide⟩, by decide, by decide⟩

/-- OFFER of the one granule of VD 0 to VD 1, or of a range that no leaf maps; ACCEPT's descriptor; the windows
1, 96 and 97; a live window of VD 0 with one granule re-keyed and not. -/
def devW : State :=
  let s := mapped (atLvl .s (put dev [(0x200, 8, 1), (0x210, 8, 1)]))
  let t := s.updVd 1 fun v => { v with st := .running }
  t.setCore { t.core with g := t.core.g.set 1 (inTile 0x200) }
theorem test_witness_WkeyMovesWindows :
    let r (v : Nat) : State := devW.setCore { devW.core with readings := [⟨[], v⟩] }
    devW.guard g1 = true ∧ devW.core.inH = false ∧ devW.core.lvl = .s ∧ devW.accsOf (.task devW.cur) = [] ∧ devW.wkey = none ∧
    devW.core.readings = [] ∧ okWith (devW.checkParts .read 8 false (dwordParts (devW.g 1) 4)) (fun r => r.1.length == 4) = true ∧
    (r (1 + 2 ^ 128)).core.readings = [⟨[], 1 + 2 ^ 128⟩] ∧ (r 0).core.inH = false ∧
    (1 ≤ (1 : Word).toNat ∧ (1 : Word).toNat ≤ 8192) ∧ ¬(8193 : Word).toNat ≤ 8192 ∧ bits (1 : Word) 0 5 ≠ devW.core.ofVd ∧
    (devW.vd 1).st ≠ .none ∧ okWith (devW.leaves 0 0 0 32) (fun l => granulesOf 0 [] l == some [0]) = true ∧
    okWith (devW.leaves 0 0 0x40000000 32) (fun l => granulesOf 0x40000000 [] l == none) = true ∧
    devW.windowHolds 0 = false ∧ (devW.win 1).st = .free := by
  refine ⟨by decide, by decide, by decide, by decide, by decide, by decide, by decide, rfl, by decide, by decide, by decide, by decide,
    by decide, by decide, by decide, by decide, by decide⟩
theorem test_witness_WkeyMovesWindows_others :
    let live (l : List Nat) : Window := { st := .live, owner := 0, peer := 1, granules := [0], rekeyed := l }
    let h := devH 1 0
    h.guard g1 = true ∧ h.core.inH = false ∧ h.core.lvl = .h ∧ (h.g 1).toNat = 1 ∧ (1 ≤ 96 ∧ 96 ≤ 96) ∧ ¬(97 ≤ 96) ∧
    ((h.setWin 1 { live [] with st := .accepted }).win 1).st = .accepted ∧ ((h.setWin 1 (live [])).win 1).st = .live ∧
    ((live []).granules.find? fun z => !(live []).rekeyed.contains z) = some 0 ∧ (∀ g ∈ (live [0]).granules, g ∈ (live [0]).rekeyed) ∧
    ((h.setWin 1 { live [] with st := .closed }).win 1).st = .closed ∧
    ¬throughWindow { h with accs := [] } 1 { live [] with st := .closing } ∧
    throughWindow { h with accs := [{ aLoad with win := 1, vd := 1 }] } 1 { live [] with st := .closing } :=
  ⟨by decide, by decide, by decide, by decide, by decide, by decide, by decide, by decide, by decide, by decide, by decide,
    (fun k => by rcases k with ⟨_, h, _⟩ | ⟨_, h, _⟩ | ⟨_, h, _⟩ <;> cases h),
    .inl ⟨_, List.mem_singleton.mpr rfl, rfl, rfl, by decide⟩⟩

/-! ### VD commands and register writes -/

/-- VD 0 set up for CREATE: one tile, two save slots, hatbox at 0; with its state and grant registers as given. -/
def devC (st : VdState) (base : Word) (n : BitVec 32) : State :=
  { State.reset with
    cur := 4096, vdgbase := base, vdgcount := n
    vds := State.reset.vds.setIfInBounds 0 { st := st, hslots := 2, felt := [0], hbm := [0], s2root := 1 } }
def freshVd : Vd := { hslots := 2 }
def devC0 : State := { State.reset with cur := 4096, vds := State.reset.vds.setIfInBounds 0 freshVd }
theorem test_witness_VdCommandsCreateGrantRevoke_create :
    (devC0.vd 0).st = .none ∧ (devC0.vd 0).st ≠ .created ∧ 0 + 1 ≤ 64 ∧ rectTiles 0 0 1 1 = [0] ∧
    (∀ t ∈ rectTiles 0 0 1 1, ∀ o ∈ devC0.vds.toList, o.owns t = false) ∧ 2 * (1 * 1) ≤ bits freshVd.hslots 0 16 ∧
    ¬2 * (1 * 1) ≤ bits (1 : Word) 0 16 ∧ (freshVd.hatFirst + freshVd.hatGranules) * 0x20000 ≤ Config.hbmSize ∧
    (∀ g, g < 20 → devC0.taken g = false) ∧ freshVd.hatFirst + freshVd.hatGranules = 20 ∧ devC0.cur ∉ rectTiles 0 0 1 1 ∧
    (devC .created 0 0).vds.toList.any (fun o => o.owns 0) = true ∧ devC0.vdBusy = none ∧
    ({ devC0 with vdBusy := some (some 7, 3) } : State).vdBusy ≠ none := by decide
/-- GRANT and REVOKE of HBM granules 100 and 0, of felt granule 0; a count of 0; a range past the end. -/
theorem test_witness_VdCommandsCreateGrantRevoke :
    (let s := devC .created 0xC80000 1
     s.vdgcount.toNat ≠ 0 ∧ s.vdgbase.getLsbD 0 = false ∧ bits s.vdgbase 12 36 * 4096 % 0x20000 = 0 ∧
     (s.vd 0).st = .created ∧ bits s.vdgbase 12 36 * 4096 + 1 * 0x20000 ≤ Config.hbmSize ∧ s.taken 100 = false ∧ s.taken 0 = true ∧
     0 ∈ (s.vd 0).hbm ∧ 100 ∉ (s.vd 0).hbm ∧ s.windowHolds 0 = false ∧ (devC .created 0 0).vdgcount.toNat = 0 ∧
     bits (0x1000 : Word) 12 36 * 4096 % 0x20000 ≠ 0 ∧ ¬0xFFFFFFFFFFFF ≤ Config.hbmSize) ∧
    (let s := devC .running (BitVec.ofNat 64 (Config.feltBase + 1)) 1
     s.vdgbase.getLsbD 0 = true ∧ bits s.vdgbase 12 36 * 4096 = Config.feltBase ∧ 0 ∈ (s.vd 0).felt ∧ (s.vd 0).st ≠ .none) :=
  ⟨⟨by decide, by decide, by decide, by decide, by decide, by decide, by decide, by decide, by decide, by decide, by decide,
    by decide, by decide⟩, by decide, by decide, by decide, by decide⟩

/-- START of a VD that is created, of one whose dispatcher has ended, one without a stage-2 root, one that does not exist; DESTROY
with a window, with a write on its way, with none; one that has begun. -/
theorem test_witness_VdCommandsStartDestroy :
    (let s := devC .created 0 0
     (s.vd 0).disp.toNat % 8 = 0 ∧ bits (s.vd 0).s1init 48 16 = 0 ∧ bits (s.vd 0).s1init 1 11 = 0 ∧ (s.vd 0).st = .created ∧
     (s.vd 0).s2root.getLsbD 0 = true ∧ freshVd.s2root.getLsbD 0 = false ∧ (devC0.vd 0).st = .none ∧
     ¬(∃ x ∈ s.wins.toList, x.st ≠ .free ∧ (x.owner = 0 ∨ x.peer = 0)) ∧ (s.vdKillAll 0).accs = [] ∧
     s.vdBusy = none ∧ Memory.wf s.mem = true) ∧
    (let s := devC .running 0 0
     (s.vd 0).st = .running ∧ s.hasDispatcher 0 = false ∧ ({ s with vdBusy := some (none, 0) } : State).vdBusy = some (none, 0)) ∧
    (let s := (devC .created 0 0).setWin 1 { st := .live }
     ∃ x ∈ s.wins.toList, x.st ≠ .free ∧ (x.owner = 0 ∨ x.peer = 0)) ∧
    (let s : State := { devC .created 0 0 with accs := [{ aStore with st := .arrived }] }
     ∃ a ∈ (s.vdKillAll 0).accs, a.vd = 0 ∧ (a.st = .queued ∨ a.st = .arrived) ∧ s.cycle < a.born + 700000 ∧ writesAt a) :=
  ⟨⟨by decide, by decide, by decide, by decide, by decide, by decide, by decide, by decide, by decide, rfl, by decide⟩,
    ⟨by decide, by decide, rfl⟩, by decide, ⟨_, .head _, by decide, by decide, by decide, .inl rfl⟩⟩

/-- Legal and refused values of each register; the crown tile's tables; an accumulator in flight with a held write. -/
theorem test_witness_RegisterWritesLand :
    bits (0xFFFFFFFFF001 : Word) 48 16 = 0 ∧ bits (0xFFFFFFFFF001 : Word) 1 11 = 0 ∧ bits (0x2 : Word) 1 11 ≠ 0 ∧
    (0x9F9F9F9F9F9F9F9F : Word) &&& 0x6060606060606060 = 0 ∧ (0x20 : Word) &&& 0x6060606060606060 ≠ 0 ∧
    bits (0x1F0000FFFF : Word) 37 27 = 0 ∧ bits (0x1F0000FFFF : Word) 16 16 = 0 ∧ bits (0x10000 : Word) 16 16 ≠ 0 ∧
    bits (0x1000000F : Word) 16 13 ≤ 4096 ∧ 4096 < bits (0x1001000F : Word) 16 13 ∧ bits (0x1000000F : Word) 4 12 = 0 ∧
    dev.regionAt 0 = some 0 ∧ dev.region 0 = some aRegion ∧ aRegion.crown = 0 ∧ 0x3F8 % 8 = 0 ∧ 0x3F8 < 0x400 ∧
    (0x80FF : Word) &&& 0x7F007F007F007F00 = 0 ∧ (0x100 : Word) &&& 0x7F007F007F007F00 ≠ 0 ∧ (3 : Word).toNat < 4 ∧
    dev.core.fBit 0 = false ∧ dev.core.atBoundary = true ∧ ({ dev.core with stepAt := some 1 } : Core).atBoundary = false ∧
    (let s := dev.setCore { dev.core with inflight := [{ acc := 0, adds := [] }], heldAcc := [(8, 5)] }
     s.core.fBit 0 = true ∧ s.core.heldAcc = [(8, 5)]) :=
  ⟨by decide, by decide, by decide, by decide, by decide, by decide, by decide, by decide, by decide, by decide, by decide,
    by decide, rfl, by decide, by decide, by decide, by decide, by decide, by decide, by decide, by decide, by decide, by decide,
    by decide⟩

/-! ### The milliner -/

/-- A queued region of VD 0, alone, its place at column 1; with a tile that another VD used last; the same saved. -/
def queued (st : RState) : Region := { aRegion with st := st, place := none }
def devQ (st : RState) : State :=
  let s := mapped { dev with regions := [queued st], queue := [0], cycle := 100 }
  { s with tile := { core := { aCore with task := none, owner := none, status := .idle } } }
theorem test_witness_RegionsArePlacedAndRestored :
    (devQ .queued).placesUnit [⟨0, 1, 0⟩] = true ∧ (devQ .queued).placesFree [] [] [⟨0, 1, 0⟩] = true ∧
    (devQ .queued).region 0 = some (queued .queued) ∧ 1 ≤ (queued .queued).w ∧ (rectTiles 1 0 2 1).Nodup ∧
    (queued .queued).st ≠ .preempted ∧ (queued .queued).image = 0 ∧ Verifies (devQ .queued) ∧ (queued .queued).vd < 32 ∧
    (devQ .queued).placesFree [] [] [⟨0, 0, 0⟩] = false ∧ ((devQ .queued).tileAt 1).core.lastOwner = none ∧
    (devQ .preempted).placesUnit [⟨0, 1, 0⟩] = true ∧ (devQ .preempted).placesFree [] [] [⟨0, 1, 0⟩] = true ∧
    (devQ .preempted).region 0 = some (queued .preempted) ∧ (queued .preempted).st = .preempted :=
  ⟨by decide, by decide, rfl, by decide, by decide, by decide, rfl, ⟨rfl, rfl⟩, by decide, by decide, by decide, by decide, by decide, rfl,
    rfl⟩
/-- A tile slot that fails verification and one that reads back. -/
def zeroSlot : State := { dev with mem := [(4097, 0x18), (4098, 1)] }
theorem read_zeros (m : List Host.Cell) (n : Nat) : ∀ a, (∀ y, a ≤ y → Memory.get m y = 0) → Memory.read m a n = 0 := by
  induction n with
  | zero => intro a _; rfl
  | succ n ih =>
    intro a h
    simp only [Memory.read, h a (Nat.le_refl a), ih (a + 1) (fun y k => h y (by omega))]
    rfl
theorem toBytes_zero (n : Nat) : toBytes n 0 = List.replicate n 0 := by
  induction n with
  | zero => rfl
  | succ n ih => simp only [toBytes, Nat.zero_div, ih, List.replicate_succ]; rfl
theorem ofBytes_zeros (n : Nat) : ofBytes (List.replicate n 0) = 0 := by
  induction n with
  | zero => rfl
  | succ n ih =>
    show (0 : Byte).toNat + 256 * ofBytes (List.replicate n 0) = 0
    rw [ih]; rfl
theorem unpackBlock_zeros (n : Nat) : unpackBlock false (List.replicate n 0) = (0, 4) := by
  simp only [unpackBlock, List.take_replicate, List.drop_replicate, ofBytes_zeros]
  decide
theorem unpackBlocks_zeros (n : Nat) : ∀ i, unpackBlocks (fun _ => false) n i (List.replicate (4 * n) 0) = some (List.replicate n 0) := by
  induction n with
  | zero => intro i; rfl
  | succ n ih =>
    intro i
    have e : 4 * (n + 1) - 4 = 4 * n := by omega
    have k : ¬4 * (n + 1) < 4 := by omega
    simp only [unpackBlocks, unpackBlock_zeros, List.length_replicate, k, if_false, List.drop_replicate, e, ih,
      List.replicate_succ]
theorem getSlot_zeros (s : State) (pa n : Nat) (k : n = 17920) (l : s.rd pa 8 = 4 * n) (r : s.rd (pa + 0x40) 2240 = 0)
    (d : s.rd (pa + 0x900) (4 * n) = 0) (h : 4 * n ≤ 1146880) : s.getSlot pa = some (List.replicate n 0) := by
  have e := unpackBlocks_zeros n 0
  have f : (fun i => 0 / 2 ^ i % 2 == 1) = fun _ : Nat => false := by funext i; simp
  unfold State.getSlot
  simp only [l, r, d, toBytes_zero, Nat.not_lt.mpr h, if_false, f, ← k]
  exact e
theorem get_zeroSlot (y : Nat) (h : 4104 ≤ y) : Memory.get zeroSlot.mem y = 0 := by
  have a : y ≠ 4097 := by omega
  have b : y ≠ 4098 := by omega
  have e : Memory.get zeroSlot.mem y = Memory.unlisted := by
    simp [zeroSlot, Memory.get, Ne.symm a, Ne.symm b]
  rw [e]; rfl
theorem test_witness_RegionsArePlacedAndRestored_slots :
    ({ dev with bad := [64] } : State).slotBad 4096 = true ∧ (dev.vd 0).st ≠ .none ∧ dev.getSlot 4096 = none ∧
    zeroSlot.getSlot 4096 = some (List.replicate 17920 0) ∧ zeroSlot.slotBad 4096 = false := by
  refine ⟨by decide, by decide, by decide, ?_, by decide⟩
  have l : zeroSlot.rd 4096 8 = 4 * 17920 := by decide
  have r (a n : Nat) (h : 4104 ≤ a) : zeroSlot.rd a n = 0 :=
    read_zeros _ n a fun y k => get_zeroSlot y (Nat.le_trans h k)
  exact getSlot_zeros zeroSlot 4096 17920 rfl l (r _ _ (by omega)) (r _ _ (by omega)) (by omega)

/-- A quantum that has ended, with and without a waiting region; a class C0 region past its limit; a request by marker just
before and at its time limit; a freeze wave with a request of the fabric out and none. -/
theorem test_witness_RegionsAreAskedToStop :
    let x : Region := { aRegion with stop := .marker 4464 }
    let s : State := { devReg x dev with cycle := 70000 }
    s.region 0 = some x ∧ (s.vd 0).st = .running ∧ 2 ≤ x.aged ∧ x.quantumAt + 700 * x.quantum ≤ s.cycle ∧ 0 ∉ s.queue ∧
    x.stop = .marker 4464 ∧ 4464 + 65536 ≤ s.cycle ∧ ({ s with cycle := 69999 } : State).cycle < 4464 + 65536 ∧
    x.place.isSome = true ∧ x.marked = false ∧ x.tilesOf.Nodup ∧ (∀ t ∈ x.tilesOf, (s.tileAt t).fab.flushed = true) ∧
    aRegion.stop = .no ∧ aRegion.fault = none ∧ aRegion.gang = none ∧ aRegion.hat = none ∧ s.contested 0 = false ∧
    (let y : Region := { aRegion with aged := 0 }
     let u : State := { devReg y dev with cycle := 700001, vds := dev.vds.setIfInBounds 0 { dev.vd 0 with c0lim := 1 } }
     y.aged = 0 ∧ (u.vd 0).c0lim.toNat ≠ 0 ∧ y.yieldAt + 700000 * (u.vd 0).c0lim.toNat < u.cycle) ∧
    (∃ a ∈ [{ aStore with party := Party.unit 1 0 }], ∃ t, x.covers t = true ∧ ∃ k, a.party = .unit t k) := by
  refine ⟨rfl, by decide, by decide, by decide, by decide, rfl, by decide, by decide, by decide, rfl, by decide, by decide, rfl, rfl,
    rfl, rfl, by decide, ⟨rfl, by decide, by decide⟩, ⟨_, .head _, 1, by decide, 0, rfl⟩⟩
theorem test_witness_RegionsAreAskedToStop_contested :
    let s : State := { dev with
      regions := [aRegion, waiter], queue := [1], cycle := 700
      vds := dev.vds.setIfInBounds 0 { st := .running, gen := 1, rect := 0x7070000, hatbox := 0x100000, hslots := 64 } }
    s.contested 0 = true ∧ s.findArea 0 aRegion.areaSize = some 0 ∧ 1 ∈ s.queue ∧ waiter.waited ≠ 3 :=
  ⟨by decide, by decide, by decide, by decide⟩

/-- A slot with the marker at its one inlet; a core that may stop; a region all of whose elements and cores have stopped. -/
theorem test_witness_RegionsStopAndAreSaved :
    let pm : Token := { kind := .mark, pm := true }
    let x : Region := { aRegion with stop := .marker 0, marked := true, hat := some (0, 4096), w := 1 }
    let s := devReg x (devFab { ported with slots := #v[{ slotOf (slotFrame 5 2 1 0 1 [0]) with ins := #v[[], [pm], [], []] }, {}, {}, {}] })
    s.regionAt 0 = some 0 ∧ s.region 0 = some x ∧ x.marked = true ∧ x.stop ≠ .wave ∧ s.marksHere x 0 (.slot 0) = true ∧
    ((s.tileAt 0).fab.slot 0).on = true ∧ ((s.tileAt 0).fab.slot 0).stopped = false ∧ MarkerHead [pm] ∧
    (let u := devReg { x with stop := .wave } dev
     u.stopsTask 0 = true ∧ u.accsOf (.task 0) = [] ∧ u.core.pend = [] ∧ u.core.inflight = [] ∧ u.wkey ≠ some 0 ∧
     goesBackTo u.core = some .run ∧ u.core.heldAcc = [] ∧ goesBackTo { u.core with status := .idle } = none ∧
     goesBackTo { u.core with status := .exiting 3 } = some .run ∧ u.saveWaits x = false) ∧
    (let y : Region := { x with stop := .wave }
     let v := devReg y (dev.setCore { dev.core with status := .stopped, resume := .run })
     v.saveReady 0 y = true ∧ (v.vd y.vd).st = .running ∧ Verifies v ∧ y.hat.isSome = true ∧ y.domainSave = none) ∧
    (let z : Region := { x with fault := some ⟨0x0B, 0, 0, 0⟩ }
     let v := devReg z dev
     v.core.task = some leadTask ∧ leadTask.role ≠ .dispatcher ∧ v.region leadTask.region = some z ∧ z.fault ≠ none ∧
     z.domainSave = none) := by
  refine ⟨by decide, rfl, rfl, by decide, by decide, by decide, by decide, ⟨_, _, rfl, rfl, rfl⟩, ⟨by decide, rfl, rfl, rfl, by decide,
    by decide, rfl, by decide⟩, ⟨by decide, by decide, ⟨rfl, rfl⟩, rfl, rfl⟩, rfl, by decide, rfl, by decide, rfl⟩

theorem test_witness_SavedImageHoldsItsRegion : aRegion.w < 256 ∧ aRegion.h < 256 ∧ Memory.wf dev.mem = true ∧ Verifies dev ∧
    (dev.vd aRegion.vd).st ≠ .fenced ∧ dev.core.loops.length ≤ 2 ∧ dev.core.shadow.loops.length ≤ 2 ∧ 0 < 2 ^ 512 := by
  refine ⟨by decide, by decide, by decide, ⟨rfl, rfl⟩, by decide, by decide, by decide, Nat.two_pow_pos _⟩

/-- A fault of region 0 under each policy; a killed region with no write out and with one. -/
theorem test_witness_FaultDomainsAndSoftErrors :
    let f : FaultRec := ⟨0x0B, 0, 0, 0⟩
    let x (p : Nat) : Region := { aRegion with fault := some f, policy := p }
    let s (p : Nat) : State := devReg (x p) { dev with vds := dev.vds.setIfInBounds 0 { dev.vd 0 with hslots := 64 } }
    (s 2).region 0 = some (x 2) ∧ (x 2).fault = some f ∧ (x 2).place.isSome = true ∧ ((s 2).vd 0).st = .running ∧
    (x 2).domainSave = none ∧ (x 2).restarted = false ∧ (x 2).image = 0 ∧ Verifies (s 2) ∧ (s 1).domainOf (x 1) = [0] ∧
    (s 0).domainOf (x 0) = [0] ∧ (s 0).findArea 0 (x 0).areaSize = some 0 ∧
    (let y : Region := { aRegion with killed := some (true, f), place := none, st := .faulted }
     let t := devReg y dev
     t.region 0 = some y ∧ y.killed = some (true, f) ∧ (t.vd y.vd).st = .running ∧ t.accs = [] ∧ Verifies t ∧
     ∃ a ∈ [{ aStore with region := some 0 }], a.region = some 0 ∧ a.st ≠ .performed ∧ writesAt a) :=
  ⟨rfl, rfl, by decide, by decide, rfl, rfl, rfl, ⟨rfl, rfl⟩, by decide, by decide, by decide, rfl, rfl, by decide, rfl, ⟨rfl, rfl⟩,
    ⟨_, .head _, rfl, by decide, .inl rfl⟩⟩

/-! ### The host port, start-up and power -/

/-- Window 0 of function 1 maps the first 4 GiB, for reads and writes; VD 0 maps its first GiB. -/
def devHost : State := putAt (Config.ioBase + 0x2000100) (mapped dev) [(0, 8, 0xE000000000000000)]
def leafH : Leaf := ⟨0xA0000000001DD, 0x4000⟩
theorem passes_host (u : Use) (h : u ≠ .fetch) : Passes devHost 1 0x100 8 u 0x100 leafH := by
  cases u with
  | fetch => exact absurd rfl h
  | read =>
    exact ⟨⟨by decide, by decide, by decide, fun k => absurd k.2 (by decide)⟩, ⟨by decide, by decide⟩, ⟨rfl, rfl⟩, .inl (by decide),
      ⟨by decide, by decide⟩⟩
  | write =>
    exact ⟨⟨by decide, by decide, by decide, fun k => absurd k.2 (by decide)⟩, ⟨by decide, by decide⟩, ⟨rfl, rfl⟩, .inl (by decide),
      ⟨by decide, by decide⟩⟩
  | atomic =>
    exact ⟨⟨by decide, by decide, by decide, fun k => absurd k.2 (by decide)⟩, ⟨by decide, by decide⟩, ⟨rfl, rfl⟩, .inl (by decide),
      ⟨by decide, by decide⟩⟩
/-- A write that passes through BAR2, the last of BAR0, the first byte behind it, one through an entry without V, one of a
fenced VD, one to a failing block; a held write behind an earlier one. -/
theorem test_witness_HostWritesKeepTheirOrder :
    PortOpen devHost 1 ∧ ¬PortOpen devHost 33 ∧ (devHost.postedOf 1).length < 64 ∧ InBlock 0x100 8 ∧
    Target devHost 1 0x100 8 .write 0x100 0 (devHost.setBits [(0x4000, 0xC0)]) ∧
    Target devHost 1 (2 ^ 36 + 0xFFF8) 8 .write (mailbox 1 + 0xFFF8) 0 devHost ∧
    Fails devHost 1 (2 ^ 36 + 0xFFF9) 8 .write ∧ Fails devHost 1 (2 ^ 32) 8 .write ∧ (devHost.vd 0).st ≠ .none ∧
    FencedFn (devHost.updVd 0 fun v => { v with st := .fenced }) 1 ∧ ({ devHost with bad := [4] } : State).isBad 0x100 = true ∧
    devHost.posted = [] ∧ ({ devHost with posted := [{ id := 0, fn := 1, relaxed := false, parts := [(0, 0, [1])] }] } : State).postedOf 1 ≠ [] ∧
    (let x : Access := { aStore with party := .inbound 1, st := .performed }
     Among (withAccs [x]) [] x [] ∧ x.party = .inbound 1 ∧ x.st = .performed ∧ aStore.st ≠ .performed) :=
  ⟨⟨rfl, by decide⟩, fun h => absurd h.2 (by decide), by decide, ⟨by decide, by decide, by decide⟩,
    .bar2 _ leafH (passes_host _ (by decide)) (by unfold Unverified; decide), .bar0 0xFFF8 (by decide) (by decide) (by decide) (fun k => absurd k.2 (by decide)),
    .beyond 0xFFF9 (by decide) (.inl (by decide)), .entry (by decide) (by decide) (fun k => absurd k.1 (by decide)), by decide,
    ⟨by decide, by decide⟩, by decide, rfl, by decide, among_first _, rfl, rfl, by decide⟩

theorem test_witness_HostReadsAndAtomicsComplete :
    PortOpen devHost 1 ∧ InBlock 0x100 8 ∧ devHost.postedOf 1 = [] ∧ ¬FencedFn devHost 1 ∧ (devHost.vd 0).st ≠ .none ∧
    Target devHost 1 0x100 8 .read 0x100 0 (devHost.setBits [(0x4000, 0x40)]) ∧
    Target devHost 1 0x100 8 .atomic 0x100 0 (devHost.setBits [(0x4000, 0xC0)]) ∧ 0x100 % 8 = 0 ∧
    Fails devHost 1 (2 ^ 36 + 8) 8 .atomic ∧ Fails devHost 1 (2 ^ 32) 8 .read ∧ Passes devHost 1 0x100 8 .read 0x100 leafH :=
  ⟨⟨rfl, by decide⟩, ⟨by decide, by decide, by decide⟩, rfl, fun k => absurd k.2 (by decide), by decide,
    .bar2 _ leafH (passes_host _ (by decide)) (by unfold Unverified; decide), .bar2 _ leafH (passes_host _ (by decide)) (by unfold Unverified; decide), by decide,
    .beyond 8 (by decide) (.inr rfl), .entry (by decide) (by decide) (fun k => absurd k.1 (by decide)), passes_host _ (by decide)⟩
/-- A page that is not the VD's; a block that fails, for a read and a part of a block, and one whose counters fail. -/
theorem test_witness_HostReadsAndAtomicsComplete_refused :
    (devHost.updVd 0 fun v => { v with hbm := [] }).physCheck 0 0 0 0x100 .write 0 = some (.fault cStage2Permission) ∧
    Unverified { devHost with bad := [4] } 8 .write 0x100 ∧ ¬Unverified { devHost with bad := [4] } 64 .write 0x100 ∧
    Unverified { devHost with badCtr := [((blockOf 0x100).1, 0, (blockOf 0x100).2 / 64)] } 64 .write 0x100 ∧
    0x101 % 8 ≠ 0 ∧ Memory.wf devHost.mem = true := by
  unfold Unverified; decide

/-- In reset; at each stage; at the stage of READY. Above and at the power cap, at 100 and 110 °C. -/
theorem test_witness_DeviceStartsInStages :
    State.reset.perst = true ∧ dev.perst = false ∧
    (∀ n ∈ [1, 2, 3, 4], ({ dev with stage := n } : State).stage = n ∧ dev.halted = false) ∧ ¬dev.stage < 5 ∧
    dev.off = false ∧ ({ dev with halted := true } : State).halted = true ∧ Memory.wf dev.mem = true ∧
    ({ dev with agenda := [⟨1, .core 0 false⟩] } : State).agenda = ⟨1, .core 0 false⟩ :: [] := by decide
/-- A C3 region runs: its class is first; with that class slow, or none of it, C0 comes last. -/
def twoClasses : State := { dev with regions := [{ aRegion with aged := 3 }, { aRegion with aged := 0 }], slow := 8 }
theorem classRuns_twoClasses (c : Nat) : ClassRuns twoClasses c ↔ c = 3 ∨ c = 0 := by
  constructor
  · rintro ⟨x, h, _, _, e⟩
    rcases h with _ | ⟨_, h⟩
    · exact .inl e.symm
    · rcases h with _ | ⟨_, h⟩
      · exact .inr e.symm
      · cases h
  · rintro (rfl | rfl)
    · exact ⟨_, .head _, rfl, rfl, rfl⟩
    · exact ⟨_, .tail _ (.head _), rfl, rfl, rfl⟩
theorem test_witness_PowerIsCappedAndFramesRepeat_classes :
    SlowTurn twoClasses 3 ∧ SlowTurn twoClasses 0 ∧ ¬SlowTurn { twoClasses with slow := 0 } 0 := by
  refine ⟨⟨(classRuns_twoClasses 3).mpr (.inl rfl), .inl rfl⟩, ⟨(classRuns_twoClasses 0).mpr (.inr rfl), .inr (.inr ⟨rfl,
    .inr (by simp [classRuns_twoClasses]), .inr (by simp [classRuns_twoClasses]), .inl (by decide)⟩)⟩, ?_⟩
  rintro ⟨_, h | ⟨h, _⟩ | ⟨_, _, _, h | h⟩⟩
  · cases h
  · simp at h
  · simp at h
  · exact h ((classRuns_twoClasses 3).mpr (.inl rfl))

/-! ### Results that the spec's tables and examples state -/

/-- A word runs, and p holds of what follows. -/
def ran (w : Word) (s : State) (p : State → Bool) : Bool :=
  match decode w with
  | .ok i =>
    match exec i s with
    | .next t => p t
    | _ => false
  | .error _ => false
def then_ (o : Host.Outcome State Fault Refusal) (p : State → Bool) : Bool :=
  match o with
  | .next t => p t
  | _ => false
/-- g6 and g7 as given. -/
def dev67 (a b : Word) : State := dev.setCore { dev.core with g := (dev.core.g.set 6 a).set 7 b }

/-- ADD.W wraps and sign-extends (R347). -/
theorem test_add_w_wraps : ran 0x0005187000200000 (dev67 0x7FFFFFFF 1) (fun t => t.g 5 == 0xFFFFFFFF80000000) = true := by decide
/-- MOVI g10, 0xFF00_0000 (chapter 20). -/
theorem test_movi_sign_extends : ran 0x040A0200FF000000 dev (fun t => t.g 10 == 0xFFFFFFFFFF000000) = true := by decide
/-- The table of DIV (R365). -/
theorem test_div_truncates : ran 0x0005187001000000 (dev67 (-7) 2) (fun t => t.g 5 == -3) = true := by decide
theorem test_div_unsigned : ran 0x0005187001010000 (dev67 (-7) 2) (fun t => t.g 5 == 0x7FFFFFFFFFFFFFFC) = true := by decide
theorem test_div_most_negative :
    ran 0x0005187001000000 (dev67 0x8000000000000000 (-1)) (fun t => t.g 5 == 0x8000000000000000) = true := by decide
/-- DIVIDE_BY_ZERO (0x0E) leaves g[D] and gives EVAL 0 (R365). -/
theorem test_div_by_zero :
    ran 0x0005187001000000 ((dev67 5 0).setCore { (dev67 5 0).core with g := (dev67 5 0).core.g.set 5 9 }) (fun t => t.g 5 == 9 &&
      t.core.cause == 0x0E && t.core.eval == 0 && t.core.pc == 0x7FFFFF000800 && t.core.epc == 0x7FFFFF000100) = true := by decide
/-- The shifts of chapter 22 (R402). -/
theorem test_shl_w : then_ (exec (.shlImm g1 true 5 6 1) (dev67 0x40000001 0)) (fun t => t.g 5 == 0xFFFFFFFF80000002) = true := by
  decide
theorem test_sar_count_65 :
    ran 0x0005187003000000 (dev67 0x8000000000000010 65) (fun t => t.g 5 == 0xC000000000000008) = true := by decide
/-- TILEID of the tile at column 40, row 21 (chapter 00). -/
theorem test_tileid :
    then_ (exec (.srd g1 5 0x001) { dev with cur := 1384, parked := [(0, dev.tile)] }) (fun t => t.g 5 == 0x1528) = true := by decide

/-! The lane table of VADD, the VRANK example, the quotient of chapter 04 (R83, R413 to R415, R433). -/
def lane0 (f : Fmt) (x : Nat) : Token := { fmt := f.tag, valid := 1, lanes := BitVec.ofNat 512 x }
def addsTo (f : Fmt) (rm : Rm) (a b x : Nat) (fl : BitVec 6) : Bool :=
  then_ (exec (.vadd g1 f rm 3 1 2) (devV (lane0 f a) (lane0 f b) {})) fun t =>
    laneOf (t.v 3).lanes 0 == BitVec.ofNat 32 x && t.core.fstat == fl
theorem test_vadd_tie_to_even : addsTo .bf16 .rne 0x3F80 0x3B80 0x3F80 0x10 = true := by decide
theorem test_vadd_up : addsTo .bf16 .rup 0x3F80 0x3B80 0x3F81 0x10 = true := by decide
theorem test_vadd_zeros_down : addsTo .fp32 .rdn 0 0x80000000 0x80000000 0 = true := by decide
theorem test_vadd_int8_wraps : addsTo .int8 .rne 100 100 0xC8 0 = true := by decide
def sixLanes : Token :=
  { fmt := Fmt.fp32.tag, valid := 0x3F
    lanes := (([0x40200000, 0xBF800000, 0x40200000, 0, 0x40E00000, 0x80000000] : List Nat).foldr (fun x r => x + r * 2 ^ 32) 0 : Nat) }
theorem test_vrank : ran 0x3022840001C10000 (devV sixLanes {} {}) (fun t =>
    (List.range 6).map (fun i => (laneOf (t.v 2).lanes i).toNat) == [1, 3, 5, 0, 2, 4] && (t.v 2).valid == 0x3F) = true := by decide
theorem test_vrank_desc : ran 0x3022840001C10001 (devV sixLanes {} {}) (fun t =>
    (List.range 6).map (fun i => (laneOf (t.v 2).lanes i).toNat) == [4, 0, 2, 3, 5, 1]) = true := by decide
theorem test_vqnt_exact_quotient : (qntLane .fp32 .fp8e4 .rne (Fmt.fp32.value 0x40400000) 0x3F7C0000).1 = 0x2A := by decide

/-! The example of chapter 05: one column, one row, one group; its contribution is 2.0, its table begins 0x61, 0x90. -/
def devRd : State :=
  put (devG (inTile 0x200) (inTile 0x300) (inTile 0x340) (BitVec.ofNat 64 (1 + 2 ^ 8 + 32 * 2 ^ 16 + 0x400 * 2 ^ 32)))
    [(0x200, 8, 0xBF8040003F003F80), (0x300, 2, 0x03E3), (0x340, 2, 0x3E80)]
def onlyStep : State :=
  match exec (.rdot g1 .bf16 .int4 false false false 0 1 2 3 4) devRd with
  | .next t => t
  | _ => devRd
theorem test_rdot_example :
    then_ (exec (.macroStepResult 0) onlyStep) (fun t => (t.core.rdA 0).el[0] == 0x40000000 && (t.core.rdA 0).v) = true := by decide
theorem test_rank_example :
    then_ (exec (.rank g1 .int4 2 4) devRd) (fun t => t.rd 0x800000000400 2 == 0x9061) = true := by decide

/-! The example of chapter 11: a 16 KiB page over a 1 GiB page, whose entry 325 takes its A bit; the home of the address. -/
def devTwo : State :=
  { putAt 0 dev [(0x1000, 8, 0x2003), (0x2800, 8, 0x3003), (0x3488, 8, 0x4003), (0x4A28, 8, 0x000100020000C12D),
      (0x5000, 8, 0x6003), (0x6000, 8, 0x000A0000000001DD), (0x6040, 8, 0x000A0100000001DD)] with
    vds := dev.vds.setIfInBounds 0 { dev.vd 0 with hbm := [0], s1root := 0x1001, s2root := 0x5001, tlbctl := 1 } }
theorem test_two_stage_walk :
    okWith (devTwo.walk2 0 true .read 0x4012345678) (fun r => r.1.pa 0x4012345678 == 0x01000000D678 && r.2.contains (0x4A28, 0x40)) =
      true := by decide
theorem test_home_of_address :
    stackOf 0x01000000D678 = (11, 16) ∧ blockOf 0x01000000D678 = (11, 0x20000019) := by decide

/-- The BOUND example of chapter 09: thr_up = 0.5; 0.375 and 0.4375 lie below it, 0.5 and 0.625 do not (R155). -/
theorem test_bound_example :
    let up := thrUp 0x3F800000 0x3E800000 0x3F400000
    boundBelow 0x3EC00000 up = true ∧ boundBelow 0x3EE00000 up = true ∧ boundBelow 0x3F000000 up = false ∧
    boundBelow 0x3F200000 up = false := by decide
/-- Row 3 of the TOPK example: (0.7, 2) evicts (0.7, 3) behind (0.9, 1) (R156). -/
def scored (x : BitVec 32) (tag : BitVec 12) : Token := { fmt := 0x14, valid := 3, lr := true, lanes := x.setWidth 512, tag := tag }
def topk3 : Slot :=
  let x := withIn (slotFrame 4 1 1 1 3 [2]) [scored 0x3F333333 2]
  { x with op := { x.op with rows := [{ tok := scored 0x3F666666 1 }, { tok := scored 0x3F333333 3 }]
                             last := #v[some (0x3F333333, 3), none, none, none] } }
theorem test_topk_example :
    then_ (exec (.topkFire 0 0) (onSlot topk3)) (fun t =>
      (((t.tileAt 0).fab.slot 0).op.rows.map fun q => (laneOf q.tok.lanes 0, q.tok.tag)) ==
        [(0x3F666666, 1), (0x3F333333, 2)]) = true := by decide
/-- The block record of R251. -/
theorem test_block_record :
    packBlock (0x3F800000 * 2 ^ 32 + 0x3F800000 * 2 ^ 64 + 0x3F800012 * 2 ^ 96 + 0x40000000 * 2 ^ 160) =
      (false, [0x9C, 0x0C, 0, 0, 0, 0, 0x80, 0x3F, 0, 0x12, 0, 0, 0, 0x40]) := by decide
/-- Three ranks that cancel: 2^24, 1.0 and -2^24 give 1.0 exactly (R88). -/
theorem test_exact_sum : (collResult 0 .fp32 true 32 0 [0x4B800000, 0x3F800000, 0xCB800000]).1 = 0x3F800000 := by decide

/-- R280: a write to the MSI-X table that clears the mask of a pending vector sends it and clears its bit. -/
theorem test_unmask_sends_pending :
    let t := Config.ioBase + 0xE000
    let s := (State.reset.wr (t + 12) 4 1).msix 0 0
    (s.sent, (s.homeWrite 32 (t + 12) 4 0 (fullMask 4)).sent, (s.homeWrite 32 (t + 12) 4 0 (fullMask 4)).rd (t + 0x1000) 1) =
      ([], [.msix 0 0], 0) := by decide

/-! ### What the loader, the filters, the exact sums and the sampling decide -/

/-- The image of these frames for 2 by 1 tiles, with its CRC, its TAGS field and another width. -/
def imgOf (w tags : Nat) (fs : List (BitVec 256)) : BitVec 256 :=
  BitVec.ofNat 256 (0xFFFF * 2 ^ 240 + 2 ^ 232 + w * 2 ^ 224 + 2 ^ 216 + tags * 2 ^ 184 +
    (crc32c (fs.flatMap fun f => (List.range 32).map fun i => f.extractLsb' (8 * i) 8)).toNat * 2 ^ 136)
def frameAt (col cls ix rest : Nat) : BitVec 256 := BitVec.ofNat 256 (col * 2 ^ 250 + cls * 2 ^ 242 + ix * 2 ^ 240 + rest)
/-- A wrong CRC; a wrong width; a frame past the last column and one given twice; one that is not valid; tags that are
short; an image that is taken. -/
theorem test_witness_LoaderDecides :
    crc32c [] = 0 ∧ loaderCheck 2 1 0 (imgOf 2 0 [] + BitVec.ofNat 256 (2 ^ 136)) [] = some (2, 0) ∧
    fld (imgOf 3 0 []) 224 8 = 3 ∧ loaderCheck 2 1 0 (imgOf 3 0 []) [] = some (3, 0) ∧
    loaderCheck 2 1 0 (imgOf 2 0 [frameAt 2 3 0 0]) [frameAt 2 3 0 0] = some (4, 1) ∧
    loaderCheck 2 1 0 (imgOf 2 0 [frameAt 1 3 0 0, frameAt 1 3 0 0]) [frameAt 1 3 0 0, frameAt 1 3 0 0] = some (4, 2) ∧
    loaderCheck 2 1 0 (imgOf 2 0 [frameAt 1 0 0 1]) [frameAt 1 0 0 1] = some (5, 1) ∧
    loaderCheck 2 1 0 (imgOf 2 1 []) [] = some (8, 0) ∧ loaderCheck 2 1 1 (imgOf 2 1 []) [] = none := by decide

/-- CVT of FP32 to BF16, and of CB4, which no conversion takes; CMPCT of a row of two tokens; a 15th and a 16th token of TRN16. -/
theorem test_witness_FiltersDecide :
    let e (op arg : Nat) : BitVec 12 := BitVec.ofNat 12 (256 * op + arg)
    let cb : Token := { fpTok with fmt := Fmt.cb4.tag }
    let one : Token := { fpTok with valid := 1, lr := false }
    ((e 1 (8 * Fmt.bf16.tag.toNat)).extractLsb' 8 4).toNat = 1 ∧ fpTok.kind = .data ∧
    Fmt.ofTag (BitVec.ofNat 5 (((e 1 (8 * Fmt.bf16.tag.toNat)).extractLsb' 0 8).toNat / 8)) = some .bf16 ∧
    errWith (filterAll (e 1 (8 * Fmt.bf16.tag.toNat)) [] [cb]) (· == 9) = true ∧
    okWith (filterAll (e 0 0) [] [cb]) (· == ([cb], [])) = true ∧
    ((e 2 0).extractLsb' 8 4).toNat = 2 ∧ one.lr = false ∧ one.kind = .data ∧ fpTok.lr = true ∧
    okWith (filterAll (e 2 0) [] [one, fpTok]) (fun r => r.1.length == 2 && r.1.map Token.lr == [false, true]) = true ∧
    errWith (filterAll (e 3 0) [one] [{ kind := .bubble }]) (· == 10) = true ∧ (List.replicate 14 one).length < 15 ∧
    errWith (filterAll (e 3 0) (List.replicate 14 one) [fpTok]) (· == 10) = true ∧ errWith (filterAll (e 3 0) [one] [cb]) (· == 10) = true ∧
    okWith (filterAll (e 3 0) [] (List.replicate 15 one ++ [fpTok])) (fun r => r.1.length == 16) = true ∧
    ((e 4 15).extractLsb' 0 8).toNat % 16 = 15 := by decide
theorem test_witness_FiltersDecide_zeros :
    zeroFor Fmt.fp32.tag 0x80000000 ∧ ¬zeroFor Fmt.fp32.tag 1 ∧ ¬zeroFor Fmt.e8m0.tag 0 ∧ zeroFor 0 0 :=
  ⟨by simp [zeroFor, Fmt.ofTag, Fmt.tag]; decide, by simp [zeroFor, Fmt.ofTag, Fmt.tag]; decide, fun h => h, rfl⟩

/-- An exact REDUCE before and after its exponents, with a sum of 1 and code 255; a SELECT that samples. -/
def exactSlot (ex : Option Token) (e : List Token) : Slot :=
  { slotOf (slotFrame 9 9 1 0 0 [2 ^ 10 + 2 ^ 11 + 2 ^ 12 + 1]) with
    ins := #v[[{ fpTok with lanes := 0x3F800000, valid := 1 }], [], [], e], op := { exps := ex } }
def expTok (n : Nat) : Token := { fmt := Fmt.e8m0.tag, valid := 0xFFFF, lanes := BitVec.ofNat 512 n, lr := true }
theorem test_witness_ExactSumsAndSamples :
    (let x := exactSlot none [expTok 127]
     MayFire (onSlot x) 0 0 0 9 x ∧ (x.reg 0).getLsbD 10 = true ∧ x.op.exps = none ∧ x.inQ 3 = expTok 127 :: [] ∧
     x.inputs.filter (· < 3) = [0]) ∧
    (let x := exactSlot (some (expTok 127)) []
     MayFire (onSlot x) 0 0 0 9 x ∧ slotOut x.frame 0 = true ∧ x.op.exps = some (expTok 127) ∧ pf x 0 12 9 = 2 ^ 0 ∧
     (laneOf (expTok 127).lanes 0).toNat % 256 = 127 ∧ (x.reg 0).getLsbD 11 = true ∧ x.op.count < 32 ∧
     Fmt.ofTag (BitVec.ofNat 5 (pf x 0 0 5)) = some .fp32 ∧ countsAs .fp32 0 0 0 0 ∧
     (laneOf (expTok 255).lanes 0).toNat % 256 = 255) ∧
    (let h : Token := { fpTok with lanes := 0x3F800000, valid := 3 }
     let x := withIn (slotFrame 11 1 1 0 7 [3, 0x3F800000, 0x3F800000, 0, 0, 0, 0]) [h]
     MayFire (onSlot x) 0 0 0 11 x ∧ slotOut x.frame 0 = true ∧ Fmt.ofTag (BitVec.ofNat 5 (pf x 0 1 5)) = some .fp32 ∧
     (x.reg 0).getLsbD 0 = true ∧ x.inQ 0 = h :: [] ∧ isOn h 0 = true ∧ (Fmt.fp32.value (el h .fp32 0)).isNaN = false ∧
     (Fmt.fp32.value (el h .fp32 0)).lt (Fmt.fp32.value (el h .fp32 1)) = false ∧
     (Fmt.fp32.value (el h .fp32 0)).isInf = false ∧ (Fmt.fp32.value 0x7F800000).isInf = true ∧
     (match fp32 (x.reg 2) with
      | .fin _ m q => decide ((fraction m q).1 = (fraction m q).2)
      | _ => false) = true) := by
  refine ⟨⟨may_fire _ _ (by decide) (by decide) (by decide) (by decide), by decide, rfl, by decide, by decide⟩,
    ⟨may_fire _ _ (by decide) (by decide) (by decide) (by decide), by decide, rfl, by decide, by decide, by decide, by decide,
      by decide, ?_, by decide⟩,
    may_fire _ _ (by decide) (by decide) (by decide) (by decide), by decide, by decide, by decide, by decide, by decide, by decide,
    by decide, by decide, by decide, by decide⟩
  exact ⟨false, 0, _, 0, rfl, ⟨.inl rfl, .inl (by decide)⟩, rfl⟩

/-! ### Clauses that meet a special state -/

/-- The ring token at node 0, with work left and with four accesses done; an SC access at the first stack. -/
theorem test_witness_NodePerformsAccess_sc :
    let x : Access := { aStore with st := .arrived, pa := 0, ord := .sc }
    let s : State := withAccs [x]
    (homeOf x.pa).ring.isSome = true ∧
    (∀ n, (homeOf x.pa).ring = some n → HasToken { s with ringAt := n } [] x ∧ ¬HasToken { s with ringAt := n, ringDone := 4 } [] x) := by
  refine ⟨by decide, fun n h => ⟨⟨h, Nat.succ_pos 3, fun b h => by cases h⟩, fun k => absurd k.2.1 (Nat.lt_irrefl 4)⟩⟩

/-- A REP whose guard is 0 before an ADD.W that a repetition may run. -/
theorem test_witness_RepRepeatsItsTarget_guard :
    let w : Word := 0x0005187000200000
    let s : State := dev.setCore { dev.core with icache := [(0x7FFFFF000108, true, w)] }
    Runs .all true ⟨0, false⟩ s ∧ s.guard ⟨0, true⟩ = false ∧ s.core.repAt = none ∧ s.core.rpPend = false ∧
    (match s.target with
      | .word y _ => y == w
      | _ => false) = true ∧
    (∀ j, j ≤ 1 → (match decode (repWord w ⟨1, 0, 0, 0⟩ j) with
      | .ok x => (repBody x).isSome
      | .error _ => false) = true) :=
  ⟨⟨by decide, by decide, by decide⟩, by decide, rfl, rfl, by decide, by decide⟩

/-- A store of the task to the page of a walk, whose page is the VD's; and none. -/
theorem test_witness_DeviceWalksAndLimits_store :
    let s : State := { mapped dev with accs := [{ aStore with pa := 0x100, va := 0x100 }] }
    okWith (s.walk2 0 true .write 0x100) (fun r => s.physCheck r.1.vd r.1.kind.toNat r.1.win (r.1.pa 0x100) .write r.1.ord.toNat == none &&
      s.accs.any fun a => decide (a.party = .task s.cur ∧ a.vd = r.1.vd ∧ r.1.vpage ≤ a.va.toNat ∧ a.va.toNat < r.1.vpage + r.1.size ∧
        r.1.pa a.va = a.pa)) = true ∧
    (mapped dev).accs = [] ∧ aStore.kind = .store ∧
    (({ mapped dev with vds := (mapped dev).vds.set 0 { (mapped dev).vd 0 with hbm := [] } } : State).physCheck 0 0 0 0x100 .write 0).isSome =
      true := by decide

/-- A BUBBLE at a BOUND that a write waits for; a SCORE whose due write makes it segmented. -/
theorem test_witness_RankedOperatorsFire_due :
    (let x : Slot := { boundSlot with ins := #v[[aBubble], [], [], []], due := [(0, 0x40000000)] }
     OnSlot (onSlot x) 0 0 0 3 x ∧ x.par = [] ∧ x.op.toks = [] ∧ x.inQ 0 = aBubble :: [] ∧ aBubble.ls = false ∧
     ({ aBubble with ls := true } : Token).ls = true) ∧
    (let v : BitVec 32 := 16 * 2 ^ 19 + 2 * 2 ^ 16 + 1
     let x : Slot := { withIn (slotFrame 2 1 1 0 1 [16 * 2 ^ 19 + 1]) [fpTok] with due := [(0, v)] }
     OnSlot (onSlot x) 0 0 0 2 x ∧ x.par = [] ∧ x.due = [(0, v)] ∧ x.op.seg = false ∧ x.op.inRow = false ∧ setOk x 0 v ∧
     v.extractLsb' 16 2 = 2 ∧ x.inQ 0 = fpTok :: []) := by
  refine ⟨⟨⟨rfl, ⟨by decide, rfl, by decide⟩, by decide⟩, rfl, rfl, by decide, rfl, rfl⟩,
    ⟨rfl, ⟨by decide, rfl, by decide⟩, by decide⟩, rfl, rfl, rfl, rfl, by unfold setOk; decide, by decide, by decide⟩

/-- The reply of a unit's store that ends two rows. -/
theorem test_witness_MemoryUnitsAccessAndComplete_reply :
    let z : Access := { aStore with st := .performed, party := .unit 0 1, region := some 0 }
    let y : MemUnit := { muOfFrame (muFrame 3 1 0) [] [] with busy := [([(z.id, 0)], addrTok 0x200, 0, [fpTok, { fpTok with tag := 1 }])] }
    let s : State := { devFab { mus := #v[{}, y, {}, {}] } with accs := [z] }
    Among s [] z [] ∧ s.firing 0 = some 0 ∧ s.region 0 = some aRegion ∧ (s.tileAt 0).fab.mu 1 = y ∧ y.on = true ∧ y.stopped = false ∧
    y.busy = ([(z.id, 0)], addrTok 0x200, 0, [fpTok, { fpTok with tag := 1 }]) :: [] :=
  ⟨⟨rfl, by simp⟩, by decide, by decide, rfl, rfl, rfl, rfl⟩

/-- A read of the host that waits for a posted write, one whose only access has been performed, one with another out. -/
theorem test_witness_HostReadsAndAtomicsComplete_asked :
    let q : InRead := { id := 8, fn := 1, size := 8, op := none, after := [7], parts := [(0x100, 0, 8, 0)] }
    let p : Posted := { id := 7, fn := 1, relaxed := false, parts := [], sent := true, out := [1] }
    let a : Access := { aStore with party := .inbound 1, st := .performed }
    let b : Access := { aLoad with party := .inbound 1, st := .performed }
    let h : State := { devHost with posted := [p] }
    (∀ z ∈ h.asked, z.id < h.nextId) ∧ h.postedOf 1 ≠ [] ∧ devHost.postedOf 1 = [] ∧
    (let s : State := { withAccs [a] with asked := [q], posted := [p] }
     Among s [] a [] ∧ s.asked = [q] ∧ s.posted = [p] ∧ p.sent = true ∧ p.fn = 1 ∧ p.out = [a.id] ∧ q.after = [p.id] ∧ q.sent = false ∧
     q.out = [] ∧ q.parts = [(0x100, 0, 8, 0)]) ∧
    (let s : State := { withAccs [b] with asked := [{ q with sent := true, out := [(2, 0)] }] }
     Among s [] b [] ∧ s.posted = [] ∧ ({ q with sent := true, out := [(2, 0)] } : InRead).out = (b.id, 0) :: [] ∧
     ∀ o ∈ [((3 : Nat), (8 : Nat))], o.1 ≠ b.id) :=
  ⟨(fun _ h => by cases h), by decide, rfl, ⟨⟨rfl, by simp⟩, rfl, rfl, rfl, rfl, rfl, rfl, rfl, rfl, rfl⟩, ⟨rfl, by simp⟩, rfl, rfl, by decide⟩

/-- A lead that exits while a fault of its region waits; a saved parent with room in its header, and with none. -/
theorem test_witness_MillinerWritesRcbAndNotify_held :
    (let x : Region := { aRegion with fault := some ⟨0x0B, 0, 0, 0⟩ }
     let s := devReg x devEx
     s.region 0 = some x ∧ x.fault ≠ none ∧ x.place.isSome = true ∧ (s.tileAt x.crown).core.status = .exiting 5) ∧
    (let y (n : Nat) : Region := { aRegion with st := .preempted, place := none, hat := some (0, 1183744), notifies := List.replicate n ⟨0, 0⟩ }
     let x : Region := { aRegion with parent := some (1, 1) }
     let s (n : Nat) : State := { dev with
       regions := [x, y n], vds := dev.vds.setIfInBounds 0 { st := .running, gen := 1, hatbox := 0x100000, hslots := 2 } }
     (s 128).region 0 = some x ∧ x.parent = some (1, 1) ∧ (s 127).region 1 = some (y 127) ∧ (y 127).st = .preempted ∧
     (y 127).notifies.length < 128 ∧ 128 ≤ (y 128).notifies.length ∧ (s 128).bad = [] ∧
     (s 128).rd (0x100000 + bits ((s 128).vd 0).hslots 0 16 * 1183744) 8 = 0) := by
  refine ⟨⟨rfl, by decide, by decide, by decide⟩, rfl, rfl, rfl, rfl, by decide, by decide, rfl, by decide⟩

/-- A chain that meets a granule which is being re-encrypted, and one that does not. -/
theorem test_witness_SpawnWritesItsStatus_waits :
    let s := devT 2 0 0x101
    let w : State := { s with recrypt := [((blockOf 0x11000).1, (blockOf 0x11000).2 / 64)] }
    (w.chain 0 .u 3 [1, 3] 0x11000).wait = true ∧ (w.chain 0 .u 3 [1, 3] 0x11000).integrity = false ∧
    (s.chain 0 .u 3 [1, 3] 0x11000).wait = false := by decide

/-- A sparse descriptor in the g slots of the own core, which may be read. -/
theorem test_witness_SparseRecordsAreWrittenAndRead_own :
    let s := devG (inTile 0x400040) 0 0 0
    let d := s.g 1
    okWith (s.checkParts .read 8 false [(d, 8, 0), (d + 8, 8, 8), (d + 16, 8, 16)])
      (fun r => r.1.all fun q => ownSlots r.2.cur q.1.pa) = true ∧
    okWith (s.checkParts .read 8 false [(d, 8, 0), (d + 8, 8, 8), (d + 16, 8, 16)])
      (fun r => r.1.all fun q => r.2.ownSlotReady (r.2.taskAccess .load q.2.1 q.1 q.2.2.1 .plain .tile)) = true ∧
    s.core.inflight = [] ∧ s.core.stepAt = none ∧ 0x400048 < 0x408000 := by decide

/-- The first bytes of a word of the destination, with the rest to come and with the rest there. -/
theorem test_witness_EngineBytesArrive_parts :
    let o : PartOut := ⟨0, 4, 0x800000000400, 0, 0, 8, 1, 0, false⟩
    let rest (i : Nat) : Nat × Byte := (4 + i, 1)
    let buf (b : List (Nat × Byte)) : List (Nat × Byte) := b ++ (List.range 4).map fun i => (i, 0)
    o.n < o.len ∧ o.len ≤ 8 ∧ (∃ i < o.len, ((buf []).find? fun b => b.1 == o.first + i).map Prod.snd = none) ∧
    (∀ i < o.len, ((buf ((List.range 4).map rest)).find? fun b => b.1 == o.first + i).map Prod.snd ≠ none) := by decide

/-- Frames of a payload of 9,217 bytes: two of them, the first due alone. -/
theorem test_witness_EngineThreadsComplete_frames :
    let cut (n : Nat) : Nat := max 1 ((n + 9215) / 9216)
    cut 0 = 1 ∧ cut 9216 = 1 ∧ cut 9217 = 2 ∧ 1 < ([1, 2].drop 0).length ∧ ([1, 2].drop 1).length = 1 ∧
    coll2.frames = 0 ∧ (0, 1) ≠ ((2, 0) : Nat × Nat) := by decide

/-- Two regions of a gang that are placed, 16 ACLK apart, and a place whose RCB is being re-encrypted. -/
theorem test_witness_RegionsArePlacedAndRestored_gang :
    let x (rcb : Word) : Region := { queued .queued with gang := some 0x1200, gangSize := 2, rcb := rcb, w := 1 }
    let s : State := { mapped { dev with regions := [x 0x1000, x 0x1100], queue := [0, 1], cycle := 100 } with
      tile := { core := { aCore with task := none, owner := none, status := .idle } } }
    let ps : List Place := [⟨0, 1, 0⟩, ⟨1, 2, 0⟩]
    s.placesUnit ps = true ∧ s.placesFree [] [] ps = true ∧ s.allSaved ps = false ∧ (∀ p ∈ ps, s.placeWaits p = false) ∧
    ({ s with recrypt := [((blockOf 0x1000).1, (blockOf 0x1000).2 / 64)] } : State).placeWaits ⟨0, 1, 0⟩ = true ∧
    (s.placeAt ⟨0, 1, 0⟩).isSome = true := by decide

end Sys2Proof.Tests
end

section
/-!
SUPPORT. Facts about shared operations that the statements about accesses, threads and windows use: the one member of a list
with its number, bytes as numbers, what a write at its home leaves as it is, and the queues of accesses.
-/
namespace Sys2Proof.Machine

/-! ### The one member of a list with its number -/

section
variable {α : Type} (key : α → Nat) {l r : List α} {x : α} (sole : ∀ y ∈ l ++ r, key y ≠ key x)
include sole

theorem find?_sole : (l ++ x :: r).find? (fun y => key y == key x) = some x := by
  have none_before : l.find? (fun y => key y == key x) = none := by
    rw [List.find?_eq_none]
    intro y hy
    simpa using sole y (List.mem_append_left r hy)
  simp [List.find?_append, none_before]

theorem map_sole (f : α → α) : (l ++ x :: r).map (fun y => if key y = key x then f y else y) = l ++ f x :: r := by
  have keep : ∀ m : List α, (∀ y ∈ m, key y ≠ key x) → m.map (fun y => if key y = key x then f y else y) = m := by
    intro m hm
    exact (List.map_congr_left fun y hy => if_neg (hm y hy)).trans (List.map_id m)
  rw [List.map_append, List.map_cons, if_pos rfl, keep l fun y hy => sole y (List.mem_append_left r hy),
    keep r fun y hy => sole y (List.mem_append_right l hy)]

theorem filter_sole : (l ++ x :: r).filter (fun y => key y != key x) = l ++ r := by
  have keep : ∀ m : List α, (∀ y ∈ m, key y ≠ key x) → m.filter (fun y => key y != key x) = m := by
    intro m hm
    exact List.filter_eq_self.mpr fun y hy => by simpa using hm y hy
  simp [keep l fun y hy => sole y (List.mem_append_left r hy), keep r fun y hy => sole y (List.mem_append_right l hy)]

end

/-- What each step of a fold leaves as it is, the fold leaves as it is. -/
theorem foldl_keeps {α β γ : Type} (p : β → γ) (f : β → α → β) (h : ∀ s a, p (f s a) = p s) (l : List α) (s : β) :
    p (l.foldl f s) = p s := by
  induction l generalizing s with
  | nil => rfl
  | cons a l ih => rw [List.foldl_cons, ih, h]

/-! ### Bytes as numbers -/

/-- Byte i of the mask of n whole bytes. -/
theorem fullMask_byte {n i : Nat} (h : i < n) : fullMask n / 256 ^ i % 256 = 255 := by
  have split : 256 ^ n = 256 ^ i * (256 ^ (n - i - 1) * 256) := by
    rw [← Nat.pow_succ, ← Nat.pow_add]; congr 1; omega
  have pos : 0 < 256 ^ (n - i - 1) := Nat.pow_pos (by omega)
  have div : fullMask n / 256 ^ i = 256 ^ (n - i - 1) * 256 - 1 := by
    rw [fullMask, split, Nat.mul_sub_div 0 (256 ^ i) _ (Nat.mul_pos (Nat.pow_pos (by decide)) (Nat.mul_pos pos (by decide))), Nat.zero_div]
  omega

/-- A byte under a whole write is that of the number written. -/
theorem Memory.get_write_full (m : List Host.Cell) (a n x i : Nat) (wf : Memory.wf m = true) (h : i < n) :
    Memory.get (Memory.write m a n x (fullMask n)) (a + i) = BitVec.ofNat 8 (x / 256 ^ i) := by
  have low : x / 256 ^ i % 256 &&& 255 = x / 256 ^ i % 256 := by
    rw [show (255 : Nat) = 2 ^ 8 - 1 from rfl, Nat.and_two_pow_sub_one_eq_mod, Nat.mod_mod]
  rw [Memory.get_write_same m a n x _ i wf h, fullMask_byte h, low, Nat.sub_self, Nat.and_zero, Nat.zero_or]
  exact BitVec.eq_of_toNat_eq (by simp)

theorem ofBytes_lt (xs : List Byte) : ofBytes xs < 256 ^ xs.length := by
  induction xs with
  | nil => simp [ofBytes]
  | cons b r ih =>
    have := b.isLt
    rw [ofBytes, List.length_cons, Nat.pow_succ]
    omega

/-- Byte i of a number made of bytes. -/
theorem byte_ofBytes (xs : List Byte) (i : Nat) : BitVec.ofNat 8 (ofBytes xs / 256 ^ i) = xs.getD i 0 := by
  induction xs generalizing i with
  | nil => simp [ofBytes]
  | cons b r ih =>
    have hb := b.isLt
    cases i with
    | zero =>
      apply BitVec.eq_of_toNat_eq
      rw [BitVec.toNat_ofNat, ofBytes, Nat.pow_zero, Nat.div_one, List.getD_cons_zero]
      omega
    | succ i =>
      rw [Nat.pow_succ', ← Nat.div_div_eq_div_mul, ofBytes, Nat.add_mul_div_left _ _ (by omega), Nat.div_eq_of_lt hb,
        Nat.zero_add, ih i, List.getD_cons_succ]

theorem sum_map_mul {α : Type} (c : Nat) (f : α → Nat) (l : List α) : (l.map fun i => c * f i).sum = c * (l.map f).sum := by
  induction l with
  | nil => rfl
  | cons a l ih => rw [List.map_cons, List.sum_cons, ih, List.map_cons, List.sum_cons, Nat.mul_add]

/-- Reading is the sum of the bytes by their places. -/
theorem Memory.read_eq_valueAt (m : List Host.Cell) (a n : Nat) : Memory.read m a n = Claims.valueAt m a n := by
  induction n generalizing a with
  | zero => rfl
  | succ n ih =>
    have shift : ((fun i => (Memory.get m (a + i)).toNat * 256 ^ i) ∘ Nat.succ) =
        fun i => 256 * ((Memory.get m (a + 1 + i)).toNat * 256 ^ i) := by
      funext i
      simp only [Function.comp, Nat.succ_eq_add_one, Nat.pow_succ', show a + (i + 1) = a + 1 + i by omega]
      exact Nat.mul_left_comm _ _ _
    rw [Memory.read, ih, Claims.valueAt, Claims.valueAt, List.range_succ_eq_map, List.map_cons, List.map_map, List.sum_cons,
      shift, sum_map_mul]
    simp only [Nat.add_zero, Nat.pow_zero, Nat.mul_one]

/-! ### Writes at their homes -/

/-- A change to every core reaches the core of any tile; an unlisted core must be one that it leaves alone. -/
theorem State.mapCores_tileAt (s : State) (f : Nat → Core → Core) (t : Nat) (idle : f t {} = {}) :
    ((s.mapCores f).tileAt t).core = f t (s.tileAt t).core := by
  have parked : ∀ l : List (Nat × Tile), (lookupTile (l.map fun x => (x.1, { x.2 with core := f x.1 x.2.core })) t).core =
      f t (lookupTile l t).core := by
    intro l
    induction l with
    | nil => exact idle.symm
    | cons p l ih =>
      by_cases h : p.1 = t
      · simp [lookupTile, h]
      · simpa [lookupTile, h] using ih
  by_cases h : t = s.cur
  · simp [State.tileAt, State.mapCores, h]
  · simpa [State.tileAt, State.mapCores, h] using parked s.parked

/-- A write wakes sleepers: of a core it may change the status only. -/
theorem State.wake_core (s : State) (pa n t : Nat) :
    ∃ st, ((s.wake pa n).tileAt t).core = { (s.tileAt t).core with status := st } := by
  unfold State.wake
  rw [State.mapCores_tileAt _ _ _ rfl]
  split
  · split
    · exact ⟨_, rfl⟩
    · exact ⟨_, rfl⟩
  · exact ⟨_, rfl⟩

/-- The counting of a write changes counters and re-encryptions only. -/
theorem State.seal_eq (s : State) (pa : Nat) :
    s.seal pa = { s with counters := (s.seal pa).counters, recrypt := (s.seal pa).recrypt } := by
  unfold State.seal
  split <;> rfl

/-- A write at its home changes memory, the blocks that fail, counters, re-encryptions, and the status of cores. -/
theorem State.commit_eq (s : State) (pa n x mask : Nat) : s.commit pa n x mask = { s with
    mem := Memory.write s.mem pa n x mask
    bad := if n = 64 && mask == fullMask 64 then s.bad.filter fun b => b != pa / 64 else s.bad
    tile := (s.commit pa n x mask).tile, parked := (s.commit pa n x mask).parked
    counters := (s.commit pa n x mask).counters, recrypt := (s.commit pa n x mask).recrypt } := by
  unfold State.commit
  simp only
  rw [State.seal_eq]
  rfl

section
variable (s : State) (pa n x mask : Nat)

@[simp] theorem State.commit_accs : (s.commit pa n x mask).accs = s.accs := by
  rw [State.commit_eq]
@[simp] theorem State.commit_threads : (s.commit pa n x mask).threads = s.threads := by
  rw [State.commit_eq]
@[simp] theorem State.commit_regions : (s.commit pa n x mask).regions = s.regions := by
  rw [State.commit_eq]
@[simp] theorem State.commit_vds : (s.commit pa n x mask).vds = s.vds := by
  rw [State.commit_eq]
@[simp] theorem State.commit_sent : (s.commit pa n x mask).sent = s.sent := by
  rw [State.commit_eq]
@[simp] theorem State.commit_badCtr : (s.commit pa n x mask).badCtr = s.badCtr := by
  rw [State.commit_eq]
theorem State.commit_bad : (s.commit pa n x mask).bad =
    if n = 64 && mask == fullMask 64 then s.bad.filter fun b => b != pa / 64 else s.bad := by
  rw [State.commit_eq]

/-- Of a core a write at its home may change the status only. -/
theorem State.commit_core (t : Nat) :
    ∃ st, ((s.commit pa n x mask).tileAt t).core = { (s.tileAt t).core with status := st } := by
  obtain ⟨st, h⟩ := State.wake_core (State.seal { s with
    mem := Memory.write s.mem pa n x mask
    bad := if n = 64 && mask == fullMask 64 then s.bad.filter fun b => b != pa / 64 else s.bad } pa) pa n t
  refine ⟨st, h.trans ?_⟩
  rw [State.seal_eq]
  rfl

end

/-! ### Queues and resources (R204, R207, R241) -/

theorem Access.sameQueue_iff (a b : Access) : a.sameQueue b = true ↔ Claims.OneQueue a b := by
  simp [Access.sameQueue, Claims.OneQueue, and_assoc]

theorem State.atWheel_iff (s : State) (k : Nat × Nat) (b : Access) : s.atWheel k b = true ↔ Claims.AtResource s k b := by
  simp [State.atWheel, Claims.AtResource, Access.sameQueue_iff, and_assoc]

/-- No waiting request goes before one of a VD, a region and a group (R241). -/
theorem State.firstAt_iff (s : State) (k : Nat × Nat) (vd : Nat) (region : Option Nat) (g : Nat) :
    s.firstAt k vd region g = true ↔ ∀ b ∈ s.accs, Claims.AtResource s k b → ∀ h, s.groupNow k b = some h →
      g < h ∨ (g = h ∧ (g = 3 → s.turnOf k vd ≤ s.turnOf k b.vd) ∧ (vd = b.vd → s.sharesOk k region b.region = true)) := by
  unfold State.firstAt
  rw [List.all_eq_true]
  refine forall_congr' fun b => forall_congr' fun _ => ?_
  rw [← State.atWheel_iff]
  cases s.atWheel k b with
  | false => exact ⟨fun _ waits => absurd waits Bool.false_ne_true, fun _ => rfl⟩
  | true =>
    cases s.groupNow k b with
    | none => exact ⟨fun _ _ _ is => (Option.some_ne_none _ is.symm).elim, fun _ => rfl⟩
    | some m =>
      simp only [Bool.not_true, Bool.false_or, Option.some.injEq, forall_eq', forall_const]
      simp only [Bool.or_eq_true, Bool.and_eq_true, decide_eq_true_eq, beq_iff_eq, bne_iff_ne, Decidable.imp_iff_not_or, ne_eq,
        and_assoc]

/-- A reply is the next of its queue (R204, R207). -/
theorem State.mayReply_iff (s : State) (a : Access) : s.mayReply a = true ↔
    a.st = .performed ∧ ∀ b ∈ s.accs, b.st = .performed → Claims.OneQueue b a → a.seq ≤ b.seq := by
  simp [State.mayReply, Access.isPerformed, Access.sameQueue_iff]

end Sys2Proof.Machine
end

section
/-!
SUPPORT. Engine threads (R225, R226, R285, R360 to R362, R442): the stores that leave a thread, its completion write, and the
frames that it sends.
-/
namespace Sys2Proof.Machine
open Sys2Proof.Claims

/-! ### The thread of a number -/

section
variable {s : State} {l r : List Thread} {x : Thread} (place : s.threads = l ++ x :: r) (sole : ∀ y ∈ l ++ r, y.id ≠ x.id)
include place sole

theorem State.thread_sole : s.thread x.id = some x := by
  unfold State.thread
  rw [place]
  exact find?_sole Thread.id sole

theorem State.updThread_sole (f : Thread → Thread) :
    s.updThread x.id f = { s with threads := l ++ f x :: r } := by
  unfold State.updThread
  rw [place, map_sole Thread.id sole f]

end

/-! ### Stores of a thread -/

/-- The store of a part that a thread has read: its bytes of the string v, at its place (R226, R361). -/
def StoresPart (x : Thread) (v : Nat) (o : PartOut) (y : Access) : Prop :=
  y.kind = .store ∧ y.party = .thread x.id ∧ y.pa = o.dst ∧ y.size = o.n ∧
    y.data = BitVec.ofNat 512 (v / 2 ^ (8 * o.off) % 2 ^ (8 * o.n)) ∧
    y.mask = if o.ignored then 0 else BitVec.ofNat 512 (256 ^ o.n - 1)

/-- The access by which a thread stores a part. -/
def Thread.partStore (x : Thread) (o : PartOut) (data : Nat) : Access :=
  { x.access .store 0 o.dst o.n o.ord o.win with
    data := BitVec.ofNat 512 (data % 2 ^ (8 * o.n)), mask := if o.ignored then 0 else BitVec.ofNat 512 (fullMask o.n) }

theorem State.threadStore_eq (s : State) (x : Thread) (o : PartOut) (data : Nat) :
    s.threadStore x o data = s.enterAccess (x.partStore o data) := rfl

/-- One store after the other: they enter the order buffer, and nothing else changes. -/
theorem State.foldl_threadStore (x : Thread) (v : Nat) (outs : List PartOut) (s : State) :
    ∃ l n, outs.foldl (fun s o => s.threadStore x o (v / 2 ^ (8 * o.off))) s = { s with accs := s.accs ++ l, nextId := n } ∧
      l.length = outs.length ∧ ∀ (j : Nat) (o : PartOut), outs[j]? = some o → ∃ y, l[j]? = some y ∧ StoresPart x v o y := by
  induction outs generalizing s with
  | nil => exact ⟨[], s.nextId, by simp, rfl, by simp⟩
  | cons o outs ih =>
    obtain ⟨l, n, fold, len, stores⟩ := ih (s.threadStore x o (v / 2 ^ (8 * o.off)))
    refine ⟨{ x.partStore o (v / 2 ^ (8 * o.off)) with id := s.nextId } :: l, n, fold.trans ?_, by simp [len], ?_⟩
    · rw [State.threadStore_eq, State.enterAccess, List.append_assoc]
      rfl
    rintro (_ | j) q hq
    · cases hq
      exact ⟨_, rfl, rfl, rfl, rfl, rfl, rfl, rfl⟩
    · exact stores j q hq

/-- Bytes that are whole words of the destination go out at once. -/
theorem State.threadOuts_whole (x : Thread) (v : Nat) (outs : List PartOut) (s : State) (whole : ∀ o ∈ outs, o.n = o.len) :
    s.threadOuts x v outs = outs.foldl (fun s o => s.threadStore x o (v / 2 ^ (8 * o.off))) s := by
  induction outs generalizing s with
  | nil => rfl
  | cons o outs ih =>
    rw [State.threadOuts, if_pos (whole o (by simp)), ih _ fun q hq => whole q (List.mem_cons_of_mem o hq), List.foldl_cons]

/-! ### The completion write (R20, R362) -/

/-- One pending bit that a thread set clears where no thread holds it (R362). -/
def State.unpend (s : State) (q : Nat × Nat) : State :=
  if s.threads.any fun t => t.tbs.contains q then s
  else s.updCore q.1 fun c => { c with tbPend := c.tbPend &&& ~~~((1 : BitVec 2) <<< q.2) }

theorem State.complete_eq (s : State) (x : Thread) (v : BitVec 32) : s.complete x v = x.tbs.foldl State.unpend
    (({ s with threads := s.threads.filter fun t => t.id != x.id } : State).commit (localPa x.tile x.comp) 4 v.toNat (fullMask 4)) :=
  rfl

/-- Clearing pending bits changes records of cores only. -/
theorem State.unpend_eq (s : State) (q : Nat × Nat) :
    s.unpend q = { s with tile := (s.unpend q).tile, parked := (s.unpend q).parked } := by
  unfold State.unpend
  split
  · rfl
  · simp only [State.updCore_eq, State.setTile]
    split <;> rfl

theorem clear_bit (b : BitVec 2) (j k : Nat) (hj : j < 2) (hk : k < 2) :
    (b &&& ~~~((1 : BitVec 2) <<< j)).getLsbD k = (b.getLsbD k && !decide (j = k)) := by
  have two : ∀ n, n < 2 → n = 0 ∨ n = 1 := by omega
  rcases two j hj with rfl | rfl <;> rcases two k hk with rfl | rfl <;> simp

theorem State.unpend_tbPend (s : State) (p : Nat × Nat) (q k : Nat) (hp : p.2 < 2) (hk : k < 2) :
    ((s.unpend p).tileAt q).core.tbPend.getLsbD k =
      ((s.tileAt q).core.tbPend.getLsbD k && !(p == (q, k) && !s.threads.any fun t => t.tbs.contains (q, k))) := by
  obtain ⟨t, j⟩ := p
  unfold State.unpend
  by_cases same : (t, j) = (q, k)
  · obtain ⟨rfl, rfl⟩ := Prod.mk.inj same
    by_cases held : (s.threads.any fun y => y.tbs.contains (t, j)) = true
    · rw [if_pos held, held, Bool.not_true, Bool.and_false, Bool.not_false, Bool.and_true]
    · rw [if_neg held, State.updCore_eq, State.tileAt_setTile_same, clear_bit _ _ _ hp hk, Bool.eq_false_iff.mpr held,
        decide_eq_true rfl, beq_self_eq_true]
      rfl
  · have ne : ((t, j) == (q, k)) = false := by simpa using same
    simp only [ne, Bool.false_and, Bool.not_false, Bool.and_true]
    split
    · rfl
    · by_cases tile : q = t
      · subst tile
        have bit : j ≠ k := fun e => same (by rw [e])
        rw [State.updCore_eq, State.tileAt_setTile_same, clear_bit _ _ _ hp hk, decide_eq_false bit, Bool.not_false, Bool.and_true]
      · rw [State.updCore_eq, State.tileAt_setTile_other _ _ _ _ tile]

theorem State.foldl_unpend_tbPend (tbs : List (Nat × Nat)) (s : State) (q k : Nat) (ht : ∀ p ∈ tbs, p.2 < 2) (hk : k < 2) :
    ((tbs.foldl State.unpend s).tileAt q).core.tbPend.getLsbD k =
      ((s.tileAt q).core.tbPend.getLsbD k && !(tbs.contains (q, k) && !s.threads.any fun t => t.tbs.contains (q, k))) := by
  induction tbs generalizing s with
  | nil => simp
  | cons p tbs ih =>
    have threads : (s.unpend p).threads = s.threads := by rw [State.unpend_eq]
    rw [List.foldl_cons, ih _ fun y hy => ht y (List.mem_cons_of_mem p hy), State.unpend_tbPend s p q k (ht p (by simp)) hk,
      threads, List.contains_cons, BEq.comm (a := (q, k)), Bool.and_assoc]
    cases p == (q, k) <;> cases tbs.contains (q, k) <;> cases s.threads.any fun t => t.tbs.contains (q, k) <;> rfl

/-- The completion write of an idle thread is what R362 says of it. -/
theorem State.complete_completedWith {s : State} {l r : List Thread} {x : Thread} (h : IdleThread s l r x) (v : BitVec 32) :
    CompletedWith s (s.complete x v) l r x v := by
  have others : (s.threads.filter fun t => t.id != x.id) = l ++ r := by rw [h.place]; exact filter_sole Thread.id h.sole
  rw [State.complete_eq, others]
  let c : State := ({ s with threads := l ++ r } : State).commit (localPa x.tile x.comp) 4 v.toNat (fullMask 4)
  have keeps {γ : Type} (p : State → γ) (hp : ∀ s q, p (State.unpend s q) = p s) : p (x.tbs.foldl State.unpend c) = p c :=
    foldl_keeps p State.unpend hp x.tbs c
  have mem : (x.tbs.foldl State.unpend c).mem = Memory.write s.mem (localPa x.tile x.comp) 4 v.toNat (fullMask 4) :=
    (keeps State.mem fun s q => by rw [State.unpend_eq]).trans (State.commit_mem ..)
  refine ⟨?word, ?bytes, ?gone, ⟨?accs, ?regions, ?vds, ?sent⟩, ?pending⟩
  case word =>
    rw [State.rd, mem, Memory.read_write_same _ _ _ _ h.canonical]
    exact Nat.mod_eq_of_lt v.isLt
  case bytes =>
    intro a ha
    rw [mem, Memory.get_write_other _ _ _ _ _ _ ha]
  case gone => exact (keeps State.threads fun s q => by rw [State.unpend_eq]).trans (State.commit_threads ..)
  case accs => exact (keeps State.accs fun s q => by rw [State.unpend_eq]).trans (State.commit_accs ..)
  case regions => exact (keeps State.regions fun s q => by rw [State.unpend_eq]).trans (State.commit_regions ..)
  case vds => exact (keeps State.vds fun s q => by rw [State.unpend_eq]).trans (State.commit_vds ..)
  case sent => exact (keeps State.sent fun s q => by rw [State.unpend_eq]).trans (State.commit_sent ..)
  case pending =>
    intro q k hk
    obtain ⟨st, core⟩ := State.commit_core { s with threads := l ++ r } (localPa x.tile x.comp) 4 v.toNat (fullMask 4) q
    rw [State.foldl_unpend_tbPend x.tbs _ q k h.tables hk, core, State.commit_threads]
    rfl

/-! ### Frames (R241, R283) -/

/-- A port of an I/O die has a slot for the next frame of a thread: it has served none in this slot, and no waiting request goes
before (R241; log entry 59). -/
def FreePort (s : State) (x : Thread) (k : Nat × Nat) : Prop :=
  k ∈ [(2, 0), (2, 1)] ∧ (k, s.cycle / 4) ∉ s.wheelUsed ∧
    ∃ g, slotGroup (s.wheel k) s.slotNow x.vd x.cls = some g ∧
      ∀ b ∈ s.accs, AtResource s k b → ∀ h, s.groupNow k b = some h →
        g < h ∨ (g = h ∧ (g = 3 → s.turnOf k x.vd ≤ s.turnOf k b.vd) ∧ (x.vd = b.vd → s.sharesOk k x.region b.region = true))

theorem State.frameSlot_test (s : State) (x : Thread) (k : Nat × Nat) :
    (!s.wheelUsed.contains (k, s.cycle / 4) &&
      (slotGroup (s.wheel k) s.slotNow x.vd x.cls).any fun g => s.firstAt k x.vd x.region g) = true ↔
    (k, s.cycle / 4) ∉ s.wheelUsed ∧ ∃ g, slotGroup (s.wheel k) s.slotNow x.vd x.cls = some g ∧
      s.firstAt k x.vd x.region g = true := by
  simp [Option.any_eq_true]

theorem State.freePort_of_frameSlot {s : State} {x : Thread} {k : Nat × Nat} (h : s.frameSlot x = some k) : FreePort s x k := by
  have test := List.find?_some (show List.find? _ [(2, 0), (2, 1)] = some k from h)
  obtain ⟨unused, g, group, first⟩ := (s.frameSlot_test x k).mp test
  exact ⟨List.mem_of_find?_eq_some h, unused, g, group, (s.firstAt_iff ..).mp first⟩

theorem State.frameSlot_none_iff (s : State) (x : Thread) : s.frameSlot x = none ↔ ∀ k, ¬FreePort s x k := by
  constructor
  · rintro full k ⟨mem, unused, g, group, first⟩
    exact List.find?_eq_none.mp full k mem ((s.frameSlot_test x k).mpr ⟨unused, g, group, (s.firstAt_iff ..).mpr first⟩)
  · intro no
    cases h : s.frameSlot x with
    | none => rfl
    | some k => exact absurd (freePort_of_frameSlot h) (no k)

end Sys2Proof.Machine
end

section
/-!
PROOF. What an idle engine thread does next, and when a peer is lost (R20, R226, R241, R283 to R285, R360, R362, R442).
-/
namespace Sys2Proof.Machine
open Sys2Proof.Claims

/-! ### Peers (R284, R285) -/

theorem bits_low (w : Word) (n : Nat) : bits w 0 n = (w.setWidth n).toNat := by
  simp [bits]

theorem bits_upper_half (w : Word) : bits w 32 32 = (w >>> 32).toNat := by
  have := w.isLt
  rw [bits, BitVec.extractLsb'_toNat, BitVec.toNat_ushiftRight, Nat.shiftRight_eq_div_pow]
  omega

theorem State.peerTo_eq (s : State) (e off : Nat) : s.peerTo e off = peerAt s e off := by
  simp only [State.peerTo, State.peerWord, State.rd, Memory.read_eq_valueAt, bits_low, bits_upper_half]
  rfl

theorem State.peerId_eq (s : State) (e : Nat) : s.peerId e = peerOf s e := by
  unfold State.peerId peerOf
  rw [State.peerTo_eq]

theorem State.entries_iff_goesTo (s : State) (op : EngOp) (p : Nat × Nat) :
    (op.entries.any fun e => s.peerId e == p) = true ↔ goesTo s op p := by
  have known : (op.entries.any fun e => s.peerId e == p) = true ↔ ∃ e ∈ op.entries, peerOf s e = p := by
    simp only [List.any_eq_true, State.peerId_eq, beq_iff_eq]
  rw [known]
  cases op with
  | cpy => exact ⟨fun ⟨e, he, _⟩ => (List.not_mem_nil he).elim, False.elim⟩
  | gth => exact ⟨fun ⟨e, he, _⟩ => (List.not_mem_nil he).elim, False.elim⟩
  | coll k f exact count ranks me first =>
    show _ ↔ ∃ q, q < ranks ∧ q ≠ me ∧ peerOf s (first + q) = p
    constructor
    · rintro ⟨e, mem, is⟩
      obtain ⟨q, kept, rfl⟩ := List.mem_map.mp mem
      obtain ⟨lt, ne⟩ := List.mem_filter.mp kept
      exact ⟨q, List.mem_range.mp lt, bne_iff_ne.mp ne, is⟩
    · rintro ⟨q, lt, ne, is⟩
      exact ⟨first + q, List.mem_map.mpr ⟨q, List.mem_filter.mpr ⟨List.mem_range.mpr lt, bne_iff_ne.mpr ne⟩, rfl⟩, is⟩
  | xwr e off flag =>
    show _ ↔ peerOf s e = p
    simp [EngOp.entries]

/-! ### The frames that a thread sends -/

/-- A move after which the thread stands as y, fs has been sent, and memory, accesses and the record in focus are as before. -/
def StepsTo (e : Out) (s : State) (l r : List Thread) (y : Thread) (fs : List Sent) : Prop :=
  ∃ u, e = .next u ∧ u.threads = l ++ y :: r ∧ u.sent = s.sent ++ fs ∧ u.mem = s.mem ∧ u.accs = s.accs ∧ u.tile = s.tile

/-- A move that sends what is left of the frames fs: one at a time and by slots in class C0 and C1, else all at once; after the
last the thread stands as y (R241, R283; log entries 59 and 98). -/
def SendsFrames (e : Out) (s : State) (l r : List Thread) (x : Thread) (fs : List Sent) (y : Thread) : Prop :=
  let rest := fs.drop x.frames
  let due : Prop := x.cls.toNat < 2 ∧ rest ≠ []
  (due → (∀ k, ¬FreePort s x k) → e = .next s) ∧
  (¬due → StepsTo e s l r { y with sentAt := s.cycle, frames := 0 } rest) ∧
  (due → (∃ k, FreePort s x k) →
    (rest.length = 1 → StepsTo e s l r { y with sentAt := s.cycle, frames := 0 } rest) ∧
    (1 < rest.length → StepsTo e s l r { x with sentAt := s.cycle, frames := x.frames + 1 } (rest.take 1)) ∧
    ∃ k u, FreePort s x k ∧ e = .next u ∧ (k, s.cycle / 4) ∈ u.wheelUsed)

/-- The next k of the frames that are left go out. -/
def State.putFrames (s : State) (x : Thread) (rest : List Sent) (f : Thread → Thread) (k : Nat) : State :=
  ({ s with sent := s.sent ++ rest.take k } : State).updThread x.id fun t =>
    { (if rest.length ≤ k then { f t with frames := 0 } else { t with frames := x.frames + k }) with sentAt := s.cycle }

theorem State.sendFrames_at_once {s : State} {x : Thread} {fs : List Sent} (f : Thread → Thread)
    (h : ¬(x.cls.toNat < 2 ∧ fs.drop x.frames ≠ [])) :
    s.sendFrames x fs f = s.putFrames x (fs.drop x.frames) f (fs.drop x.frames).length := by
  have test : (decide (2 ≤ x.cls.toNat) || (fs.drop x.frames).isEmpty) = true := by
    rw [Bool.or_eq_true, decide_eq_true_eq, List.isEmpty_iff]
    by_cases c : x.cls.toNat < 2
    · exact .inr (Classical.not_not.mp fun n => h ⟨c, n⟩)
    · exact .inl (by omega)
  exact if_pos test

/-- In class C0 and C1 the next frame goes out when a port has a slot for it. -/
theorem State.sendFrames_by_slot {s : State} {x : Thread} {fs : List Sent} (f : Thread → Thread)
    (due : x.cls.toNat < 2 ∧ fs.drop x.frames ≠ []) :
    (s.frameSlot x = none → s.sendFrames x fs f = s) ∧
    (∀ k, s.frameSlot x = some k → s.sendFrames x fs f =
      (s.takeSlot k x.vd x.region (slotGroup (s.wheel k) s.slotNow x.vd x.cls)).putFrames x (fs.drop x.frames) f 1) := by
  have test : ¬(decide (2 ≤ x.cls.toNat) || (fs.drop x.frames).isEmpty) = true := by
    rw [Bool.or_eq_true, decide_eq_true_eq, List.isEmpty_iff]
    exact not_or.mpr ⟨by omega, due.2⟩
  refine ⟨fun held => (if_neg test).trans ?_, fun k port => (if_neg test).trans ?_⟩
  · rw [held]
  · rw [port]
    rfl

section
variable {s : State} {l r : List Thread} {x : Thread} (place : s.threads = l ++ x :: r) (sole : ∀ y ∈ l ++ r, y.id ≠ x.id)
include place sole

theorem State.putFrames_all (rest : List Sent) (f : Thread → Thread) (k : Nat) (h : rest.length ≤ k) :
    s.putFrames x rest f k = { s with
      sent := s.sent ++ rest, threads := l ++ { f x with sentAt := s.cycle, frames := 0 } :: r } := by
  unfold State.putFrames
  rw [State.updThread_sole (s := { s with sent := s.sent ++ rest.take k }) place sole, if_pos h, List.take_of_length_le h]

theorem State.putFrames_some (rest : List Sent) (f : Thread → Thread) (k : Nat) (h : k < rest.length) :
    s.putFrames x rest f k = { s with
      sent := s.sent ++ rest.take k, threads := l ++ { x with sentAt := s.cycle, frames := x.frames + k } :: r } := by
  unfold State.putFrames
  rw [State.updThread_sole (s := { s with sent := s.sent ++ rest.take k }) place sole, if_neg (by omega)]

theorem State.sendFrames_sendsFrames (fs : List Sent) (f : Thread → Thread) :
    SendsFrames (.next (s.sendFrames x fs f)) s l r x fs (f x) := by
  refine ⟨fun due full => ?held, fun idle => ?whole, fun due free => ?slot⟩
  case held => rw [(State.sendFrames_by_slot f due).1 ((s.frameSlot_none_iff x).mpr full)]
  case whole =>
    rw [State.sendFrames_at_once f idle, State.putFrames_all place sole _ f _ (Nat.le_refl _)]
    exact ⟨_, rfl, rfl, rfl, rfl, rfl, rfl⟩
  case slot =>
    cases port : s.frameSlot x with
    | none =>
      obtain ⟨k, hk⟩ := free
      exact absurd hk ((s.frameSlot_none_iff x).mp port k)
    | some k =>
      rw [(State.sendFrames_by_slot f due).2 k port]
      let t := s.takeSlot k x.vd x.region (slotGroup (s.wheel k) s.slotNow x.vd x.cls)
      refine ⟨fun one => ?_, fun more => ?_, k, _, State.freePort_of_frameSlot port, rfl, List.mem_cons_self⟩
      · exact ⟨_, congrArg _ (State.putFrames_all (s := t) place sole _ f 1 (Nat.le_of_eq one)), rfl, rfl, rfl, rfl, rfl⟩
      · exact ⟨_, congrArg _ (State.putFrames_some (s := t) place sole _ f 1 more), rfl, rfl, rfl, rfl, rfl⟩

end

/-! ### What an idle thread does -/

/-- A thread whose reads have been answered is idle once its accesses, and those of its release, have been performed. -/
theorem State.threadIdle_of {s : State} {l r : List Thread} {x : Thread} (h : IdleThread s l r x) : s.threadIdle x = true := by
  obtain ⟨reads, performed, after⟩ := h.idle
  unfold State.threadIdle
  rw [State.thread_sole h.place h.sole, after, Option.getD_some, reads]
  simpa [Access.isPerformed] using performed

/-- The step of an idle thread, by its operation. -/
theorem exec_engineCompletion_idle {s : State} {l r : List Thread} {x : Thread} (h : IdleThread s l r x) (rep : PeerReply) :
    (x.op = .cpy ∨ x.op = .gth → exec (.engineCompletion x.id rep) s = .next (s.complete x x.val)) ∧
    (∀ entry off flag, x.op = .xwr entry off flag →
      exec (.engineCompletion x.id rep) s = .next (s.xwrStep x entry off flag rep)) ∧
    (∀ k f exact count ranks me first, x.op = .coll k f exact count ranks me first →
      exec (.engineCompletion x.id rep) s = .next (s.collStep x k f exact count ranks me first rep)) := by
  have runs : exec (.engineCompletion x.id rep) s = execEngineCompletion x.id rep s := rfl
  rw [runs, execEngineCompletion, State.thread_sole h.place h.sole]
  simp only [State.event, State.threadIdle_of h, if_true]
  refine ⟨?_, fun entry off flag op => ?_, fun k f exact count ranks me first op => ?_⟩
  · rintro (op | op) <;> rw [op]
  · rw [op]
  · rw [op]

/-- A thread with reads that have not been answered does nothing yet. -/
theorem exec_engineCompletion_busy {s : State} {x : Thread} (thread : s.thread x.id = some x) (reading : x.reads ≠ [])
    (rep : PeerReply) : exec (.engineCompletion x.id rep) s = .next s := by
  have busy : s.threadIdle x = false := by
    simp [State.threadIdle, thread, reading]
  have runs : exec (.engineCompletion x.id rep) s = execEngineCompletion x.id rep s := rfl
  rw [runs, execEngineCompletion, thread]
  simp only [State.event, busy, Bool.false_eq_true, if_false]

/-- The completion word is written, whether peers have just been heard or not. -/
theorem State.hear_complete {s : State} {l r : List Thread} {x : Thread} (h : IdleThread s l r x) (op : EngOp) (v : BitVec 32) :
    CompletedWith s ((s.hear op).complete x v) l r x v := by
  have heard : IdleThread (s.hear op) l r x := ⟨h.place, h.sole, h.idle, h.canonical, h.tables⟩
  obtain ⟨word, bytes, gone, rest, pending⟩ := State.complete_completedWith heard v
  exact ⟨word, bytes, gone, rest, pending⟩

/-! ### XWR (R442) -/

section
variable (s : State) (x : Thread) (entry off : Nat) (flag : Option Nat) (rep : PeerReply)

theorem State.xwrStep_lost (lost : x.lost = true) : s.xwrStep x entry off flag rep = s.complete x 0xFFFFFFFF := if_pos lost

theorem State.xwrStep_send (lost : x.lost = false) (sent : x.sent = false) :
    s.xwrStep x entry off flag rep = s.sendFrames x ((framesOf (x.bytes x.buf.length)).map fun q =>
      .frame (peerAt s entry (off + q.1)) q.2
        (if q.1 + 9216 < x.buf.length then none else flag.map fun o => ((peerAt s entry o).off, x.val)))
      fun t => { t with sent := true } := by
  simp only [State.xwrStep, lost, sent, State.peerTo_eq, Bool.not_false, if_true, Bool.false_eq_true, if_false]

theorem State.xwrStep_answer (lost : x.lost = false) (sent : x.sent = true) :
    s.xwrStep x entry off flag .done = (s.hear x.op).complete x x.val ∧
    s.xwrStep x entry off flag .refused = (s.hear x.op).complete x 0xFFFFFFFD := by
  simp [State.xwrStep, lost, sent]

end

/-! ### COLL (R360) -/

section
variable (s : State) (x : Thread) (k : Nat) (f : Fmt) (exact : Bool) (count ranks me first : Nat) (rep : PeerReply)

/-- The bits and flags that a COLL stores, from the contributions of the other ranks. -/
def Thread.collValue (x : Thread) (k : Nat) (f : Fmt) (exact : Bool) (count ranks me : Nat) (xs : List (List Byte)) :
    Nat × BitVec 6 :=
  collResult k f exact count me
    ((List.range ranks).map fun q => ofBytes (if q = me then x.bytes (count * f.width / 8) else xs.getD q []))

/-- The other ranks of a COLL. -/
def State.collPeers (s : State) (ranks me first : Nat) : List Peer :=
  ((List.range ranks).filter fun q => q ≠ me).map fun q => peerAt s (first + q) 0

theorem State.collPeers_eq (ranks me first : Nat) :
    (((List.range ranks).filter fun q => q != me).map fun q => s.peerTo (first + q) 0) = s.collPeers ranks me first := by
  simp only [State.collPeers, State.peerTo_eq, ne_eq, decide_not]
  rfl

theorem State.collStep_lost (lost : x.lost = true) :
    s.collStep x k f exact count ranks me first rep = s.complete x 0xFFFFFFFF := if_pos lost

theorem State.collStep_written (lost : x.lost = false) (written : x.written = true) :
    s.collStep x k f exact count ranks me first rep = if rep = .done then (s.hear x.op).complete x x.val else s := by
  simp [State.collStep, lost, written]

theorem State.collStep_alone (lost : x.lost = false) (written : x.written = false) :
    s.collStep x k f exact count 1 me first rep = s.collWrite x (x.collValue k f exact count 1 me []) := by
  simp [State.collStep, lost, written, Thread.collValue]

variable (lost : x.lost = false) (written : x.written = false) (others : ranks ≠ 1)
include lost written others

theorem State.collStep_tell (told : x.told = false) :
    s.collStep x k f exact count ranks me first rep = s.sendFrames x
      ((s.collPeers ranks me first).map fun p => .collDesc p ⟨k, f.tag, exact, count, ranks, x.ordinal⟩)
      fun t => { t with told := true } := by
  simp only [State.collStep, lost, written, others, told, State.collPeers_eq, Thread.collDesc, Bool.not_false, if_true,
    Bool.false_eq_true, if_false]

theorem State.collStep_match (ds : List CollDesc) (told : x.told = true) (matched : x.matched = false)
    (length : ds.length = ranks) (own : ds[me]? = some ⟨k, f.tag, exact, count, ranks, x.ordinal⟩)
    (ordinals : ∀ y ∈ ds, y.ordinal = x.ordinal) :
    s.collStep x k f exact count ranks me first (.descs ds) =
      if ∀ y ∈ ds, y = ⟨k, f.tag, exact, count, ranks, x.ordinal⟩
      then (s.hear x.op).updThread x.id fun t => { t with matched := true }
      else (s.hear x.op).complete x 0xFFFFFFFE := by
  have valid : ¬(ds.length != ranks || ds[me]? != some ⟨k, f.tag, exact, count, ranks, x.ordinal⟩ ||
      ds.any fun y => y.ordinal != x.ordinal) = true := by
    simpa [length, own] using ordinals
  simp only [State.collStep, lost, written, others, told, matched, Thread.collDesc, Bool.not_true, Bool.not_false, if_true,
    Bool.false_eq_true, if_false, valid, List.all_eq_true, beq_iff_eq]

theorem State.collStep_send (told : x.told = true) (matched : x.matched = true) (sent : x.sent = false) :
    s.collStep x k f exact count ranks me first rep = s.sendFrames x
      (if k = 4 ∧ me ≠ 0 then [] else (s.collPeers ranks me first).flatMap fun p =>
        (framesOf (x.bytes (count * f.width / 8))).map fun q => .collData p x.ordinal q.1 q.2)
      fun t => { t with sent := true } := by
  have takesPart : (if collReads k me then (s.collPeers ranks me first).flatMap fun p =>
        (framesOf (x.bytes (count * f.width / 8))).map fun q => Sent.collData p x.ordinal q.1 q.2 else []) =
      if k = 4 ∧ me ≠ 0 then [] else (s.collPeers ranks me first).flatMap fun p =>
        (framesOf (x.bytes (count * f.width / 8))).map fun q => Sent.collData p x.ordinal q.1 q.2 := by
    by_cases root : k = 4 ∧ me ≠ 0
    · simp [collReads, root]
    · have reads : collReads k me = true := by
        simp only [collReads, Bool.or_eq_true, bne_iff_ne, beq_iff_eq]
        omega
      rw [if_pos reads, if_neg root]
  simp only [State.collStep, lost, written, others, told, matched, sent, State.collPeers_eq, Bool.not_true, Bool.not_false,
    if_true, Bool.false_eq_true, if_false, takesPart]

theorem State.collStep_result (xs : List (List Byte)) (told : x.told = true) (matched : x.matched = true)
    (sent : x.sent = true) (length : xs.length = ranks) (whole : ∀ y ∈ xs, y.length = count * f.width / 8) :
    s.collStep x k f exact count ranks me first (.ranks xs) =
      (s.hear x.op).collWrite x (x.collValue k f exact count ranks me xs) := by
  have complete : (decide (xs.length = ranks) && xs.all fun b => b.length == count * f.width / 8) = true := by
    simpa [length] using whole
  simp only [State.collStep, lost, written, others, told, matched, sent, Bool.not_true, if_true, Bool.false_eq_true, if_false,
    complete]
  rfl

end

/-- The result of a COLL goes out as stores to its places, and its flags to FSTAT while the task still owns its tile (log
entry 78). -/
def StoresResult (e : Out) (s : State) (l r : List Thread) (x : Thread) (v : Nat × BitVec 6) : Prop :=
  ∃ u l', e = .next u ∧ u.threads = l ++ { x with written := true } :: r ∧ u.mem = s.mem ∧ u.accs = s.accs ++ l' ∧
    l'.length = x.outs.length ∧
    (u.tileAt x.tile).core.fstat = (if (s.tileAt x.tile).core.owner = some (x.vd, x.gen)
      then (s.tileAt x.tile).core.fstat ||| v.2 else (s.tileAt x.tile).core.fstat) ∧
    ∀ (j : Nat) (o : PartOut), x.outs[j]? = some o → ∃ y, l'[j]? = some y ∧ StoresPart x v.1 o y

theorem State.collWrite_storesResult {s : State} {l r : List Thread} {x : Thread} (place : s.threads = l ++ x :: r)
    (sole : ∀ y ∈ l ++ r, y.id ≠ x.id) (v : Nat × BitVec 6) : StoresResult (.next (s.collWrite x v)) s l r x v := by
  obtain ⟨l', n, fold, length, stores⟩ := State.foldl_threadStore x v.1 x.outs s
  have write : s.collWrite x v = ({ s with
      accs := s.accs ++ l', nextId := n, threads := l ++ { x with written := true } :: r } : State).updCore x.tile fun c =>
        if c.owner = some (x.vd, x.gen) then { c with fstat := c.fstat ||| v.2 } else c := by
    unfold State.collWrite
    rw [fold, State.updThread_sole (s := { s with accs := s.accs ++ l', nextId := n }) place sole]
  refine ⟨_, l', congrArg _ write, ?_, ?_, ?_, length, ?_, stores⟩
  · rw [State.updCore_eq, State.setTile_threads]
  · rw [State.updCore_eq, State.setTile_mem]
  · rw [State.updCore_eq, State.setTile_accs]
  · rw [State.updCore_eq, State.tileAt_setTile_same]
    exact apply_ite Core.fstat _ _ _

/-! ### A peer that is silent (R285) -/

/-- A thread has sent to a peer, and for 100 ms since neither it has sent nor the peer has been heard. -/
def Silent (s : State) (p : Nat × Nat) : Prop :=
  ∃ x ∈ s.threads, (x.told = true ∨ x.sent = true) ∧ goesTo s x.op p ∧ x.sentAt + 70000000 ≤ s.cycle ∧
    ((s.peersHeard.find? fun q => q.1 == p).map Prod.snd).getD 0 + 70000000 ≤ s.cycle

theorem State.names_iff (s : State) (x : Thread) (p : Nat × Nat) : s.names x p = true ↔ goesTo s x.op p :=
  s.entries_iff_goesTo x.op p

theorem State.silent_iff (s : State) (p : Nat × Nat) : s.silent p = true ↔ Silent s p := by
  unfold State.silent Silent
  generalize s.peersHeard.find? (fun q => q.1 == p) = last
  simp only [List.any_eq_true, Bool.and_eq_true, Bool.or_eq_true, State.names_iff, and_assoc]
  refine exists_congr fun x => and_congr_right fun _ => and_congr_right fun _ => and_congr_right fun _ => ?_
  rw [decide_eq_true_iff, peerLimit]
  cases last with
  | none =>
    show max x.sentAt 0 + 70000000 ≤ s.cycle ↔ x.sentAt + 70000000 ≤ s.cycle ∧ 0 + 70000000 ≤ s.cycle
    omega
  | some q =>
    show max x.sentAt q.2 + 70000000 ≤ s.cycle ↔ x.sentAt + 70000000 ≤ s.cycle ∧ q.2 + 70000000 ≤ s.cycle
    omega

/-- A thread once a peer is lost (R285). -/
def State.lose (s : State) (p : Nat × Nat) (x : Thread) : Thread := if s.names x p then { x with lost := true } else x

theorem State.lose_of_goesTo {s : State} {p : Nat × Nat} {x : Thread} (h : goesTo s x.op p) :
    s.lose p x = { x with lost := true } := if_pos ((s.names_iff x p).mpr h)

theorem State.lose_of_not_goesTo {s : State} {p : Nat × Nat} {x : Thread} (h : ¬goesTo s x.op p) : s.lose p x = x :=
  if_neg (mt (s.names_iff x p).mp h)

/-- PEER_LOST: only a silent peer is lost, and with it every operation to it. -/
theorem exec_peerLost (entry : Nat) (s : State) :
    (¬Silent s (peerOf s entry) → exec (.peerLost entry) s = .next s) ∧
    (Silent s (peerOf s entry) → exec (.peerLost entry) s = .next { s with
      peersLost := peerOf s entry :: s.peersLost.filter fun q => q != peerOf s entry
      threads := s.threads.map (s.lose (peerOf s entry)) }) := by
  have runs : exec (.peerLost entry) s = execPeerLost entry s := rfl
  rw [runs, execPeerLost, State.peerId_eq, State.event]
  refine ⟨fun loud => ?_, fun silent => ?_⟩
  · rw [if_neg (mt (s.silent_iff _).mp loud)]
  · rw [if_pos ((s.silent_iff _).mpr silent)]
    rfl

end Sys2Proof.Machine

namespace Sys2Proof.Claims
open Sys2Proof.Machine

/-- The moves of an idle thread, of one that is not, and of the device that declares a peer lost. -/
theorem engineThreadsComplete : EngineThreadsComplete := by
  refine ⟨fun s l r x rep idle => ?_, fun s x rep thread reading => ?_, fun entry s => ?_⟩
  · obtain ⟨copies, writes, collects⟩ := exec_engineCompletion_idle idle rep
    have completes (v : BitVec 32) : CompletedWith s (s.complete x v) l r x v := State.complete_completedWith idle v
    have answered (v : BitVec 32) : CompletedWith s ((s.hear x.op).complete x v) l r x v := State.hear_complete idle x.op v
    have sends (fs : List Sent) (f : Thread → Thread) : SendsFrames (.next (s.sendFrames x fs f)) s l r x fs (f x) :=
      State.sendFrames_sendsFrames idle.place idle.sole fs f
    intro Completes Steps Frames cut data
    refine ⟨fun op => ⟨_, copies op, completes _⟩, fun entry off flag op => ?xwr, fun k f exact count ranks me first op => ?coll⟩
    case xwr =>
      have step := writes entry off flag op
      refine ⟨fun lost => ⟨_, step.trans (congrArg _ (s.xwrStep_lost x entry off flag rep lost)), completes _⟩,
        fun lost sent => ?_, fun lost sent => ⟨?_, ?_⟩⟩
      · rw [s.xwrStep_send x entry off flag rep lost sent] at step
        show SendsFrames (exec (.engineCompletion x.id rep) s) s l r x _ _
        rw [step]
        exact sends _ _
      · rintro rfl
        exact ⟨_, step.trans (congrArg _ (s.xwrStep_answer x entry off flag lost sent).1), answered _⟩
      · rintro rfl
        exact ⟨_, step.trans (congrArg _ (s.xwrStep_answer x entry off flag lost sent).2), answered _⟩
    case coll =>
      have step := collects k f exact count ranks me first op
      intro n mine peers Result
      refine ⟨fun lost => ⟨_, step.trans (congrArg _ (s.collStep_lost x k f exact count ranks me first rep lost)), completes _⟩,
        fun lost written => ?written, fun lost written alone => ?alone, fun lost written others => ⟨fun told => ?tell,
          fun ds told matched answer length own ordinals => ?compare, fun told matched sent => ?send,
          fun xs told matched sent answer length whole => ?result⟩⟩
      case written =>
        rw [s.collStep_written x k f exact count ranks me first rep lost written] at step
        exact ⟨fun done => ⟨_, step.trans (congrArg _ (if_pos done)), answered _⟩, fun other => step.trans (congrArg _ (if_neg other))⟩
      case alone =>
        subst alone
        rw [s.collStep_alone x k f exact count me first rep lost written] at step
        show StoresResult (exec (.engineCompletion x.id rep) s) s l r x _
        rw [step]
        exact State.collWrite_storesResult idle.place idle.sole _
      case tell =>
        rw [s.collStep_tell x k f exact count ranks me first rep lost written others told] at step
        show SendsFrames (exec (.engineCompletion x.id rep) s) s l r x _ _
        rw [step]
        exact sends _ _
      case compare =>
        subst answer
        rw [s.collStep_match x k f exact count ranks me first lost written others ds told matched length own ordinals] at step
        refine ⟨fun same => ⟨_, step.trans (congrArg _ (if_pos same)), ?_⟩,
          fun ⟨y, mem, differs⟩ => ⟨_, step.trans (congrArg _ (if_neg fun same => differs (same y mem))), answered _⟩⟩
        rw [State.updThread_sole (s := s.hear x.op) idle.place idle.sole]
        exact ⟨rfl, (List.append_nil _).symm, rfl, rfl, rfl⟩
      case send =>
        rw [s.collStep_send x k f exact count ranks me first rep lost written others told matched sent] at step
        show SendsFrames (exec (.engineCompletion x.id rep) s) s l r x _ _
        rw [step]
        exact sends _ _
      case result =>
        subst answer
        rw [s.collStep_result x k f exact count ranks me first lost written others xs told matched sent length whole] at step
        show StoresResult (exec (.engineCompletion x.id _) s) s l r x _
        rw [step]
        exact State.collWrite_storesResult (s := s.hear x.op) idle.place idle.sole _
  · exact exec_engineCompletion_busy thread reading rep
  · obtain ⟨loud, silent⟩ := exec_peerLost entry s
    refine ⟨loud, fun h => ⟨_, silent h, rfl, fun q => ?_, List.length_map _, fun k x at_ => ⟨s.lose (peerOf s entry) x, ?_,
      State.lose_of_goesTo, State.lose_of_not_goesTo⟩⟩⟩
    · by_cases e : q = peerOf s entry <;> simp [e]
    · rw [List.getElem?_map, at_]
      rfl

end Sys2Proof.Claims
end

section
/-!
PROOF. The bytes that a reply brings to an engine thread, and a peer's write (R226, R267, R270, R285, R361, R442).
-/
namespace Sys2Proof.Machine
open Sys2Proof.Claims

/-! ### The reply of a thread's read -/

section
variable {s : State} {l r : List Access} {a : Access} (among : Among s l a r)
include among

/-- An access that has been performed and is the first of its queue is answered. -/
theorem exec_accessReply (performed : a.st = .performed)
    (first : ∀ b ∈ l ++ r, b.st = .performed → OneQueue b a → a.seq ≤ b.seq) :
    exec (.accessReply a.id) s = .next (s.replyTo a) := by
  have runs : exec (.accessReply a.id) s = execAccessReply a.id s := rfl
  have found : s.acc a.id = some a := by
    unfold State.acc
    rw [among.is]
    exact find?_sole Access.id among.only
  have next : s.mayReply a = true := by
    refine (s.mayReply_iff a).mpr ⟨performed, fun b mem done queue => ?_⟩
    rw [among.is] at mem
    rcases List.mem_append.mp mem with left | right
    · exact first b (List.mem_append_left r left) done queue
    · rcases List.mem_cons.mp right with rfl | right
      · exact (Nat.le_refl _)
      · exact first b (List.mem_append_right l right) done queue
  rw [runs, execAccessReply, State.onAcc, found]
  exact congrArg _ (if_pos next)

theorem State.dropAcc_among : s.dropAcc a.id = { s with accs := l ++ r } := by
  unfold State.dropAcc
  rw [among.is, filter_sole Access.id among.only]

/-- The bytes of a thread's only read: to their places for CPY and GTH, else kept. -/
theorem State.replyTo_thread {tl tr : List Thread} {x : Thread} {p : Part} (party : a.party = .thread x.id)
    (place : s.threads = tl ++ x :: tr) (sole : ∀ y ∈ tl ++ tr, y.id ≠ x.id) (read : x.reads = [(a.id, p)]) :
    let t : State := { s with accs := l ++ r, threads := tl ++ { x with reads := [] } :: tr }
    (x.op = .cpy ∨ x.op = .gth → s.replyTo a = t.threadOuts x a.val.toNat p.outs) ∧
    (x.op ≠ .cpy → x.op ≠ .gth → s.replyTo a = { s with accs := l ++ r, threads := tl ++ { x with
      reads := []
      buf := x.buf ++ (List.range p.n).map fun i => (p.pos + i, BitVec.ofNat 8 (a.val.toNat / 2 ^ (8 * i))) } :: tr }) := by
  intro t
  have dropped : s.replyTo a = ({ s with accs := l ++ r } : State).threadReply x.id a := by
    unfold State.replyTo
    rw [party, State.dropAcc_among among]
  have found : ({ s with accs := l ++ r } : State).thread x.id = some x := State.thread_sole place sole
  have own : (x.reads.find? fun q => q.1 == a.id) = some (a.id, p) := by simp [read]
  have answered : (({ s with accs := l ++ r } : State).updThread x.id fun y =>
      { y with reads := y.reads.filter fun q => q.1 != a.id }) = t := by
    rw [State.updThread_sole (s := { s with accs := l ++ r }) place sole]
    simp [read, t]
  have kept : ∀ f, t.updThread x.id f = { s with accs := l ++ r, threads := tl ++ f { x with reads := [] } :: tr } := fun f =>
    State.updThread_sole (x := { x with reads := [] }) (s := t) rfl sole f
  rw [dropped, State.threadReply, found]
  simp only [own, answered]
  refine ⟨?_, fun notCpy notGth => ?_⟩
  · rintro (op | op) <;> rw [op]
  · refine Eq.trans ?_ (kept fun y =>
      { y with buf := y.buf ++ (List.range p.n).map fun i => (p.pos + i, BitVec.ofNat 8 (a.val.toNat / 2 ^ (8 * i))) })
    cases op : x.op with
    | cpy => exact absurd op notCpy
    | gth => exact absurd op notGth
    | coll => rfl
    | xwr => rfl

end

/-! ### A word of the destination that several reads bring (R226) -/

/-- Byte i of a number of bytes within 64 bytes of a store. -/
theorem storeData_byte (xs : List Byte) (i : Nat) (short : xs.length ≤ 64) :
    (BitVec.ofNat 512 (ofBytes xs % 2 ^ (8 * xs.length))).extractLsb' (8 * i) 8 = xs.getD i 0 := by
  have bound : ofBytes xs < 2 ^ (8 * xs.length) := by
    rw [Nat.pow_mul]
    exact ofBytes_lt xs
  have fits := Nat.lt_of_lt_of_le bound (Nat.pow_le_pow_right Nat.two_pos (show 8 * xs.length ≤ 512 by omega))
  rw [← byte_ofBytes xs i, Nat.mod_eq_of_lt bound]
  apply BitVec.eq_of_toNat_eq
  rw [BitVec.extractLsb'_toNat, BitVec.toNat_ofNat, BitVec.toNat_ofNat, Nat.mod_eq_of_lt fits, Nat.shiftRight_eq_div_pow, Nat.pow_mul]

/-- The bytes that a thread holds once those of a part have joined them. -/
def Thread.joined (x : Thread) (o : PartOut) (v : Nat) : List (Nat × Byte) :=
  x.buf ++ (List.range o.n).map fun i => (o.pos + i, BitVec.ofNat 8 (v / 2 ^ (8 * (o.off + i))))

/-- Byte i of a part's destination word among those held. -/
def heldByte (buf : List (Nat × Byte)) (o : PartOut) (i : Nat) : Option Byte :=
  (buf.find? fun b => b.1 == o.first + i).map Prod.snd

/-- The bytes of a destination word that are held, 0 for one that is not. -/
def heldWord (buf : List (Nat × Byte)) (o : PartOut) : List Byte := (List.range o.len).map fun i => (heldByte buf o i).getD 0

section
variable {s : State} {l r : List Thread} {x : Thread} (place : s.threads = l ++ { x with reads := [] } :: r)
  (sole : ∀ y ∈ l ++ r, y.id ≠ x.id) {o : PartOut} (part : o.n < o.len) (v : Nat)
include place sole part

theorem State.threadOuts_part : s.threadOuts x v [o] =
    if ((List.range o.len).map (heldByte (x.joined o v) o)).all Option.isSome then
      ({ s with threads := l ++ { x with reads := [], buf := (x.joined o v).filter fun b =>
        b.1 < o.first ∨ o.first + o.len ≤ b.1 } :: r } : State).threadStore x
        { o with off := 0, n := o.len, dst := o.dst - (o.pos - o.first) } (ofBytes (heldWord (x.joined o v) o))
    else { s with threads := l ++ { x with reads := [], buf := x.joined o v } :: r } := by
  have found : s.thread x.id = some { x with reads := [] } := State.thread_sole (x := { x with reads := [] }) place sole
  have update (f : Thread → Thread) : s.updThread x.id f = { s with threads := l ++ f { x with reads := [] } :: r } :=
    State.updThread_sole (x := { x with reads := [] }) place sole f
  have joins : (x.buf ++ (List.range o.n).map fun i => (o.pos + i, BitVec.ofNat 8 (v / 2 ^ (8 * o.off) / 2 ^ (8 * i)))) =
      x.joined o v := by
    simp only [Thread.joined, Nat.div_div_eq_div_mul, ← Nat.pow_add, Nat.mul_add]
  have outside : (fun b : Nat × Byte => decide (b.1 < o.first) || decide (o.first + o.len ≤ b.1)) =
      fun b => decide (b.1 < o.first ∨ o.first + o.len ≤ b.1) := by
    funext b
    exact (Bool.decide_or _ _).symm
  rw [State.threadOuts, if_neg (Nat.ne_of_lt part), State.threadOuts, State.threadWord, found]
  simp only [Option.getD_some, joins, update, outside, List.map_map]
  rfl

theorem State.threadOuts_missing (missing : ∃ i < o.len, heldByte (x.joined o v) o i = none) :
    s.threadOuts x v [o] = { s with threads := l ++ { x with reads := [], buf := x.joined o v } :: r } := by
  obtain ⟨i, lt, absent⟩ := missing
  rw [State.threadOuts_part place sole part v, if_neg]
  intro all
  have := List.all_eq_true.mp all _ (List.mem_map_of_mem (List.mem_range.mpr lt))
  rw [absent] at this
  cases this

theorem State.threadOuts_completed (here : ∀ i < o.len, heldByte (x.joined o v) o i ≠ none) : s.threadOuts x v [o] =
    ({ s with threads := l ++ { x with reads := [], buf := (x.joined o v).filter fun b =>
      b.1 < o.first ∨ o.first + o.len ≤ b.1 } :: r } : State).threadStore x
      { o with off := 0, n := o.len, dst := o.dst - (o.pos - o.first) } (ofBytes (heldWord (x.joined o v) o)) := by
  rw [State.threadOuts_part place sole part v, if_pos]
  rw [List.all_eq_true]
  intro b mem
  obtain ⟨i, lt, rfl⟩ := List.mem_map.mp mem
  exact Option.isSome_iff_ne_none.mpr (here i (List.mem_range.mp lt))

end

/-- The data of the store of a whole word: its bytes. -/
theorem heldWord_byte (buf : List (Nat × Byte)) (o : PartOut) (i : Nat) (lt : i < o.len) (short : o.len ≤ 8)
    (here : heldByte buf o i ≠ none) : heldByte buf o i =
      some ((BitVec.ofNat 512 (ofBytes (heldWord buf o) % 2 ^ (8 * o.len))).extractLsb' (8 * i) 8) := by
  have length : (heldWord buf o).length = o.len := by simp [heldWord]
  have byte := storeData_byte (heldWord buf o) i (by omega)
  rw [length] at byte
  obtain ⟨b, is⟩ := Option.ne_none_iff_exists'.mp here
  rw [byte, heldWord, List.getD_eq_getElem?_getD, List.getElem?_map, List.getElem?_range lt, is]
  simp [is]

/-! ### Share windows (R284, R442) -/

theorem Window.pa_add (x : Window) {off j : Nat} (h : off % 0x20000 + j < 0x20000) : x.pa (off + j) = x.pa off + j := by
  have granule : (off + j) / 0x20000 = off / 0x20000 := by omega
  have rest : (off + j) % 0x20000 = off % 0x20000 + j := by omega
  rw [Window.pa, Window.pa, granule, rest, Nat.add_assoc]

theorem getElem_inj_of_nodup {l : List Nat} (nodup : l.Nodup) {i j : Nat} (hi : i < l.length) (hj : j < l.length)
    (same : l[i] = l[j]) : i = j := by
  have apart := List.pairwise_iff_getElem.mp nodup
  rcases Nat.lt_trichotomy i j with lt | eq | gt
  · exact absurd same (apart i j hi hj lt)
  · exact eq
  · exact absurd same.symm (apart j i hj hi gt)

/-- The places of a window are one for each offset. -/
theorem Window.pa_inj {x : Window} (nodup : x.granules.Nodup) {a b : Nat} (ha : a < x.granules.length * 0x20000)
    (hb : b < x.granules.length * 0x20000) (h : x.pa a = x.pa b) : a = b := by
  have la : a / 0x20000 < x.granules.length := by omega
  have lb : b / 0x20000 < x.granules.length := by omega
  rw [Window.pa, Window.pa, List.getD_eq_getElem?_getD, List.getD_eq_getElem?_getD, List.getElem?_eq_getElem la,
    List.getElem?_eq_getElem lb, Option.getD_some, Option.getD_some] at h
  have rest : a % 0x20000 = b % 0x20000 := by omega
  have granule : a / 0x20000 = b / 0x20000 := getElem_inj_of_nodup nodup la lb (by omega)
  omega

/-- A byte below m of a number and of its lowest m bytes. -/
theorem byte_low (v : Nat) {m j : Nat} (h : j < m) :
    BitVec.ofNat 8 (v % 2 ^ (8 * m) / 256 ^ j) = BitVec.ofNat 8 (v / 256 ^ j) := by
  have split : 2 ^ (8 * m) = 256 ^ j * 256 ^ (m - j) := by
    rw [← Nat.pow_add, show j + (m - j) = m by omega, Nat.pow_mul]
  apply BitVec.eq_of_toNat_eq
  rw [split, Nat.mod_mul_right_div_self, BitVec.toNat_ofNat, BitVec.toNat_ofNat]
  exact Nat.mod_mod_of_dvd _ (⟨256 ^ (m - j - 1), by rw [← Nat.pow_succ']; congr 1; omega⟩)

section
variable (x : Window)

/-- What no write of bytes changes, a peer's payload does not change. -/
theorem State.peerStore_keeps {γ : Type} (p : State → γ)
    (hp : ∀ (s : State) pa n v, p (s.commit pa n v (fullMask n)) = p s) (s : State) (off v k n : Nat) :
    p (s.peerStore x off v k n) = p s := by
  induction k generalizing s off v n with
  | zero => rfl
  | succ k ih =>
    rw [State.peerStore]
    split
    · rfl
    · rw [ih, hp]

@[simp] theorem State.peerStore_zero (s : State) (off v k : Nat) : s.peerStore x off v k 0 = s := by
  cases k <;> rfl

theorem State.peerStore_wf (s : State) (off v k n : Nat) (wf : Memory.wf s.mem = true) :
    Memory.wf (s.peerStore x off v k n).mem = true := by
  induction k generalizing s off v n with
  | zero => exact wf
  | succ k ih =>
    rw [State.peerStore]
    split
    · exact wf
    · exact ih _ _ _ _ (State.commit_wf _ _ _ _ _ wf)

/-- Bytes that the payload does not meet read as before. -/
theorem State.peerStore_get_other (s : State) (off v k n y : Nat) (away : ∀ j < n, y ≠ x.pa (off + j)) :
    Memory.get (s.peerStore x off v k n).mem y = Memory.get s.mem y := by
  induction k generalizing s off v n with
  | zero => rfl
  | succ k ih =>
    rw [State.peerStore]
    split
    · rfl
    · let m := min n (64 - off % 64)
      have below : ∀ j < m, y ≠ x.pa off + j := by
        intro j hj
        rw [← x.pa_add (by omega)]
        exact away j (by omega)
      rw [ih _ _ _ _ fun j hj => by rw [Nat.add_assoc]; exact away _ (by omega), State.commit_mem, Memory.get_write_other]
      have := below (y - x.pa off)
      omega

/-- Byte j of the payload stands at its place. -/
theorem State.peerStore_get (s : State) (off v k n j : Nat) (wf : Memory.wf s.mem = true)
    (apart : ∀ a < n, ∀ b < n, x.pa (off + a) = x.pa (off + b) → a = b) (fuel : off % 64 + n ≤ 64 * k) (hj : j < n) :
    Memory.get (s.peerStore x off v k n).mem (x.pa (off + j)) = BitVec.ofNat 8 (v / 256 ^ j) := by
  induction k generalizing s off v n j with
  | zero => omega
  | succ k ih =>
    rw [State.peerStore, if_neg (by omega)]
    let m := min n (64 - off % 64)
    by_cases first : j < m
    · have later : ∀ i < n - m, x.pa (off + j) ≠ x.pa (off + m + i) := by
        intro i hi same
        rw [Nat.add_assoc] at same
        have := apart j hj (m + i) (by omega) same
        omega
      rw [State.peerStore_get_other x _ _ _ _ _ _ later, State.commit_mem, x.pa_add (by omega),
        Memory.get_write_full _ _ _ _ _ wf first, byte_low v first]
    · have place : x.pa (off + j) = x.pa (off + m + (j - m)) := by rw [Nat.add_assoc, show m + (j - m) = j by omega]
      have value : v / 2 ^ (8 * m) / 256 ^ (j - m) = v / 256 ^ j := by
        rw [Nat.pow_mul, Nat.div_div_eq_div_mul, ← Nat.pow_add, show m + (j - m) = j by omega]
      rw [place, ih _ _ _ _ _ (State.commit_wf _ _ _ _ _ wf) ?_ (by omega) (by omega), value]
      intro a ha b hb same
      rw [Nat.add_assoc, Nat.add_assoc] at same
      have := apart (m + a) (by omega) (m + b) (by omega) same
      omega

end

/-! ### A peer's write (R267, R270, R442) -/

/-- A window takes a peer's write: it is live, the peer may store, and payload and flag lie inside (R442). -/
def TakesWrite (x : Window) (win off n : Nat) (flag : Option (Nat × BitVec 32)) : Prop :=
  win ≠ 0 ∧ x.st = .live ∧ x.w = true ∧ off + n ≤ x.granules.length * 0x20000 ∧
    ∀ o v, flag = some (o, v) → o + 8 ≤ x.granules.length * 0x20000 ∧ o % 8 = 0

/-- The flag of a peer's write, once its payload has been performed (R442). -/
def State.peerFlag (s : State) (x : Window) (flag : Option (Nat × BitVec 32)) : State :=
  flag.elim s fun q => s.commit (x.pa q.1) 8 q.2.toNat (fullMask 8)

/-- A peer's write has been performed, and the peer is told (R285). -/
def State.ack (s : State) (win : Nat) : State := { s with sent := s.sent ++ [.ackd win] }

@[simp] theorem State.ack_sent (s : State) (win : Nat) : (s.ack win).sent = s.sent ++ [.ackd win] := rfl
@[simp] theorem State.ack_mem (s : State) (win : Nat) : (s.ack win).mem = s.mem := rfl
@[simp] theorem State.ack_accs (s : State) (win : Nat) : (s.ack win).accs = s.accs := rfl
@[simp] theorem State.ack_regions (s : State) (win : Nat) : (s.ack win).regions = s.regions := rfl
@[simp] theorem State.ack_threads (s : State) (win : Nat) : (s.ack win).threads = s.threads := rfl
@[simp] theorem State.ack_bad (s : State) (win : Nat) : (s.ack win).bad = s.bad := rfl

theorem State.stalled_of_none {s : State} (h : s.recrypt = []) (pa : Nat) : s.stalled pa = false := by
  simp [State.stalled, h]

theorem State.ctrBad_of_none {s : State} (h : s.badCtr = []) (pa : Nat) : s.ctrBad pa = false := by
  simp [State.ctrBad, h]

theorem State.isBad_of_none {s : State} (bad : s.bad = []) (ctr : s.badCtr = []) (pa : Nat) : s.isBad pa = false := by
  simp [State.isBad, bad, State.ctrBad_of_none ctr]

theorem State.writeBad_of_none {s : State} (bad : s.bad = []) (ctr : s.badCtr = []) (pa : Nat) (covers : Bool) :
    s.writeBad pa covers = false := by
  simp [State.writeBad, State.isBad_of_none bad ctr, State.ctrBad_of_none ctr]

theorem State.commit_bad_nil {s : State} (h : s.bad = []) (pa n x mask : Nat) : (s.commit pa n x mask).bad = [] := by
  rw [State.commit_bad, h]
  split <;> rfl

theorem State.peerStore_bad_nil (x : Window) (s : State) (off v k n : Nat) (h : s.bad = []) :
    (s.peerStore x off v k n).bad = [] := by
  induction k generalizing s off v n with
  | zero => exact h
  | succ k ih =>
    rw [State.peerStore]
    split
    · exact h
    · exact ih _ _ _ _ (State.commit_bad_nil h _ _ _ _)

/-- A range within one block has one part. -/
theorem blockParts_one {va : Word} {n : Nat} (k o : Nat) (pos : 0 < n) (block : va.toNat % 64 + n ≤ 64) :
    blockParts (k + 1) va n o = [(va, n, o)] := by
  rw [blockParts, if_neg (by omega), if_pos (by omega)]

section
variable {s : State} {x : Window} {win off : Nat} {xs : List Byte} {flag : Option (Nat × BitVec 32)}
  (window : s.wins.toList[win]? = some x)
include window

/-- The window that a peer's write names. -/
theorem State.window_getD : s.wins.toList.getD win {} = x := by
  rw [List.getD_eq_getElem?_getD, window, Option.getD_some]

theorem exec_peerWriteReceive_refused (shut : ¬TakesWrite x win off xs.length flag) :
    exec (.peerWriteReceive win off xs flag) s = .next { s with sent := s.sent ++ [.refusal win] } := by
  change execPeerWriteReceive win off xs flag s = _
  unfold execPeerWriteReceive
  simp only [State.window_getD window]
  refine if_pos (Decidable.byContradiction fun opens => shut ?_)
  cases flag with
  | none => simpa [TakesWrite, and_assoc] using opens
  | some q =>
    obtain ⟨o, v⟩ := q
    simpa [TakesWrite, and_assoc] using opens

theorem exec_peerWriteReceive_performed (opens : TakesWrite x win off xs.length flag) (bad : s.bad = []) (ctr : s.badCtr = [])
    (recrypt : s.recrypt = []) : exec (.peerWriteReceive win off xs flag) s =
      .next (((s.peerStore x off (ofBytes xs) (xs.length / 64 + 2) xs.length).peerFlag x flag).ack win) := by
  have ctr1 := (State.peerStore_keeps x State.badCtr (fun s pa n v => s.commit_badCtr pa n v _) s off (ofBytes xs)
    (xs.length / 64 + 2) xs.length).trans ctr
  have bad1 := State.peerStore_bad_nil x s off (ofBytes xs) (xs.length / 64 + 2) xs.length bad
  obtain ⟨named, live, stores, inside, flagInside⟩ := opens
  change execPeerWriteReceive win off xs flag s = _
  unfold execPeerWriteReceive
  simp only [State.window_getD window]
  cases flag with
  | none =>
    simp [named, live, stores, inside, State.stalled_of_none recrypt, State.writeBad_of_none bad ctr, State.peerFlag, State.ack]
  | some q =>
    obtain ⟨fits, aligned⟩ := flagInside q.1 q.2 rfl
    simp [named, live, stores, inside, fits, aligned, State.stalled_of_none recrypt, State.writeBad_of_none bad ctr,
      State.isBad_of_none bad1 ctr1, State.peerFlag, State.ack]

/-- A payload within one block that fails: one that covers it in part is not performed. -/
theorem exec_peerWriteReceive_failing (opens : TakesWrite x win off xs.length none) (ctr : s.badCtr = [])
    (recrypt : s.recrypt = []) (small : off < 2 ^ 64) (block : off % 64 + xs.length ≤ 64) (nonempty : xs ≠ [])
    (bad : x.pa off / 64 ∈ s.bad) : exec (.peerWriteReceive win off xs none) s =
      if xs.length = 64 then .next ((s.peerStore x off (ofBytes xs) 3 64).ack win) else .next (s.fence x.peer cIntegrity) := by
  have start : (w64 off).toNat = off := Nat.mod_eq_of_lt small
  have parts : blockParts (xs.length / 64 + 2) (w64 off) xs.length 0 = [(w64 off, xs.length, 0)] :=
    blockParts_one _ _ (List.length_pos_iff.mpr nonempty) (by rw [start]; exact block)
  have partly : s.writeBad (x.pa off) false = true := by simp [State.writeBad, State.isBad, bad]
  have wholly : s.writeBad (x.pa off) true = false := by simp [State.writeBad, State.ctrBad_of_none ctr]
  obtain ⟨named, live, stores, inside, -⟩ := opens
  change execPeerWriteReceive win off xs none s = _
  unfold execPeerWriteReceive
  simp only [State.window_getD window, parts]
  by_cases whole : xs.length = 64
  · rw [whole] at inside
    simp [named, live, stores, inside, State.stalled_of_none recrypt, start, wholly, whole, State.ack]
  · simp [named, live, stores, inside, State.stalled_of_none recrypt, start, partly, beq_false_of_ne whole, whole]

end

section
variable (s : State) (x : Window) (flag : Option (Nat × BitVec 32))

/-- What no write of bytes changes, a peer's write does not change. -/
theorem State.peerWrite_keeps {γ : Type} (p : State → γ)
    (hp : ∀ (s : State) pa n v, p (s.commit pa n v (fullMask n)) = p s) (off v k n : Nat) :
    p ((s.peerStore x off v k n).peerFlag x flag) = p s := by
  cases flag with
  | none => exact State.peerStore_keeps x p hp s off v k n
  | some q => exact (hp _ _ _ _).trans (State.peerStore_keeps x p hp s off v k n)

/-- Bytes that the flag does not meet read as before. -/
theorem State.peerFlag_get_other (y : Nat) (away : ∀ o v, flag = some (o, v) → ∀ j < 8, y ≠ x.pa o + j) :
    Memory.get (s.peerFlag x flag).mem y = Memory.get s.mem y := by
  cases flag with
  | none => rfl
  | some q =>
    have apart := away q.1 q.2 rfl (y - x.pa q.1)
    change Memory.get (s.commit (x.pa q.1) 8 q.2.toNat (fullMask 8)).mem y = _
    rw [State.commit_mem, Memory.get_write_other _ _ _ _ _ _ (by omega)]

/-- The flag's doubleword holds the completion value. -/
theorem State.peerFlag_read (o : Nat) (v : BitVec 32) (wf : Memory.wf s.mem = true) :
    Memory.read (s.peerFlag x (some (o, v))).mem (x.pa o) 8 = v.toNat := by
  change Memory.read (s.commit (x.pa o) 8 v.toNat (fullMask 8)).mem (x.pa o) 8 = _
  rw [State.commit_mem, Memory.read_write_same _ _ _ _ wf]
  exact Nat.mod_eq_of_lt (Nat.lt_trans v.isLt (by decide))

end

/-- A block that a peer writes whole verifies again (R267). -/
theorem State.peerStore_block_verifies (s : State) (x : Window) (off v k : Nat) (aligned : off % 64 = 0) :
    x.pa off / 64 ∉ (s.peerStore x off v (k + 2) 64).bad := by
  have once : s.peerStore x off v (k + 2) 64 = s.commit (x.pa off) 64 (v % 2 ^ (8 * 64)) (fullMask 64) := by
    rw [State.peerStore, if_neg (by omega), aligned]
    simp only [Nat.sub_zero, Nat.min_self, Nat.sub_self, State.peerStore_zero]
  rw [once, State.commit_bad]
  simp

end Sys2Proof.Machine

namespace Sys2Proof.Claims
open Sys2Proof.Machine

/-- The replies of a thread's reads, and the writes of a peer. -/
theorem engineBytesArrive : EngineBytesArrive := by
  refine ⟨fun s l r a tl tr x p among performed party first place sole read => ?reply,
    fun win off xs flag s x window => ?write⟩
  case reply =>
    have answered := exec_accessReply among performed first
    obtain ⟨copied, kept⟩ := State.replyTo_thread among party place sole read
    refine ⟨fun op whole => ?whole, fun o op outs part short => ?part, fun notCpy notGth => ?kept⟩
    case whole =>
      let t : State := { s with accs := l ++ r, threads := tl ++ { x with reads := [] } :: tr }
      obtain ⟨l', n, fold, length, stores⟩ := State.foldl_threadStore x a.val.toNat p.outs t
      rw [answered, copied op, State.threadOuts_whole x _ _ _ whole, fold]
      exact ⟨_, l', rfl, rfl, rfl, rfl, length, stores⟩
    case part =>
      rw [answered, copied op, outs]
      refine ⟨fun missing => ?_, fun here => ?_⟩
      · exact congrArg _ (State.threadOuts_missing rfl sole part _ missing)
      · rw [State.threadOuts_completed rfl sole part _ here, State.threadStore_eq]
        exact ⟨_, _, rfl, rfl, rfl, rfl, rfl, rfl, rfl, fun i lt => heldWord_byte _ o i lt short (here i lt), rfl, rfl⟩
    case kept => rw [answered, kept notCpy notGth]
  case write =>
    intro size at_ open_ i
    refine ⟨fun shut => exec_peerWriteReceive_refused window shut,
      fun opens bad ctr recrypt nodup wf => ⟨_, exec_peerWriteReceive_performed window opens bad ctr recrypt, ?sent, ?accs,
        ?regions, ?threads, ?flag, ?payload, ?frame⟩,
      fun opens plain ctr recrypt small block nonempty bad => ?failing⟩
    case sent => rw [State.ack_sent, s.peerWrite_keeps x flag State.sent fun s pa n v => s.commit_sent pa n v _]
    case accs => rw [State.ack_accs, s.peerWrite_keeps x flag State.accs fun s pa n v => s.commit_accs pa n v _]
    case regions => rw [State.ack_regions, s.peerWrite_keeps x flag State.regions fun s pa n v => s.commit_regions pa n v _]
    case threads => rw [State.ack_threads, s.peerWrite_keeps x flag State.threads fun s pa n v => s.commit_threads pa n v _]
    case flag =>
      rintro o v rfl
      rw [State.rd, State.ack_mem]
      exact State.peerFlag_read _ x o v (State.peerStore_wf x s off _ _ _ wf)
    case payload =>
      obtain ⟨-, -, -, inside, flagInside⟩ := opens
      intro k hk apart
      have away : ∀ o v, flag = some (o, v) → ∀ j < 8, x.pa (off + k) ≠ x.pa o + j := by
        intro o v is j hj same
        obtain ⟨fits, aligned⟩ := flagInside o v is
        rw [← x.pa_add (by omega)] at same
        have meet := Window.pa_inj nodup (by omega) (by omega) same
        have := apart o v is
        omega
      rw [State.ack_mem, ← byte_ofBytes]
      refine (State.peerFlag_get_other _ x flag _ away).trans
        (State.peerStore_get x s off _ _ _ k wf (fun a ha b hb same => ?_) (by omega) hk)
      have := Window.pa_inj nodup (by omega) (by omega) same
      omega
    case frame =>
      intro y payload away
      rw [State.ack_mem]
      exact (State.peerFlag_get_other _ x flag y away).trans (State.peerStore_get_other x s off _ _ _ y payload)
    case failing =>
      subst plain
      have run := exec_peerWriteReceive_failing window opens ctr recrypt small block nonempty bad
      refine ⟨fun part => run.trans (if_neg (Nat.ne_of_lt part)), fun whole => ⟨_, run.trans (if_pos whole), ?_, ?_⟩⟩
      · rw [State.ack_sent, State.peerStore_keeps x State.sent fun s pa n v => s.commit_sent pa n v _]
      · rw [State.ack_bad]
        exact State.peerStore_block_verifies s x off _ 1 (by omega)

/-- Settles O43: the two parts of the statement together. -/
theorem engineThreadsMoveBytes : Obligations.EngineThreadsMoveBytes := ⟨engineThreadsComplete, engineBytesArrive⟩

end Sys2Proof.Claims
end
